-- ==== Sys2Proof/Word.lean ====
section
/-!
DEFINITION. The widths of the hall link's fields (R206) and the index types whose bounds are plain facts.
Helpers over them (byte order, codes) stand in Machine/Operands.lean.
-/

namespace Sys2Proof

/-- One octet of a frame, an entry or the image (R206). -/
abbrev Octet := BitVec 8

/-- A number of two octets (R206). -/
abbrev Word16 := BitVec 16

/-- Part time: the millisecond count from power-on, 32 bits, wrapping (R199). -/
abbrev PartTime := BitVec 32

/-- A round slot, 0 to 15 (R81). -/
abbrev Slot := Fin 16

/-- A station index, 0 to 2 (chapter 1). -/
abbrev StationId := Fin 3

/-- A return header index, 0 to 3 (chapter 1). -/
abbrev HeaderId := Fin 4

/-- A node map index, 0 to 63 (chapter 1). -/
abbrev NodeId := Fin 64

/-- A loaded table: its full entries by index. The canonical form is strictly rising indexes; an
index that is not listed is an empty entry (chapter 1: every entry is either empty or full). -/
abbrev Table (α : Type) := List (Nat × α)

end Sys2Proof
end

