-- ==== Sys2Proof/Syntax.lean ====
section
/-!
DEFINITION. The commands of the engine: one constructor of `Instr` per row of spec/opcode_table.json.
A management request carries the fields of R208 in their widths, with enumerated fields as raw codes, so
that every request a frame can carry, refused ones included, is a command.
-/

namespace Sys2Proof

/-- Who asks and with which tag (R182): the source address of the request frame and the first octet
of its payload. -/
structure Ask where
  source : Octet
  tag : Octet
  deriving DecidableEq, Repr

/-- The configuration record, its fields in the order of R6 and the widths of R208. -/
structure ConfigRecord where
  ownAddress : Octet
  linkSilence : Word16
  nodeSilence : Word16
  visitPeriod : Octet
  lockTravel : Word16
  ageB : Word16
  ageC : Word16
  causticLimit : Word16
  acidLimit : Word16
  interfaceHold : Word16
  interfaceMax : Word16
  drainFlow : Word16
  drainHold : Word16
  drainMax : Word16
  eventMask : BitVec 32
  deriving DecidableEq, Repr

/-- A node map entry as carried (R9, R208). -/
structure NodeFields where
  address : Octet
  kind : Octet
  deriving DecidableEq, Repr

/-- A segment entry as carried (R12, R208). -/
structure SegmentFields where
  kind : Octet
  header : Octet
  flow : Octet
  deriving DecidableEq, Repr

/-- A valve entry as carried (R14, R208). -/
structure ValveFields where
  node : Octet
  slot : Octet
  kind : Octet
  sideA : Octet
  sideB : Octet
  deriving DecidableEq, Repr

/-- A drive entry as carried (R17, R208). -/
structure DriveFields where
  node : Octet
  channel : Octet
  kind : Octet
  minimum : Word16
  maximum : Word16
  deriving DecidableEq, Repr

/-- A point entry as carried (R19, R208). -/
structure PointFields where
  node : Octet
  channel : Octet
  kind : Octet
  deriving DecidableEq, Repr

/-- A station entry as carried (R20, R208). -/
structure StationFields where
  rinse : Word16
  recovered : Word16
  caustic : Word16
  acid : Word16
  sanitiser : Word16
  air : Word16
  pump : Octet
  heater : Octet
  temp : Octet
  deriving DecidableEq, Repr

/-- A return header entry as carried (R22, R208). -/
structure HeaderFields where
  segment : Octet
  drain : Word16
  caustic : Word16
  acid : Word16
  recirc0 : Word16
  recirc1 : Word16
  recirc2 : Word16
  cond : Octet
  temp : Octet
  flow : Octet
  deriving DecidableEq, Repr

/-- A station entry of a route as carried: three octets, station and valve (R208). -/
structure StationPair where
  station : Octet
  valve : Word16
  deriving DecidableEq, Repr

/-- A route entry as carried (R24, R208). An element of the setting or boundary list holds the valve
index in its low nine bits and the pair's code in its top bit. -/
structure RouteFields where
  segments : List Octet
  setting : List Word16
  boundary : List Word16
  stations : List StationPair
  travel : Word16
  fillFlow : Word16
  holdLimit : Word16
  deriving DecidableEq, Repr

/-- A criterion slot of a step as carried: six octets (R208). -/
structure CriterionFields where
  role : Octet
  comparison : Octet
  limit : Word16
  window : Octet
  required : Octet
  deriving DecidableEq, Repr

/-- A recipe step as carried: 34 octets (R27, R208). -/
structure StepFields where
  medium : Octet
  choice : Octet
  keep : Octet
  pump : Octet
  heater : Word16
  fillLimit : Word16
  holdTime : Word16
  wallLimit : Word16
  disposition : Octet
  pulses : Octet
  liftLength : Octet
  count : Octet
  crit1 : CriterionFields
  crit2 : CriterionFields
  crit3 : CriterionFields
  deriving DecidableEq, Repr

/-- The nine tables a request can name (R208). -/
inductive TableId where
  | nodeMap | segment | valve | drive | point | station | header | route | recipe
  deriving DecidableEq, Repr

/-- An entry in full form, as a request or an image record carries it. -/
inductive Content where
  | nodeMap (f : NodeFields)
  | segment (f : SegmentFields)
  | valve (f : ValveFields)
  | drive (f : DriveFields)
  | point (f : PointFields)
  | station (f : StationFields)
  | header (f : HeaderFields)
  | route (f : RouteFields)
  | recipe (steps : List StepFields)
  deriving DecidableEq, Repr

/-- What a one-part TABLE_WRITE carries (R185, R208): a table code that names no table, a table and an
index with the empty form, or an index with an entry in full form. -/
inductive TableWrite where
  | unknown (code : Octet)
  | empty (table : TableId) (index : Word16)
  | full (index : Word16) (content : Content)
  deriving DecidableEq, Repr

/-- A management request of the right form (R183, R208). The codes of action, mark and mode, and
indexes, stand as carried: the request's own rule judges them. -/
inductive Request where
  | configWrite (record : ConfigRecord)
  | configRead
  | tableWrite (write : TableWrite)
  | recipeFirstPart (index : Word16) (count : Octet) (steps : List StepFields)
  | recipeSecondPart (index : Word16) (steps : List StepFields)
  | tableRead (table : Octet) (index : Word16) (part : Option Octet)
  | roundStart (slot recipe route cls : Octet)
  | roundControl (slot action : Octet)
  | roundRead (slot : Octet)
  | segmentMark (segment mark : Octet)
  | suspectClear (segment : Octet)
  | eventFetch (mode count : Octet)
  | restart
  deriving DecidableEq, Repr

/-- The commands: one constructor per row of spec/opcode_table.json, in the table's order. -/
inductive Instr where
  /-- POWER_ON (R199). -/
  | powerOn
  /-- IMAGE_HEADER_READ (R200): the octets of the five-octet header the memory acknowledged. -/
  | imageHeaderRead (octets : List Octet)
  /-- IMAGE_FIRST_PASS_END (R201): the octets of the record area the memory acknowledged. -/
  | imageFirstPassEnd (octets : List Octet)
  /-- IMAGE_RECORD_APPLY (R202): the octets the memory acknowledged from the loader's position on. -/
  | imageRecordApply (octets : List Octet)
  /-- FRAME_ARRIVAL_U (R145): the octets that arrived up to the frame's end. -/
  | frameArrivalU (octets : List Octet)
  /-- FRAME_ARRIVAL_F (R146): the octets that arrived up to the frame's end. -/
  | frameArrivalF (octets : List Octet)
  /-- LINK_SILENCE_EXPIRY (R164). -/
  | linkSilenceExpiry
  /-- NODE_SILENCE_EXPIRY (R162): of the node at a node map index. -/
  | nodeSilenceExpiry (node : NodeId)
  /-- ANSWER_SENT (R181). -/
  | answerSent
  /-- CONFIG_WRITE (R6, R8). -/
  | configWrite (ask : Ask) (record : ConfigRecord)
  /-- CONFIG_READ (R185). -/
  | configRead (ask : Ask)
  /-- TABLE_WRITE (R2). -/
  | tableWrite (ask : Ask) (write : TableWrite)
  /-- RECIPE_FIRST_PART (R186): recipe index, step count of the whole recipe, the six steps 0 to 5. -/
  | recipeFirstPart (ask : Ask) (index : Word16) (count : Octet) (steps : List StepFields)
  /-- RECIPE_SECOND_PART (R186): recipe index, steps 6 onward. -/
  | recipeSecondPart (ask : Ask) (index : Word16) (steps : List StepFields)
  /-- TABLE_READ (R185): table code, index, and for the recipe table a part. -/
  | tableRead (ask : Ask) (table : Octet) (index : Word16) (part : Option Octet)
  /-- ROUND_START (R84, R187). -/
  | roundStart (ask : Ask) (slot recipe route cls : Octet)
  /-- PAUSE (R103). -/
  | pause (ask : Ask) (slot : Octet)
  /-- RESUME (R104). -/
  | resume (ask : Ask) (slot : Octet)
  /-- ABORT (R105). -/
  | abort (ask : Ask) (slot : Octet)
  /-- RELEASE (R110). -/
  | release (ask : Ask) (slot : Octet)
  /-- CLEAR (R111). -/
  | clear (ask : Ask) (slot : Octet)
  /-- ROUND_READ (R188). -/
  | roundRead (ask : Ask) (slot : Octet)
  /-- SEGMENT_MARK_PRODUCT (R58). -/
  | segmentMarkProduct (ask : Ask) (segment : Octet)
  /-- SEGMENT_MARK_FREE (R60). -/
  | segmentMarkFree (ask : Ask) (segment : Octet)
  /-- SUSPECT_CLEAR (R62). -/
  | suspectClear (ask : Ask) (segment : Octet)
  /-- EVENT_FETCH_TAKE (R195). -/
  | eventFetchTake (ask : Ask) (count : Octet)
  /-- EVENT_FETCH_REPEAT (R196). -/
  | eventFetchRepeat (ask : Ask) (count : Octet)
  /-- RESTART (R204). -/
  | restart (ask : Ask)
  /-- TRAVEL_TIMER_EXPIRY (R89). -/
  | travelTimerExpiry (slot : Slot)
  /-- AGEING_TIMER_EXPIRY (R71). -/
  | ageingTimerExpiry (slot : Slot)
  /-- FILL_TIMER_EXPIRY (R93). -/
  | fillTimerExpiry (slot : Slot)
  /-- WALL_TIMER_EXPIRY (R94). -/
  | wallTimerExpiry (slot : Slot)
  /-- HOLD_TIME_REACHED (R123). -/
  | holdTimeReached (slot : Slot)
  /-- LIFT_TIMER_EXPIRY (R97). -/
  | liftTimerExpiry (slot : Slot)
  /-- HOLD_LIMIT_EXPIRY (R102). -/
  | holdLimitExpiry (slot : Slot)
  /-- DRAIN_HOLD_ELAPSE (R107). -/
  | drainHoldElapse (slot : Slot)
  /-- DRAIN_MAXIMUM_EXPIRY (R107). -/
  | drainMaximumExpiry (slot : Slot)
  /-- INTERFACE_OUT_HOLD_ELAPSE (R133). -/
  | interfaceOutHoldElapse (header : HeaderId)
  /-- INTERFACE_IN_HOLD_ELAPSE (R135). -/
  | interfaceInHoldElapse (header : HeaderId)
  /-- INTERFACE_MAXIMUM_EXPIRY (R136). -/
  | interfaceMaximumExpiry (header : HeaderId)
  /-- VISIT_TIMER_EXPIRY (R169). -/
  | visitTimerExpiry
  deriving DecidableEq, Repr

end Sys2Proof
end

