-- ==== Sys2Proof/Config.lean ====
section
/-!
DEFINITION. The sizes the manual fixes, and the free values: constants with no body, which nothing can
evaluate. A free value is applied to the counter `State.freeCount`, which every use advances.
-/

namespace Sys2Proof

/-- Entries of the nine tables (chapters 1 and 2). -/
def TableId.size : TableId → Nat
  | .nodeMap => 64
  | .segment => 192
  | .valve => 512
  | .drive => 32
  | .point => 128
  | .station => 3
  | .header => 4
  | .route => 48
  | .recipe => 24

/-- The event queue holds no more than 64 records (R193). -/
def Config.eventCapacity : Nat := 64

/-- FREE VALUE (log 5). The order in which the world takes expiries that come due in the same
millisecond (R113, R126, R142, R166): those of lower rank first. -/
opaque Config.raceRank : Nat → Instr → Nat

/-- FREE VALUE (log 24). The pulse number that ROUND_READ reports while the lift progress is DONE:
R208 gives the octet a place and states no value. -/
opaque Config.liftDonePulse : Nat → Octet

/-- FREE VALUE (log 24). The phase octet that ROUND_READ reports while the lift progress is DONE. -/
opaque Config.liftDonePhase : Nat → Octet

/-- FREE VALUE (log 42). What a judging visit hands to the claim arbiter and the sequencer is still on its way when the
visit ends, and reaches them later (R61, R175, R179), or is taken at once. -/
opaque Config.handoverWaits : Nat → Bool

end Sys2Proof
end

