-- ==== Sys2Proof/WellFormed.lean ====
section
/-!
DEFINITION. Which commands can stand for an event of the outside world: a request is well-formed when a
frame of at most 240 payload octets (R206) can carry it in the forms of R208. The meanings are total on
ill-formed commands too.
-/

namespace Sys2Proof

/-- A frame's payload holds at most 240 octets (R206). -/
def maxPayload : Nat := 240

/-- A list that a count octet introduces holds at most 255 elements (R206). -/
def listFits {α : Type} (l : List α) : Bool := l.length ≤ 255

/-- Octets of a route entry in full form (R208). -/
def RouteFields.octetCount (f : RouteFields) : Nat :=
  1 + f.segments.length + (1 + 2 * f.setting.length) + (1 + 2 * f.boundary.length)
    + (1 + 3 * f.stations.length) + 6

/-- The entry can be carried behind the six octets of tag, code, table, index and form. -/
def Content.wf : Content → Bool
  | .route f => listFits f.segments && listFits f.setting && listFits f.boundary
      && listFits f.stations && f.octetCount + 6 ≤ maxPayload
  | .recipe steps => 34 * steps.length + 8 ≤ maxPayload
  | _ => true

/-- The request has a form R208 gives. -/
def Request.wf : Request → Bool
  | .tableWrite (.unknown code) => code.toNat == 0 || 9 < code.toNat
  | .tableWrite (.full _ content) => content.wf
  | .recipeFirstPart _ _ steps => steps.length == 6
  | .recipeSecondPart _ steps => 34 * steps.length + 8 ≤ maxPayload
  | .tableRead table _ part => part.isSome == (table == 0x09)
  | _ => true

/-- The request a command carries, with its asker (R182): the rows of R183's table. -/
def Instr.request? : Instr → Option (Ask × Request)
  | .configWrite a record => some (a, .configWrite record)
  | .configRead a => some (a, .configRead)
  | .tableWrite a w => some (a, .tableWrite w)
  | .recipeFirstPart a index count steps => some (a, .recipeFirstPart index count steps)
  | .recipeSecondPart a index steps => some (a, .recipeSecondPart index steps)
  | .tableRead a table index part => some (a, .tableRead table index part)
  | .roundStart a slot recipe route cls => some (a, .roundStart slot recipe route cls)
  | .pause a slot => some (a, .roundControl slot 0x00)
  | .resume a slot => some (a, .roundControl slot 0x01)
  | .abort a slot => some (a, .roundControl slot 0x02)
  | .release a slot => some (a, .roundControl slot 0x03)
  | .clear a slot => some (a, .roundControl slot 0x04)
  | .roundRead a slot => some (a, .roundRead slot)
  | .segmentMarkProduct a segment => some (a, .segmentMark segment 0x01)
  | .segmentMarkFree a segment => some (a, .segmentMark segment 0x00)
  | .suspectClear a segment => some (a, .suspectClear segment)
  | .eventFetchTake a count => some (a, .eventFetch 0x00 count)
  | .eventFetchRepeat a count => some (a, .eventFetch 0x01 count)
  | .restart a => some (a, .restart)
  | .powerOn => none
  | .imageHeaderRead _ => none
  | .imageFirstPassEnd _ => none
  | .imageRecordApply _ => none
  | .frameArrivalU _ => none
  | .frameArrivalF _ => none
  | .linkSilenceExpiry => none
  | .nodeSilenceExpiry _ => none
  | .answerSent => none
  | .travelTimerExpiry _ => none
  | .ageingTimerExpiry _ => none
  | .fillTimerExpiry _ => none
  | .wallTimerExpiry _ => none
  | .holdTimeReached _ => none
  | .liftTimerExpiry _ => none
  | .holdLimitExpiry _ => none
  | .drainHoldElapse _ => none
  | .drainMaximumExpiry _ => none
  | .interfaceOutHoldElapse _ => none
  | .interfaceInHoldElapse _ => none
  | .interfaceMaximumExpiry _ => none
  | .visitTimerExpiry => none

/-- A command is well-formed when its request is, and when the loader's octets fit the header (R200)
and the record area (R201). -/
def Instr.wf (i : Instr) : Bool :=
  match i with
  | .imageHeaderRead octets => octets.length ≤ 5
  | .imageFirstPassEnd octets => octets.length ≤ 65535
  | .imageRecordApply octets => octets.length ≤ 65535
  | i => match i.request? with
    | some (_, r) => r.wf
    | none => true

end Sys2Proof
end

