-- ==== Sys2Proof/Decode.lean ====
section
/-!
DEFINITION. The command a table word spells. No row of spec/opcode_table.json gives bits, so no word
spells a command (log 29).
-/

namespace Sys2Proof

/-- The command that a word spells by the opcode table's bits: none, since no row gives any. -/
def decodeTableWord (nbits w : Nat) : Option Instr :=
  match nbits, w with
  | _, _ => none

end Sys2Proof
end

