-- ==== Sys2Proof/Machine/State.lean ====
section
/-!
DEFINITION. The state of the engine as plain data, holding everything the manual gives it (INVENTORY.md
lists each piece with its rule), the stop reasons, and the state at power-on.
-/

namespace Sys2Proof.Machine

/-! ### Names of the manual -/

/-- Kinds of node (R9). -/
inductive NodeKind where
  | valveCluster | drive | instrument
  deriving DecidableEq, Repr

/-- Kinds of segment (R12). -/
inductive SegmentKind where
  | line | vessel | heatExchanger | ret
  deriving DecidableEq, Repr

/-- Why a segment is SUSPECT (R13). -/
inductive SuspectCause where
  | breach | restart
  deriving DecidableEq, Repr

/-- The state of a segment (R42): a CLAIMED segment names its round, a SUSPECT one its cause. -/
inductive SegmentState where
  | free
  | product
  | claimed (round : Slot)
  | suspect (cause : SuspectCause)
  deriving DecidableEq, Repr

/-- Kinds of valve (R14). -/
inductive ValveKind where
  | singleSeat | mixproof
  deriving DecidableEq, Repr

/-- The two sides of a valve (chapter 1). -/
inductive Side where
  | a | b
  deriving DecidableEq, Repr

/-- Positions that can be commanded or requested (R15). Commanded NONE is the absence of one. -/
inductive Position where
  | close | open | liftA | liftB
  deriving DecidableEq, Repr

/-- Fed-back positions (R15). -/
inductive Feedback where
  | closed | open | liftedA | liftedB | travel | fault | unknown
  deriving DecidableEq, Repr

/-- Kinds of drive (R17). -/
inductive DriveKind where
  | pump | heater
  deriving DecidableEq, Repr

/-- Fed-back status of a drive (R18). -/
inductive DriveStatus where
  | running | stopped | fault | unknown
  deriving DecidableEq, Repr

/-- Kinds of measurement point (R19). -/
inductive PointKind where
  | cond | temp | flow
  deriving DecidableEq, Repr

/-- Quality of a point's value (R19). -/
inductive Quality where
  | good | uncertain | bad | none
  deriving DecidableEq, Repr

/-- Cleaning media (R20, R27). -/
inductive Medium where
  | rinse | recovered | caustic | acid | sanitiser | air
  deriving DecidableEq, Repr

/-- Return disposition of a step (R27). -/
inductive Disposition where
  | drain | recover | recirculate
  deriving DecidableEq, Repr

/-- Criterion roles (R30). -/
inductive Role where
  | supplyTemp | returnTemp | returnCond | returnFlow
  deriving DecidableEq, Repr

/-- Criterion comparisons (R30). -/
inductive Comparison where
  | atLeast | atMost
  deriving DecidableEq, Repr

/-- Classes of a round (chapter 4). -/
inductive RoundClass where
  | a | b | c
  deriving DecidableEq, Repr

/-- States of a round (R81). -/
inductive RoundState where
  | idle | waitRoute | setting | waitStation | stepFill | stepTiming | holding | paused | ending
  | done | faulted
  deriving DecidableEq, Repr

/-- Results of a round (R81). -/
inductive RoundResult where
  | completed | aborted | faultReleased
  deriving DecidableEq, Repr

/-- Resume states (R81). -/
inductive ResumeState where
  | setting | stepFill | stepTiming | ending
  deriving DecidableEq, Repr

/-- Fault causes, in the order of R109. -/
inductive FaultCause where
  | headerLost | travelTimeout | stationUnfit | criterionUnbound | fillTimeout | stepOvertime
  | driveFault | holdTooLong | drainOvertime | scanMismatch | segregationBreach
  deriving DecidableEq, Repr

/-- A subject with its tag (R190, R209). -/
inductive Subject where
  | valve (index : Nat)
  | drive (index : Nat)
  | segment (index : Nat)
  | node (index : Nat)
  | point (index : Nat)
  | station (index : Nat)
  deriving DecidableEq, Repr

/-- Diverter targets (R128): RECIRCULATE is held with its station and its medium. -/
inductive Target where
  | drain
  | recoverCaustic
  | recoverAcid
  | recirculate (station : StationId) (medium : Medium)
  deriving DecidableEq, Repr

/-- Interface states of a header (R23). -/
inductive InterfaceState where
  | steady | interfaceIn | interfaceOut
  deriving DecidableEq, Repr

/-- The two phases of a lift pulse (R97). -/
inductive LiftPhase where
  | lifted | closed
  deriving DecidableEq, Repr

/-- Lift progress of a step (R81): boundary list position, pulse number and phase, or DONE. -/
inductive LiftProgress where
  | done
  | active (position pulse : Nat) (phase : LiftPhase)
  deriving DecidableEq, Repr

/-! ### Timers -/

/-- How a timer stands (00_scope.md, Timers). -/
inductive TimerMode where
  | stopped | running | paused
  deriving DecidableEq, Repr

/-- A timer (R1): elapsed milliseconds, and the limit in milliseconds taken at its start. -/
structure Timer where
  mode : TimerMode
  elapsed : Nat
  limit : Nat
  deriving DecidableEq, Repr

/-- A timer stopped at 0.0, as at power-on (R82). -/
def Timer.off : Timer := ⟨.stopped, 0, 0⟩

/-! ### Table entries -/

/-- A node map entry (R9, R10) with its silence timer (R161). -/
structure NodeEntry where
  address : Octet
  kind : NodeKind
  lastReply : Option PartTime
  silent : Bool
  silence : Timer
  deriving DecidableEq, Repr

/-- A segment entry (R12, R13). -/
structure SegmentEntry where
  kind : SegmentKind
  header : Option HeaderId
  flow : Option Nat
  state : SegmentState
  deriving DecidableEq, Repr

/-- A valve entry with its image (R14, R15). -/
structure ValveEntry where
  node : Octet
  slot : Nat
  kind : ValveKind
  sideA : Option Nat
  sideB : Option Nat
  owner : Option Slot
  commanded : Option Position
  requested : Option Position
  feedback : Feedback
  changed : Option PartTime
  misses : Nat
  deriving DecidableEq, Repr

/-- A drive entry with its image (R17, R18). -/
structure DriveEntry where
  node : Octet
  channel : Nat
  kind : DriveKind
  minimum : Nat
  maximum : Nat
  owner : Option Slot
  commanded : Option Nat
  requested : Option Nat
  status : DriveStatus
  value : Option Nat
  deriving DecidableEq, Repr

/-- A measurement point (R19). -/
structure PointEntry where
  node : Octet
  channel : Nat
  kind : PointKind
  value : Option Nat
  quality : Quality
  time : Option PartTime
  deriving DecidableEq, Repr

/-- The loaded fields of a station (R20). -/
structure StationLoad where
  rinse : Option Nat
  recovered : Option Nat
  caustic : Option Nat
  acid : Option Nat
  sanitiser : Option Nat
  air : Option Nat
  pump : Nat
  heater : Option Nat
  temp : Option Nat
  deriving DecidableEq, Repr

/-- A station (R20, R21): loaded fields when the entry is full, and grant state. The request time and
effective class of each waiting round stand in its round record. -/
structure Station where
  load : Option StationLoad
  granted : Option Slot
  linked : Bool
  queue : List Slot
  deriving DecidableEq, Repr

/-- The loaded fields of a return header (R22). -/
structure HeaderLoad where
  segment : Nat
  drain : Nat
  caustic : Option Nat
  acid : Option Nat
  recirc0 : Option Nat
  recirc1 : Option Nat
  recirc2 : Option Nat
  cond : Option Nat
  temp : Option Nat
  flow : Nat
  deriving DecidableEq, Repr

/-- A return header (R22, R23, R129). -/
structure Header where
  load : Option HeaderLoad
  current : Target
  pending : Option Target
  interface : InterfaceState
  hold : Timer
  maximum : Timer
  deriving DecidableEq, Repr

/-- An element of a route's setting list (R24). -/
structure SettingItem where
  valve : Nat
  opened : Bool
  deriving DecidableEq, Repr

/-- An element of a route's boundary list (R24). -/
structure BoundaryItem where
  valve : Nat
  outer : Side
  deriving DecidableEq, Repr

/-- A station entry of a route (R24). -/
structure StationItem where
  station : StationId
  valve : Nat
  deriving DecidableEq, Repr

/-- A route entry (R24): travel limit in 0.1 s, fill flow minimum in l/h, hold limit in s. -/
structure Route where
  segments : List Nat
  setting : List SettingItem
  boundary : List BoundaryItem
  stations : List StationItem
  travel : Nat
  fillFlow : Nat
  holdLimit : Nat
  deriving DecidableEq, Repr

/-- A criterion of a step (R30), its limit in the role's resolution. -/
structure Criterion where
  role : Role
  comparison : Comparison
  limit : Nat
  window : Nat
  required : Nat
  deriving DecidableEq, Repr

/-- A recipe step (R27): limits and hold time in s, lift length and heater setpoint in tenths. The
station choice is absent for ANY. -/
structure RecipeStep where
  medium : Medium
  choice : Option StationId
  keep : Bool
  pump : Nat
  heater : Option Nat
  fillLimit : Nat
  holdTime : Nat
  wallLimit : Nat
  disposition : Disposition
  pulses : Nat
  liftLength : Nat
  criteria : List Criterion
  deriving DecidableEq, Repr

/-! ### Round records -/

/-- A fault record (R81, R108). -/
structure FaultRecord where
  cause : FaultCause
  subject : Option Subject
  step : Nat
  time : PartTime
  deriving DecidableEq, Repr

/-- The hold cause set (R81, R86): LINK_SILENT or not, and the addresses of the silent nodes, without
repeats, in rising order (log 25). -/
structure HoldCauses where
  link : Bool
  nodes : List Octet
  deriving DecidableEq, Repr

/-- The empty hold cause set. -/
def HoldCauses.none : HoldCauses := ⟨false, []⟩

/-- A criterion state (R114): the resolved point, absent when unbound, and the window, oldest first. -/
structure CriterionState where
  point : Option Nat
  window : List Bool
  deriving DecidableEq, Repr

/-- A round record (R81, R114), with the request time and the ageing timer the station arbiter keeps
for a waiting round (R66, R71) and the header taken at the claim grant (R129). -/
structure Round where
  state : RoundState
  given : RoundClass
  effective : RoundClass
  recipe : Nat
  route : Nat
  step : Nat
  startTime : Option PartTime
  endTime : Option PartTime
  result : Option RoundResult
  fault : Option FaultRecord
  override : Bool
  wet : Bool
  supplyBegun : Bool
  held : Option StationId
  linked : Bool
  causes : HoldCauses
  resume : Option ResumeState
  travel : Timer
  fill : Timer
  wall : Timer
  holdAcc : Nat
  holdLimit : Timer
  drainHold : Timer
  drainMax : Timer
  lift : LiftProgress
  liftTimer : Timer
  criteria : List CriterionState
  requestTime : Option PartTime
  ageing : Timer
  header : Option HeaderId
  deriving DecidableEq, Repr

/-- The record of an IDLE slot (R82). Class A, recipe 0, route 0, step 0 and lift progress DONE are
DESIGN CHOICES (log 2): R82 states no value for them. -/
def Round.idle : Round where
  state := .idle
  given := .a
  effective := .a
  recipe := 0
  route := 0
  step := 0
  startTime := none
  endTime := none
  result := none
  fault := none
  override := false
  wet := false
  supplyBegun := false
  held := none
  linked := false
  causes := HoldCauses.none
  resume := none
  travel := Timer.off
  fill := Timer.off
  wall := Timer.off
  holdAcc := 0
  holdLimit := Timer.off
  drainHold := Timer.off
  drainMax := Timer.off
  lift := .done
  liftTimer := Timer.off
  criteria := []
  requestTime := none
  ageing := Timer.off
  header := none

/-! ### Events -/

/-- The twenty event kinds, in the order of R191. -/
inductive EventKind where
  | roundState | stepDone | fault | priorityAged | commandOverridden | commandBlocked
  | commandClamped | frameRebuilt | proofMismatch | segregationBreach | interfaceLong | interfaceCut
  | nodeSilent | nodeBack | linkSilent | linkBack | imageLoaded | imageSkipped | imageBad | restarted
  deriving DecidableEq, Repr

/-- Causes of FRAME_REBUILT (R156). -/
inductive RebuildCause where
  | badCrc | badForm
  deriving DecidableEq, Repr

/-- Causes of IMAGE_BAD (R200 to R202). -/
inductive ImageCause where
  | noAnswer | badMarker | badCrc | badRecord
  deriving DecidableEq, Repr

/-- A cause code, by the kind it belongs to (R191, R209). -/
inductive EventCause where
  | result (r : RoundResult)
  | fault (c : FaultCause)
  | rebuilt (c : RebuildCause)
  | feedback (f : Feedback)
  | interface (i : InterfaceState)
  | image (c : ImageCause)
  | overflow
  deriving DecidableEq, Repr

/-- A value, by the kind it belongs to (R191, R209). -/
inductive EventValue where
  | state (s : RoundState)
  | cls (grade : RoundClass)
  | position (p : Position)
  | feedback (f : Feedback)
  | target (t : Target)
  | number (n : Nat)
  deriving DecidableEq, Repr

/-- An event record (R190). -/
structure Event where
  kind : EventKind
  time : PartTime
  slot : Option Slot
  subject : Option Subject
  second : Option Subject
  cause : Option EventCause
  value : Option EventValue
  deriving DecidableEq, Repr

/-! ### Management unit, ports and loader -/

/-- Answer codes, in the order of R208. -/
inductive AnswerCode where
  | ok | busy | loading | badRequest | badTable | badIndex | badContent | inUse | slotBusy
  | wrongState | routeInvalid | segregation | roundsActive
  deriving DecidableEq, Repr

/-- Check codes of BAD_CONTENT, in the order of R208. -/
inductive CheckCode where
  | range | duplicate | noNode | nodeKind | noSegment | noValve | noDrive | noPoint | segmentKind
  | driveKind | pointKind | sameSegment | headerMismatch | doubleValve | doubleDrive | noMedium
  | unmaskable | usedBySegment | usedByValve | usedByDrive | usedByPoint | usedByStation
  | usedByHeader | overlap | wallShort | mediumDisposition
  deriving DecidableEq, Repr

/-- What a request is answered (R184): code, optional check code (as its number), optional subject
index, and the data of an OK answer to a reading request or to EVENT_FETCH. -/
structure Reply where
  code : AnswerCode
  check : Option Nat
  subject : Option Nat
  data : List Octet
  deriving DecidableEq, Repr

/-- A frame on port U (R147): one relayed from port F, octet for octet, or an answer frame with its
destination, source and echoed tag. `frees` says that it answers the request that holds the buffer. -/
inductive SentU where
  | relayed (octets : List Octet)
  | answer (frees : Bool) (dest source tag : Octet) (reply : Reply)
  deriving DecidableEq, Repr

/-- The recipe staging record (R186): steps 0 to 5 as received. -/
structure Staging where
  index : Nat
  count : Nat
  steps : List StepFields
  deriving DecidableEq, Repr

/-- The last fetch (R195): the records of the answer and its overflow flag. -/
structure Fetch where
  records : List Event
  overflow : Bool
  deriving DecidableEq, Repr

/-- The image loader (R199): LOADING, by what it waits for, or READY. In the first pass it holds the
length and the CRC of the header; in the second its position and the records applied. -/
inductive Loader where
  | awaitHeader
  | firstPass (length : Nat) (crc : Word16)
  | secondPass (length position applied : Nat)
  | ready
  deriving DecidableEq, Repr

/-- What the proof scan hands to another block: a breach marking of a segment to the claim arbiter (R61), or to the
sequencer a report of a segregation breach (R175) or of a scan mismatch (R176), for a round and naming the valve. -/
inductive Handover where
  | marking (segment : Nat)
  | breach (slot : Slot) (valve : Nat)
  | mismatch (slot : Slot) (valve : Nat)
  deriving DecidableEq, Repr

/-! ### The state -/

/-- The state of the engine. `pending` and `freeCount` are the model's own. `handed` is what has left the proof scan
and has not yet reached its owner, oldest first (R61, R179). -/
structure State where
  partTime : PartTime
  config : ConfigRecord
  nodes : Table NodeEntry
  segments : Table SegmentEntry
  valves : Table ValveEntry
  drives : Table DriveEntry
  points : Table PointEntry
  stations : Vector Station 3
  headers : Vector Header 4
  routes : Table Route
  recipes : Table (List RecipeStep)
  rounds : Vector Round 16
  claimQueue : List Slot
  linkTimer : Timer
  linkSilent : Bool
  linkExpiry : Option PartTime
  rxU : List Octet
  rxF : List Octet
  txU : List SentU
  txF : List (List Octet)
  scanPointer : Option Nat
  visitTimer : Timer
  handed : List Handover
  bufferHeld : Bool
  staging : Option Staging
  events : List Event
  overflow : Bool
  lastFetch : Option Fetch
  loader : Loader
  freeCount : Nat
  pending : List Instr
  deriving DecidableEq, Repr

/-- The engine has no way to stop on a fault: every command of the table ends in a next state. A fault
of a round is its state FAULTED (R108), not a fault of the machine. No constructor, so nobody raises
one (safe). -/
inductive Fault where
  deriving DecidableEq, Repr

/-- Why a step is refused. -/
inductive Refusal where
  /-- Raised by an arm of `exec` whose command has no meaning yet; safe, since nothing follows from it. -/
  | notModelled (mnemonic : String)
  deriving DecidableEq, Repr

/-- The defaults of the configuration record (R6). -/
def defaultConfig : ConfigRecord where
  ownAddress := 250
  linkSilence := 500
  nodeSilence := 300
  visitPeriod := 50
  lockTravel := 50
  ageB := 600
  ageC := 900
  causticLimit := 500
  acidLimit := 300
  interfaceHold := 30
  interfaceMax := 120
  drainFlow := 200
  drainHold := 100
  drainMax := 300
  eventMask := 0

/-- An empty station entry: FREE with an empty queue (R21). -/
def Station.empty : Station := ⟨none, none, false, []⟩

/-- An empty return header entry: STEADY on DRAIN, timers stopped at 0.0 (R23, R129). -/
def Header.empty : Header := ⟨none, .drain, none, .steady, Timer.off, Timer.off⟩

/-- The engine right after power-on (R199): every block at its power-on values, the loader in LOADING
waiting for the image header, the visit timer running with the default period. -/
def State.reset : State where
  partTime := 0
  config := defaultConfig
  nodes := []
  segments := []
  valves := []
  drives := []
  points := []
  stations := Vector.replicate 3 Station.empty
  headers := Vector.replicate 4 Header.empty
  routes := []
  recipes := []
  rounds := Vector.replicate 16 Round.idle
  claimQueue := []
  linkTimer := Timer.off
  linkSilent := false
  linkExpiry := none
  rxU := []
  rxF := []
  txU := []
  txF := []
  scanPointer := none
  visitTimer := ⟨.running, 0, 50⟩
  handed := []
  bufferHeld := false
  staging := none
  events := []
  overflow := false
  lastFetch := none
  loader := .awaitHeader
  freeCount := 0
  pending := []

end Sys2Proof.Machine
end

