-- ==== Sys2Proof/Machine/Ops.lean ====
section
/-!
DEFINITION. The named operations over tables, timers, rounds, actuators and the event queue, and the
passing of part time. Every other file changes state through these.
-/

namespace Sys2Proof.Machine

open Sys2Proof

/-! ### Tables -/

/-- The canonical form of a table: indexes strictly rising. -/
def Table.wf {α : Type} : Table α → Bool
  | [] => true
  | [_] => true
  | (k, _) :: (l, w) :: t => k < l && Table.wf ((l, w) :: t)

/-- The entry at an index; `none` is an empty entry. -/
def Table.entry {α : Type} : Table α → Nat → Option α
  | [], _ => none
  | (k, v) :: t, n => if k = n then some v else Table.entry t n

/-- Write a full entry. -/
def Table.put {α : Type} (n : Nat) (v : α) : Table α → Table α
  | [] => [(n, v)]
  | (k, w) :: t =>
    if n < k then (n, v) :: (k, w) :: t
    else if n = k then (n, v) :: t
    else (k, w) :: Table.put n v t

/-- Write an empty entry. -/
def Table.remove {α : Type} (n : Nat) (t : Table α) : Table α := t.filter fun kv => kv.1 != n

/-- Change the entry at an index, when it is full. -/
def Table.adjust {α : Type} (n : Nat) (f : α → α) (t : Table α) : Table α :=
  t.map fun kv => if kv.1 = n then (kv.1, f kv.2) else kv

/-- Change every full entry. -/
def Table.each {α : Type} (f : Nat → α → α) (t : Table α) : Table α :=
  t.map fun kv => (kv.1, f kv.1 kv.2)

/-- The lowest index whose full entry satisfies a condition. -/
def Table.first {α : Type} (p : Nat → α → Bool) : Table α → Option Nat
  | [] => none
  | (k, v) :: t => if p k v then some k else Table.first p t

/-! ### Timers (00_scope.md; R1) -/

/-- Tenths of a second in milliseconds (R1: 0.1 s is 100 ms). -/
def tenths (n : Nat) : Nat := n * 100

/-- Whole seconds in milliseconds. -/
def seconds (n : Nat) : Nat := n * 1000

/-- Start or restart from zero with a limit. -/
def Timer.start (limit : Nat) : Timer := ⟨.running, 0, limit⟩

/-- Start paused at 0.0 (R105, R106). -/
def Timer.startPaused (limit : Nat) : Timer := ⟨.paused, 0, limit⟩

/-- Stop, idle at the last value. -/
def Timer.stop (t : Timer) : Timer := { t with mode := .stopped }

/-- Pause a running timer; it keeps its elapsed time. -/
def Timer.pause (t : Timer) : Timer := if t.mode = .running then { t with mode := .paused } else t

/-- Let a paused timer run on from its elapsed time. -/
def Timer.runOn (t : Timer) : Timer := if t.mode = .paused then { t with mode := .running } else t

/-- A running timer counts elapsed part time. -/
def Timer.count (n : Nat) (t : Timer) : Timer :=
  if t.mode = .running then { t with elapsed := t.elapsed + n } else t

/-- A running timer whose count has reached its limit. -/
def Timer.due (t : Timer) : Bool := t.mode = .running && t.limit ≤ t.elapsed

/-- The part time a running timer still lacks to its limit. -/
def Timer.lacks (t : Timer) : Nat := t.limit - t.elapsed

/-! ### Rounds -/

/-- The sixteen slots in ascending order. -/
def allSlots : List Slot := [0, 1, 2, 3, 4, 5, 6, 7, 8, 9, 10, 11, 12, 13, 14, 15]

/-- The four headers in ascending order. -/
def allHeaders : List HeaderId := [0, 1, 2, 3]

/-- The three stations in ascending order. -/
def allStations : List StationId := [0, 1, 2]

/-- The round record of a slot. -/
def State.round (s : State) (k : Slot) : Round := s.rounds[k]

/-- Change the round record of a slot. -/
def State.updRound (k : Slot) (f : Round → Round) (s : State) : State :=
  { s with rounds := s.rounds.set k (f s.rounds[k]) }

/-- The station at an index. -/
def State.station (s : State) (k : StationId) : Station := s.stations[k]

/-- Change the station at an index. -/
def State.updStation (k : StationId) (f : Station → Station) (s : State) : State :=
  { s with stations := s.stations.set k (f s.stations[k]) }

/-- The return header at an index. -/
def State.header (s : State) (k : HeaderId) : Header := s.headers[k]

/-- Change the return header at an index. -/
def State.updHeader (k : HeaderId) (f : Header → Header) (s : State) : State :=
  { s with headers := s.headers.set k (f s.headers[k]) }

/-- The route a slot's round names. -/
def State.routeOf (s : State) (k : Slot) : Option Route := Table.entry s.routes (s.round k).route

/-- The recipe a slot's round names; no steps when the entry is empty. -/
def State.recipeOf (s : State) (k : Slot) : List RecipeStep :=
  (Table.entry s.recipes (s.round k).recipe).getD []

/-- The current step of a slot's round. -/
def State.stepOf (s : State) (k : Slot) : Option RecipeStep := (s.recipeOf k)[(s.round k).step]?

/-! ### Segments and actuators -/

/-- The state of a segment; an empty entry is FREE (R13). -/
def State.segState (s : State) (n : Nat) : SegmentState :=
  match Table.entry s.segments n with
  | some e => e.state
  | none => .free

/-- The state of a side: an absent side opens onto pipework the engine does not track (R14). -/
def State.sideState (s : State) : Option Nat → Option SegmentState
  | some n => some (s.segState n)
  | none => none

/-- Set the state of a segment. -/
def State.setSegState (n : Nat) (st : SegmentState) (s : State) : State :=
  { s with segments := Table.adjust n (fun e => { e with state := st }) s.segments }

/-- Set the state of every segment of a list. -/
def State.setSegStates (l : List Nat) (st : SegmentState) (s : State) : State :=
  l.foldl (fun s n => s.setSegState n st) s

/-- Change a valve entry. -/
def State.updValve (n : Nat) (f : ValveEntry → ValveEntry) (s : State) : State :=
  { s with valves := Table.adjust n f s.valves }

/-- Change a drive entry. -/
def State.updDrive (n : Nat) (f : DriveEntry → DriveEntry) (s : State) : State :=
  { s with drives := Table.adjust n f s.drives }

/-- Write a commanded position (R85): a position that differs from the one held records the part time
as the time of last change. -/
def ValveEntry.command (now : PartTime) (p : Position) (v : ValveEntry) : ValveEntry :=
  if v.commanded = some p then v else { v with commanded := some p, changed := some now }

/-- Command a valve (R85). -/
def State.commandValve (n : Nat) (p : Position) (s : State) : State :=
  s.updValve n (ValveEntry.command s.partTime p)

/-- Command several valves in order (R85). -/
def State.commandValves (l : List (Nat × Position)) (s : State) : State :=
  l.foldl (fun s np => s.commandValve np.1 np.2) s

/-- Command a drive (R85). -/
def State.commandDrive (n : Nat) (value : Nat) (s : State) : State :=
  s.updDrive n fun d => { d with commanded := some value }

/-- Set or clear the route owner of a valve. -/
def State.ownValve (owner : Option Slot) (n : Nat) (s : State) : State :=
  s.updValve n fun v => { v with owner := owner }

/-- Set or clear the owner of a drive. -/
def State.ownDrive (owner : Option Slot) (n : Nat) (s : State) : State :=
  s.updDrive n fun d => { d with owner := owner }

/-- The route owner of a valve; an empty entry has none. -/
def State.valveOwner (s : State) (n : Nat) : Option Slot :=
  match Table.entry s.valves n with
  | some v => v.owner
  | none => none

/-! ### Loaded fields -/

/-- The medium valve of a station for a medium (R20). -/
def StationLoad.valveFor (l : StationLoad) : Medium → Option Nat
  | .rinse => l.rinse
  | .recovered => l.recovered
  | .caustic => l.caustic
  | .acid => l.acid
  | .sanitiser => l.sanitiser
  | .air => l.air

/-- The medium valves present, in position order (R20). -/
def StationLoad.mediumValves (l : StationLoad) : List Nat :=
  [l.rinse, l.recovered, l.caustic, l.acid, l.sanitiser, l.air].filterMap id

/-- The drives of a station: the pump, then the heater when present (R20). -/
def StationLoad.drives (l : StationLoad) : List Nat := l.pump :: l.heater.toList

/-- The recirculate valve of a header for a station (R22). -/
def HeaderLoad.recirculate (l : HeaderLoad) (k : StationId) : Option Nat :=
  match k with
  | 0 => l.recirc0
  | 1 => l.recirc1
  | 2 => l.recirc2

/-- The diverter valves present, in position order (R22). -/
def HeaderLoad.diverters (l : HeaderLoad) : List Nat :=
  l.drain :: [l.caustic, l.acid, l.recirc0, l.recirc1, l.recirc2].filterMap id

/-! ### Events -/

/-- The position of a kind in the list of R191. -/
def EventKind.position : EventKind → Nat
  | .roundState => 1
  | .stepDone => 2
  | .fault => 3
  | .priorityAged => 4
  | .commandOverridden => 5
  | .commandBlocked => 6
  | .commandClamped => 7
  | .frameRebuilt => 8
  | .proofMismatch => 9
  | .segregationBreach => 10
  | .interfaceLong => 11
  | .interfaceCut => 12
  | .nodeSilent => 13
  | .nodeBack => 14
  | .linkSilent => 15
  | .linkBack => 16
  | .imageLoaded => 17
  | .imageSkipped => 18
  | .imageBad => 19
  | .restarted => 20

/-- The kinds that can be masked (R191, R192). -/
def EventKind.maskable : EventKind → Bool
  | .fault => false
  | .segregationBreach => false
  | .imageBad => false
  | .restarted => false
  | _ => true

/-- The event mask names a kind by the bit of weight 2^(n-1) (R208). -/
def maskNames (c : ConfigRecord) (k : EventKind) : Bool :=
  c.eventMask.getLsbD (k.position - 1)

/-- An event is masked when its kind is maskable and the mask names it (R192). -/
def State.masked (s : State) (k : EventKind) : Bool := k.maskable && maskNames s.config k

/-- Remove the newest maskable record of a queue kept oldest first; the others keep their order. -/
def dropNewestMaskable : List Event → Option (List Event)
  | [] => none
  | e :: t =>
    match dropNewestMaskable t with
    | some t' => some (e :: t')
    | none => if e.kind.maskable then some t else none

/-- Offer a record that is not masked to the queue (R193). -/
def State.enqueue (e : Event) (s : State) : State :=
  if s.events.length < Config.eventCapacity then { s with events := s.events ++ [e] }
  else if e.kind.maskable then { s with overflow := true }
  else match dropNewestMaskable s.events with
    | some kept => { s with events := kept ++ [e], overflow := true }
    | none => { s with overflow := true }

/-- Offer an event (R192, R193): a masked event changes nothing. -/
def State.offer (e : Event) (s : State) : State := if s.masked e.kind then s else s.enqueue e

/-- A record built now with no field but kind and time (R190). -/
def State.event (s : State) (k : EventKind) : Event :=
  { kind := k, time := s.partTime, slot := none, subject := none, second := none, cause := none,
    value := none }

/-- Set the state of a round and queue ROUND_STATE (R112): the entry into DONE also carries the
result as cause code. -/
def State.enter (k : Slot) (st : RoundState) (s : State) : State :=
  let s := s.updRound k fun r => { r with state := st }
  s.offer { s.event .roundState with
    slot := some k
    cause := if st = .done then (s.round k).result.map .result else none
    value := some (.state st) }

/-! ### Sets of hold causes -/

/-- Insert an address in rising order, without repeats (log 25). -/
def insertAddress (a : Octet) : List Octet → List Octet
  | [] => [a]
  | b :: t => if a < b then a :: b :: t else if a = b then b :: t else b :: insertAddress a t

/-- No hold cause stands. -/
def HoldCauses.isEmpty (c : HoldCauses) : Bool := !c.link && c.nodes.isEmpty

/-- Add NODE_SILENT for a node, not twice (R86). -/
def HoldCauses.addNode (a : Octet) (c : HoldCauses) : HoldCauses :=
  { c with nodes := insertAddress a c.nodes }

/-- Remove NODE_SILENT for a node. -/
def HoldCauses.removeNode (a : Octet) (c : HoldCauses) : HoldCauses :=
  { c with nodes := c.nodes.filter (· != a) }

/-! ### Criteria (R122) -/

/-- A criterion is satisfied when it is bound, its window holds N results and at least M pass. -/
def Criterion.satisfied (c : Criterion) (k : CriterionState) : Bool :=
  k.point.isSome && k.window.length == c.window && c.required ≤ k.window.countP id

/-- Every criterion of the step is satisfied. -/
def allSatisfied : List Criterion → List CriterionState → Bool
  | [], _ => true
  | c :: cs, k :: ks => c.satisfied k && allSatisfied cs ks
  | _ :: _, [] => false

/-- The round is in spec (R122): in STEP_TIMING with every criterion of its step satisfied. -/
def State.inSpec (s : State) (k : Slot) : Bool :=
  (s.round k).state == .stepTiming &&
    match s.stepOf k with
    | some st => allSatisfied st.criteria (s.round k).criteria
    | none => false

/-- The hold time of the current step in milliseconds. -/
def State.holdTime (s : State) (k : Slot) : Nat :=
  match s.stepOf k with
  | some st => seconds st.holdTime
  | none => 0

/-! ### Part time -/

/-- Every running timer of a round counts (R1). -/
def Round.count (n : Nat) (r : Round) : Round :=
  { r with
    travel := r.travel.count n
    fill := r.fill.count n
    wall := r.wall.count n
    holdLimit := r.holdLimit.count n
    drainHold := r.drainHold.count n
    drainMax := r.drainMax.count n
    liftTimer := r.liftTimer.count n
    ageing := r.ageing.count n }

/-- Hold accumulated counts part time while the round is in spec and stops at the hold time (R123). -/
def State.accumulate (n : Nat) (k : Slot) (s : State) : State :=
  if s.inSpec k then
    s.updRound k fun r => { r with holdAcc := max r.holdAcc (min (r.holdAcc + n) (s.holdTime k)) }
  else s

/-- The timers and the hold accumulated of every round count part time. -/
def State.passRounds (n : Nat) (s : State) : State :=
  allSlots.foldl (fun s k => (s.accumulate n k).updRound k (Round.count n)) s

/-- The interface timers of every header count part time. -/
def State.passHeaders (n : Nat) (s : State) : State :=
  allHeaders.foldl (fun s h => s.updHeader h fun x =>
    { x with hold := x.hold.count n, maximum := x.maximum.count n }) s

/-- Let n milliseconds of part time pass (R1, R199): part time counts modulo 2^32, and so does every
running timer, without expiring any. -/
def State.pass (n : Nat) (s : State) : State :=
  let s := (s.passRounds n).passHeaders n
  { s with
    partTime := s.partTime + BitVec.ofNat 32 n
    nodes := Table.each (fun _ e => { e with silence := e.silence.count n }) s.nodes
    linkTimer := s.linkTimer.count n
    visitTimer := s.visitTimer.count n }

/-! ### Answers of R184 that carry no data -/

/-- OK with no data. -/
def Reply.ok : Reply := ⟨.ok, none, none, []⟩

/-- OK with the data read. -/
def Reply.read (d : List Octet) : Reply := ⟨.ok, none, none, d⟩

/-- A refusal with no detail. -/
def Reply.refuse (code : AnswerCode) : Reply := ⟨code, none, none, []⟩

end Sys2Proof.Machine
end

