-- ==== Sys2Proof/Machine/Operands.lean ====
section
/-!
DEFINITION. The octet forms of chapter 12: codes, byte order, the frame and its CRC, field payloads,
requests, entries, events and image records, read and written.
-/

namespace Sys2Proof.Machine

open Sys2Proof

/-! ### Numbers (R206) -/

/-- A number as one octet. -/
def octet (n : Nat) : Octet := BitVec.ofNat 8 n

/-- A two-octet number, low octet first. -/
def octets2 (n : Nat) : List Octet := [octet n, octet (n / 256)]

/-- A four-octet number, low octet first. -/
def octets4 (n : Nat) : List Octet :=
  [octet n, octet (n / 256), octet (n / 65536), octet (n / 16777216)]

/-- The two-octet number whose low octet comes first. -/
def word16 (low high : Octet) : Word16 := high ++ low

/-- The octets of a two-octet field, low octet first. -/
def wordOctets (w : Word16) : List Octet := [w.setWidth 8, (w >>> 8).setWidth 8]

/-- The octet at a place of a list; 0 past its end. -/
def octetAt (l : List Octet) (n : Nat) : Octet := l.getD n 0

/-- The two-octet field at a place of a list. -/
def wordAt (l : List Octet) (n : Nat) : Word16 := word16 (octetAt l n) (octetAt l (n + 1))

/-- A flag (R206). -/
def flagOctet (b : Bool) : Octet := if b then 0x01 else 0x00

/-- An index whose all-ones value FFh means absent (R206). -/
def indexOf (o : Octet) : Option Nat := if o = 0xFF then none else some o.toNat

/-- A two-octet index whose all-ones value FFFFh means absent (R206). -/
def indexOf16 (w : Word16) : Option Nat := if w = 0xFFFF then none else some w.toNat

/-- An optional one-octet index or code: FFh when absent. -/
def optOctet (o : Option Nat) : Octet :=
  match o with
  | some n => octet n
  | none => 0xFF

/-- An optional two-octet index or quantity: FFFFh when absent. -/
def optOctets2 (o : Option Nat) : List Octet :=
  match o with
  | some n => octets2 n
  | none => [0xFF, 0xFF]

/-- An optional part time: a presence octet and four octets, zero when absent (R206). -/
def optTime (o : Option PartTime) : List Octet :=
  match o with
  | some t => 0x01 :: octets4 t.toNat
  | none => [0, 0, 0, 0, 0]

/-- A list: a count octet followed by its elements (R206). -/
def listOctets {α : Type} (f : α → List Octet) (l : List α) : List Octet :=
  octet l.length :: l.flatMap f

/-! ### Enumerated fields (R206): numbered from 00h in the order of the defining rule -/

/-- R9. -/
def NodeKind.ofCode (o : Octet) : Option NodeKind :=
  match o.toNat with
  | 0 => some .valveCluster
  | 1 => some .drive
  | 2 => some .instrument
  | _ => none

/-- R9. -/
def NodeKind.code : NodeKind → Nat
  | .valveCluster => 0
  | .drive => 1
  | .instrument => 2

/-- R12. -/
def SegmentKind.ofCode (o : Octet) : Option SegmentKind :=
  match o.toNat with
  | 0 => some .line
  | 1 => some .vessel
  | 2 => some .heatExchanger
  | 3 => some .ret
  | _ => none

/-- R12. -/
def SegmentKind.code : SegmentKind → Nat
  | .line => 0
  | .vessel => 1
  | .heatExchanger => 2
  | .ret => 3

/-- R14. -/
def ValveKind.ofCode (o : Octet) : Option ValveKind :=
  match o.toNat with
  | 0 => some .singleSeat
  | 1 => some .mixproof
  | _ => none

/-- R14. -/
def ValveKind.code : ValveKind → Nat
  | .singleSeat => 0
  | .mixproof => 1

/-- R17. -/
def DriveKind.ofCode (o : Octet) : Option DriveKind :=
  match o.toNat with
  | 0 => some .pump
  | 1 => some .heater
  | _ => none

/-- R17. -/
def DriveKind.code : DriveKind → Nat
  | .pump => 0
  | .heater => 1

/-- R19. -/
def PointKind.ofCode (o : Octet) : Option PointKind :=
  match o.toNat with
  | 0 => some .cond
  | 1 => some .temp
  | 2 => some .flow
  | _ => none

/-- R19. -/
def PointKind.code : PointKind → Nat
  | .cond => 0
  | .temp => 1
  | .flow => 2

/-- R27. -/
def Medium.ofCode (o : Octet) : Option Medium :=
  match o.toNat with
  | 0 => some .rinse
  | 1 => some .recovered
  | 2 => some .caustic
  | 3 => some .acid
  | 4 => some .sanitiser
  | 5 => some .air
  | _ => none

/-- R27. -/
def Medium.code : Medium → Nat
  | .rinse => 0
  | .recovered => 1
  | .caustic => 2
  | .acid => 3
  | .sanitiser => 4
  | .air => 5

/-- R27. -/
def Disposition.ofCode (o : Octet) : Option Disposition :=
  match o.toNat with
  | 0 => some .drain
  | 1 => some .recover
  | 2 => some .recirculate
  | _ => none

/-- R27. -/
def Disposition.code : Disposition → Nat
  | .drain => 0
  | .recover => 1
  | .recirculate => 2

/-- R30. -/
def Role.ofCode (o : Octet) : Option Role :=
  match o.toNat with
  | 0 => some .supplyTemp
  | 1 => some .returnTemp
  | 2 => some .returnCond
  | 3 => some .returnFlow
  | _ => none

/-- R30. -/
def Role.code : Role → Nat
  | .supplyTemp => 0
  | .returnTemp => 1
  | .returnCond => 2
  | .returnFlow => 3

/-- R30. -/
def Comparison.ofCode (o : Octet) : Option Comparison :=
  match o.toNat with
  | 0 => some .atLeast
  | 1 => some .atMost
  | _ => none

/-- R30. -/
def Comparison.code : Comparison → Nat
  | .atLeast => 0
  | .atMost => 1

/-- R208: 00h A, 01h B, 02h C. -/
def RoundClass.ofCode (o : Octet) : Option RoundClass :=
  match o.toNat with
  | 0 => some .a
  | 1 => some .b
  | 2 => some .c
  | _ => none

/-- R208. -/
def RoundClass.code : RoundClass → Nat
  | .a => 0
  | .b => 1
  | .c => 2

/-- R208: 00h IDLE to 0Ah FAULTED. -/
def RoundState.code : RoundState → Nat
  | .idle => 0
  | .waitRoute => 1
  | .setting => 2
  | .waitStation => 3
  | .stepFill => 4
  | .stepTiming => 5
  | .holding => 6
  | .paused => 7
  | .ending => 8
  | .done => 9
  | .faulted => 10

/-- R208: 00h FREE to 03h SUSPECT. -/
def SegmentState.code : SegmentState → Nat
  | .free => 0
  | .product => 1
  | .claimed _ => 2
  | .suspect _ => 3

/-- R13, numbered by R206. -/
def SuspectCause.code : SuspectCause → Nat
  | .breach => 0
  | .restart => 1

/-- R207: positions in CMD payloads, answers and events. -/
def Position.code : Position → Nat
  | .close => 1
  | .open => 2
  | .liftA => 3
  | .liftB => 4

/-- R207: an entry of a CMD payload; `some none` is KEEP. -/
def Position.ofCode (o : Octet) : Option (Option Position) :=
  match o.toNat with
  | 0 => some none
  | 1 => some (some .close)
  | 2 => some (some .open)
  | 3 => some (some .liftA)
  | 4 => some (some .liftB)
  | _ => none

/-- R207: fed-back positions; UNKNOWN is 07h. -/
def Feedback.code : Feedback → Nat
  | .closed => 1
  | .open => 2
  | .liftedA => 3
  | .liftedB => 4
  | .travel => 5
  | .fault => 6
  | .unknown => 7

/-- R207: an entry of a reply from a valve cluster. -/
def Feedback.ofCode (o : Octet) : Option Feedback :=
  match o.toNat with
  | 1 => some .closed
  | 2 => some .open
  | 3 => some .liftedA
  | 4 => some .liftedB
  | 5 => some .travel
  | 6 => some .fault
  | _ => none

/-- R207: drive status; UNKNOWN is 04h. -/
def DriveStatus.code : DriveStatus → Nat
  | .running => 1
  | .stopped => 2
  | .fault => 3
  | .unknown => 4

/-- R207: status in a reply from a drive node. -/
def DriveStatus.ofCode (o : Octet) : Option DriveStatus :=
  match o.toNat with
  | 1 => some .running
  | 2 => some .stopped
  | 3 => some .fault
  | _ => none

/-- R207: point quality; NONE is 00h. -/
def Quality.code : Quality → Nat
  | .good => 1
  | .uncertain => 2
  | .bad => 3
  | .none => 0

/-- R207: quality in a reply from an instrument head. -/
def Quality.ofCode (o : Octet) : Option Quality :=
  match o.toNat with
  | 1 => some .good
  | 2 => some .uncertain
  | 3 => some .bad
  | _ => none

/-- R208: timers in a record. -/
def TimerMode.code : TimerMode → Nat
  | .stopped => 0
  | .running => 1
  | .paused => 2

/-- R81, numbered by R206. -/
def ResumeState.code : ResumeState → Nat
  | .setting => 0
  | .stepFill => 1
  | .stepTiming => 2
  | .ending => 3

/-- R209. -/
def RoundResult.code : RoundResult → Nat
  | .completed => 1
  | .aborted => 2
  | .faultReleased => 3

/-- R209: the causes of R109 numbered from 01h. -/
def FaultCause.code : FaultCause → Nat
  | .headerLost => 1
  | .travelTimeout => 2
  | .stationUnfit => 3
  | .criterionUnbound => 4
  | .fillTimeout => 5
  | .stepOvertime => 6
  | .driveFault => 7
  | .holdTooLong => 8
  | .drainOvertime => 9
  | .scanMismatch => 10
  | .segregationBreach => 11

/-- R23 numbered by R206, and R209: 01h INTERFACE_IN, 02h INTERFACE_OUT. -/
def InterfaceState.code : InterfaceState → Nat
  | .steady => 0
  | .interfaceIn => 1
  | .interfaceOut => 2

/-- R208: answer codes from 00h. -/
def AnswerCode.code : AnswerCode → Nat
  | .ok => 0
  | .busy => 1
  | .loading => 2
  | .badRequest => 3
  | .badTable => 4
  | .badIndex => 5
  | .badContent => 6
  | .inUse => 7
  | .slotBusy => 8
  | .wrongState => 9
  | .routeInvalid => 10
  | .segregation => 11
  | .roundsActive => 12

/-- R208: check codes of BAD_CONTENT from 01h to 1Ah. -/
def CheckCode.code : CheckCode → Nat
  | .range => 1
  | .duplicate => 2
  | .noNode => 3
  | .nodeKind => 4
  | .noSegment => 5
  | .noValve => 6
  | .noDrive => 7
  | .noPoint => 8
  | .segmentKind => 9
  | .driveKind => 10
  | .pointKind => 11
  | .sameSegment => 12
  | .headerMismatch => 13
  | .doubleValve => 14
  | .doubleDrive => 15
  | .noMedium => 16
  | .unmaskable => 17
  | .usedBySegment => 18
  | .usedByValve => 19
  | .usedByDrive => 20
  | .usedByPoint => 21
  | .usedByStation => 22
  | .usedByHeader => 23
  | .overlap => 24
  | .wallShort => 25
  | .mediumDisposition => 26

/-- R208: table codes. -/
def tableCode : TableId → Octet
  | .nodeMap => 0x01
  | .segment => 0x02
  | .valve => 0x03
  | .drive => 0x04
  | .point => 0x05
  | .station => 0x06
  | .header => 0x07
  | .route => 0x08
  | .recipe => 0x09

/-- R208: the table a code names; 00h names none. -/
def tableOfCode (o : Octet) : Option TableId :=
  match o.toNat with
  | 1 => some .nodeMap
  | 2 => some .segment
  | 3 => some .valve
  | 4 => some .drive
  | 5 => some .point
  | 6 => some .station
  | 7 => some .header
  | 8 => some .route
  | 9 => some .recipe
  | _ => none

/-! ### The frame (R144, R206) -/

/-- One shift of the CRC with the reflected polynomial A001h. -/
def crcShift (c : Word16) : Word16 :=
  if c.getLsbD 0 then (c >>> 1) ^^^ 0xA001 else c >>> 1

/-- The CRC after one more octet. -/
def crcOctet (c : Word16) (o : Octet) : Word16 :=
  crcShift (crcShift (crcShift (crcShift (crcShift (crcShift (crcShift (crcShift
    (c ^^^ o.setWidth 16))))))))

/-- The CRC of a list of octets: initial value FFFFh, no final inversion. -/
def crc (l : List Octet) : Word16 := l.foldl crcOctet 0xFFFF

/-- A good frame's fields. -/
structure Frame where
  dest : Octet
  source : Octet
  kind : Octet
  payload : List Octet
  deriving DecidableEq, Repr

/-- Kind codes of R206. -/
def kindCmd : Octet := 0x01
/-- RSP. -/
def kindRsp : Octet := 0x02
/-- MREQ. -/
def kindMreq : Octet := 0x03
/-- MANS. -/
def kindMans : Octet := 0x04

/-- The octets of a frame, sealed with its CRC, low octet first (R206). -/
def Frame.seal (f : Frame) : List Octet :=
  let body := f.dest :: f.source :: f.kind :: octet f.payload.length :: f.payload
  body ++ wordOctets (crc body)

/-- Judge the octets that arrived (R144): a good frame's fields, or none for a bad frame. A frame is good
when its payload length lies in 0 to 240, as many payload octets were received, and the CRC matches. -/
def readFrame (l : List Octet) : Option Frame :=
  match l with
  | dest :: source :: kind :: length :: rest =>
    if length.toNat ≤ 240 ∧ rest.length = length.toNat + 2
        ∧ wordAt rest length.toNat = crc (l.take (4 + length.toNat)) then
      some ⟨dest, source, kind, rest.take length.toNat⟩
    else none
  | _ => none

/-! ### Field payloads (R207) -/

/-- A list in which every element decodes. -/
def decodeAll {α β : Type} (f : α → Option β) : List α → Option (List β)
  | [] => some []
  | a :: t =>
    match f a, decodeAll f t with
    | some b, some bs => some (b :: bs)
    | _, _ => none

/-- CMD to a VALVE_CLUSTER: 16 entries; `none` is KEEP. -/
def valveCommands (l : List Octet) : Option (List (Option Position)) :=
  if l.length = 16 then decodeAll Position.ofCode l else none

/-- Two-octet numbers of a list. -/
def wordsOf : List Octet → List Word16
  | a :: b :: t => word16 a b :: wordsOf t
  | _ => []

/-- CMD to a DRIVE: 4 entries; `none` is KEEP (FFFFh). -/
def driveCommands (l : List Octet) : Option (List (Option Nat)) :=
  if l.length = 8 then some ((wordsOf l).map indexOf16) else none

/-- The code of a forwarded valve entry; KEEP is 00h. -/
def positionOctet (p : Option Position) : Octet :=
  match p with
  | some p => octet p.code
  | none => 0x00

/-- RSP from a VALVE_CLUSTER: 16 fed-back positions. -/
def valveReplies (l : List Octet) : Option (List Feedback) :=
  if l.length = 16 then decodeAll Feedback.ofCode l else none

/-- The status and value entries of a drive node's reply. -/
def driveEntries : List Octet → Option (List (DriveStatus × Nat))
  | [] => some []
  | st :: a :: b :: t =>
    match DriveStatus.ofCode st, driveEntries t with
    | some st, some es => some ((st, (word16 a b).toNat) :: es)
    | _, _ => none
  | _ => none

/-- RSP from a DRIVE: 4 entries of status and value. -/
def driveReplies (l : List Octet) : Option (List (DriveStatus × Nat)) :=
  if l.length = 12 then driveEntries l else none

/-- The channel, quality and value entries of an instrument head's reply. -/
def instrumentEntries : List Octet → Option (List (Nat × Quality × Nat))
  | [] => some []
  | ch :: q :: a :: b :: t =>
    if ch.toNat ≤ 7 then
      match Quality.ofCode q, instrumentEntries t with
      | some q, some es => some ((ch.toNat, q, (word16 a b).toNat) :: es)
      | _, _ => none
    else none
  | _ => none

/-- No two elements of a list are equal. -/
def noRepeat : List Nat → Bool
  | [] => true
  | a :: t => !t.contains a && noRepeat t

/-- RSP from an INSTRUMENT: 1 to 8 entries, no channel twice. -/
def instrumentReplies (l : List Octet) : Option (List (Nat × Quality × Nat)) :=
  match instrumentEntries l with
  | some es => if 1 ≤ es.length ∧ es.length ≤ 8 ∧ noRepeat (es.map (·.1)) then some es else none
  | none => none

/-! ### Entries as carried (R208) -/

/-- The configuration record of 30 octets. -/
def configOf (l : List Octet) : ConfigRecord where
  ownAddress := octetAt l 0
  linkSilence := wordAt l 1
  nodeSilence := wordAt l 3
  visitPeriod := octetAt l 5
  lockTravel := wordAt l 6
  ageB := wordAt l 8
  ageC := wordAt l 10
  causticLimit := wordAt l 12
  acidLimit := wordAt l 14
  interfaceHold := wordAt l 16
  interfaceMax := wordAt l 18
  drainFlow := wordAt l 20
  drainHold := wordAt l 22
  drainMax := wordAt l 24
  eventMask := wordAt l 28 ++ wordAt l 26

/-- The octets of the configuration record. -/
def configOctets (c : ConfigRecord) : List Octet :=
  c.ownAddress :: wordOctets c.linkSilence ++ wordOctets c.nodeSilence ++ c.visitPeriod ::
    wordOctets c.lockTravel ++ wordOctets c.ageB ++ wordOctets c.ageC ++
    wordOctets c.causticLimit ++ wordOctets c.acidLimit ++ wordOctets c.interfaceHold ++
    wordOctets c.interfaceMax ++ wordOctets c.drainFlow ++ wordOctets c.drainHold ++
    wordOctets c.drainMax ++ wordOctets (c.eventMask.setWidth 16) ++
    wordOctets ((c.eventMask >>> 16).setWidth 16)

/-- A criterion slot of six octets. -/
def criterionOf (l : List Octet) : CriterionFields where
  role := octetAt l 0
  comparison := octetAt l 1
  limit := wordAt l 2
  window := octetAt l 4
  required := octetAt l 5

/-- The octets of a criterion slot. -/
def criterionOctets (c : CriterionFields) : List Octet :=
  [c.role, c.comparison] ++ wordOctets c.limit ++ [c.window, c.required]

/-- A step of 34 octets. -/
def stepFieldsOf (l : List Octet) : StepFields where
  medium := octetAt l 0
  choice := octetAt l 1
  keep := octetAt l 2
  pump := octetAt l 3
  heater := wordAt l 4
  fillLimit := wordAt l 6
  holdTime := wordAt l 8
  wallLimit := wordAt l 10
  disposition := octetAt l 12
  pulses := octetAt l 13
  liftLength := octetAt l 14
  count := octetAt l 15
  crit1 := criterionOf (l.drop 16)
  crit2 := criterionOf (l.drop 22)
  crit3 := criterionOf (l.drop 28)

/-- The octets of a step. -/
def stepOctets (f : StepFields) : List Octet :=
  [f.medium, f.choice, f.keep, f.pump] ++ wordOctets f.heater ++ wordOctets f.fillLimit ++
    wordOctets f.holdTime ++ wordOctets f.wallLimit ++
    [f.disposition, f.pulses, f.liftLength, f.count] ++ criterionOctets f.crit1 ++
    criterionOctets f.crit2 ++ criterionOctets f.crit3

/-- The steps of a list of 34-octet records, as many as are asked. -/
def stepsOf : Nat → List Octet → List StepFields
  | 0, _ => []
  | n + 1, l => stepFieldsOf l :: stepsOf n (l.drop 34)

/-- A route's station entries of three octets. -/
def stationPairsOf : List Octet → List StationPair
  | st :: a :: b :: t => ⟨st, word16 a b⟩ :: stationPairsOf t
  | _ => []

/-- The octets of a route's station entry. -/
def stationPairOctets (p : StationPair) : List Octet := p.station :: wordOctets p.valve

/-- What an entry's octets say of its length: the number of octets it has, or that more octets are
needed to tell. -/
inductive EntryLength where
  | exact (n : Nat)
  | more (n : Nat)
  deriving DecidableEq, Repr

/-- The length of a route entry, from its four counts. -/
def routeLength (l : List Octet) : EntryLength :=
  match l[0]? with
  | none => .more 1
  | some c1 =>
    let o1 := 1 + c1.toNat
    match l[o1]? with
    | none => .more (o1 + 1)
    | some c2 =>
      let o2 := o1 + 1 + 2 * c2.toNat
      match l[o2]? with
      | none => .more (o2 + 1)
      | some c3 =>
        let o3 := o2 + 1 + 2 * c3.toNat
        match l[o3]? with
        | none => .more (o3 + 1)
        | some c4 => .exact (o3 + 1 + 3 * c4.toNat + 6)

/-- The length of an entry in full form, for every table but the recipe table (R208). -/
def entryLength (t : TableId) (l : List Octet) : EntryLength :=
  match t with
  | .nodeMap => .exact 2
  | .segment => .exact 3
  | .valve => .exact 5
  | .drive => .exact 7
  | .point => .exact 3
  | .station => .exact 15
  | .header => .exact 16
  | .route => routeLength l
  | .recipe =>
    match l with
    | _ :: count :: _ => .exact (2 + 34 * count.toNat)
    | _ => .more 2

/-- A route entry, from octets of the right length. -/
def routeFieldsOf (l : List Octet) : RouteFields :=
  let c1 := (octetAt l 0).toNat
  let l1 := l.drop (1 + c1)
  let c2 := (octetAt l1 0).toNat
  let l2 := l1.drop (1 + 2 * c2)
  let c3 := (octetAt l2 0).toNat
  let l3 := l2.drop (1 + 2 * c3)
  let c4 := (octetAt l3 0).toNat
  let l4 := l3.drop (1 + 3 * c4)
  { segments := (l.drop 1).take c1
    setting := wordsOf ((l1.drop 1).take (2 * c2))
    boundary := wordsOf ((l2.drop 1).take (2 * c3))
    stations := stationPairsOf ((l3.drop 1).take (3 * c4))
    travel := wordAt l4 0
    fillFlow := wordAt l4 2
    holdLimit := wordAt l4 4 }

/-- An entry in full form, from octets of the right length; a recipe's are those of part 00h. -/
def contentOf (t : TableId) (l : List Octet) : Content :=
  match t with
  | .nodeMap => .nodeMap ⟨octetAt l 0, octetAt l 1⟩
  | .segment => .segment ⟨octetAt l 0, octetAt l 1, octetAt l 2⟩
  | .valve => .valve ⟨octetAt l 0, octetAt l 1, octetAt l 2, octetAt l 3, octetAt l 4⟩
  | .drive => .drive ⟨octetAt l 0, octetAt l 1, octetAt l 2, wordAt l 3, wordAt l 5⟩
  | .point => .point ⟨octetAt l 0, octetAt l 1, octetAt l 2⟩
  | .station => .station
      { rinse := wordAt l 0, recovered := wordAt l 2, caustic := wordAt l 4, acid := wordAt l 6
        sanitiser := wordAt l 8, air := wordAt l 10
        pump := octetAt l 12, heater := octetAt l 13, temp := octetAt l 14 }
  | .header => .header
      { segment := octetAt l 0, drain := wordAt l 1, caustic := wordAt l 3, acid := wordAt l 5
        recirc0 := wordAt l 7, recirc1 := wordAt l 9, recirc2 := wordAt l 11
        cond := octetAt l 13, temp := octetAt l 14, flow := octetAt l 15 }
  | .route => .route (routeFieldsOf l)
  | .recipe => .recipe (stepsOf (octetAt l 1).toNat (l.drop 2))

/-- The octets of an entry in full form; a recipe's as part 00h. -/
def contentOctets : Content → List Octet
  | .nodeMap f => [f.address, f.kind]
  | .segment f => [f.kind, f.header, f.flow]
  | .valve f => [f.node, f.slot, f.kind, f.sideA, f.sideB]
  | .drive f => [f.node, f.channel, f.kind] ++ wordOctets f.minimum ++ wordOctets f.maximum
  | .point f => [f.node, f.channel, f.kind]
  | .station f => [f.rinse, f.recovered, f.caustic, f.acid, f.sanitiser, f.air].flatMap wordOctets
      ++ [f.pump, f.heater, f.temp]
  | .header f => f.segment ::
      [f.drain, f.caustic, f.acid, f.recirc0, f.recirc1, f.recirc2].flatMap wordOctets
      ++ [f.cond, f.temp, f.flow]
  | .route f => listOctets (fun o => [o]) f.segments ++ listOctets wordOctets f.setting
      ++ listOctets wordOctets f.boundary ++ listOctets stationPairOctets f.stations
      ++ wordOctets f.travel ++ wordOctets f.fillFlow ++ wordOctets f.holdLimit
  | .recipe steps => 0x00 :: listOctets stepOctets steps

/-- The table an entry in full form belongs to. -/
def Content.table : Content → TableId
  | .nodeMap _ => .nodeMap
  | .segment _ => .segment
  | .valve _ => .valve
  | .drive _ => .drive
  | .point _ => .point
  | .station _ => .station
  | .header _ => .header
  | .route _ => .route
  | .recipe _ => .recipe

/-! ### Requests (R183, R208) -/

/-- The fields of a TABLE_WRITE after its form octet 01h. A recipe names a part: 00h whole, 01h first,
02h second; another part is no code of the field. -/
def parseFull (t : TableId) (index : Word16) (l : List Octet) : Option Request :=
  if t = .recipe then
    match l with
    | part :: count :: steps =>
      match part.toNat with
      | 0 =>
        if steps.length = 34 * count.toNat then
          some (.tableWrite (.full index (.recipe (stepsOf count.toNat steps))))
        else none
      | 1 =>
        if steps.length = 34 * 6 then some (.recipeFirstPart index count (stepsOf 6 steps)) else none
      | 2 =>
        if steps.length = 34 * count.toNat then
          some (.recipeSecondPart index (stepsOf count.toNat steps))
        else none
      | _ => none
    | _ => none
  else if entryLength t l = .exact l.length then some (.tableWrite (.full index (contentOf t l)))
  else none

/-- The fields of a TABLE_WRITE: table, index, form, then the entry when full. A table code that names
no table is left for BAD_TABLE; the length of an unknown table's entry is not judged (log 19). -/
def parseTableWrite (l : List Octet) : Option Request :=
  match l with
  | table :: low :: high :: form :: rest =>
    match tableOfCode table, form.toNat with
    | none, 0 => if rest = [] then some (.tableWrite (.unknown table)) else none
    | none, 1 => some (.tableWrite (.unknown table))
    | some t, 0 => if rest = [] then some (.tableWrite (.empty t (word16 low high))) else none
    | some t, 1 => parseFull t (word16 low high) rest
    | _, _ => none
  | _ => none

/-- The fields of a TABLE_READ: table, index, and a part octet for the recipe table only. -/
def parseTableRead (l : List Octet) : Option Request :=
  match l with
  | [table, low, high] =>
    if table = tableCode .recipe then none else some (.tableRead table (word16 low high) none)
  | [table, low, high, part] =>
    if table = tableCode .recipe then some (.tableRead table (word16 low high) (some part)) else none
  | _ => none

/-- Judge a request payload for form (R183): the request, or none for BAD_REQUEST. -/
def parseRequest (payload : List Octet) : Option Request :=
  match payload with
  | _ :: code :: fields =>
    match code.toNat, fields with
    | 0x01, l => if l.length = 30 then some (.configWrite (configOf l)) else none
    | 0x02, [] => some .configRead
    | 0x03, l => parseTableWrite l
    | 0x04, l => parseTableRead l
    | 0x05, [slot, recipe, route, cls] => some (.roundStart slot recipe route cls)
    | 0x06, [slot, action] => some (.roundControl slot action)
    | 0x07, [slot] => some (.roundRead slot)
    | 0x08, [segment, mark] => some (.segmentMark segment mark)
    | 0x09, [segment] => some (.suspectClear segment)
    | 0x0A, [mode, count] => some (.eventFetch mode count)
    | 0x0B, [] => some .restart
    | _, _ => none
  | _ => none

/-- The octets of a request after the tag (R208). -/
def requestOctets : Request → List Octet
  | .configWrite r => 0x01 :: configOctets r
  | .configRead => [0x02]
  | .tableWrite (.unknown code) => [0x03, code, 0, 0, 0x00]
  | .tableWrite (.empty t index) => 0x03 :: tableCode t :: wordOctets index ++ [0x00]
  | .tableWrite (.full index content) =>
    0x03 :: tableCode (Content.table content) :: wordOctets index ++ 0x01 :: contentOctets content
  | .recipeFirstPart index count steps =>
    0x03 :: tableCode .recipe :: wordOctets index ++ 0x01 :: 0x01 :: count :: steps.flatMap stepOctets
  | .recipeSecondPart index steps =>
    0x03 :: tableCode .recipe :: wordOctets index ++ 0x01 :: 0x02 :: listOctets stepOctets steps
  | .tableRead table index part => 0x04 :: table :: wordOctets index ++ part.toList
  | .roundStart slot recipe route cls => [0x05, slot, recipe, route, cls]
  | .roundControl slot action => [0x06, slot, action]
  | .roundRead slot => [0x07, slot]
  | .segmentMark segment mark => [0x08, segment, mark]
  | .suspectClear segment => [0x09, segment]
  | .eventFetch mode count => [0x0A, mode, count]
  | .restart => [0x0B]

/-- The MREQ frame that carries a request to the engine at an address (R182, R208). -/
def requestFrame (own : Octet) (a : Ask) (r : Request) : Frame :=
  ⟨own, a.source, kindMreq, a.tag :: requestOctets r⟩

/-! ### Answers (R182, R208) -/

/-- The payload of an answer: tag, code, check code, subject index, data. -/
def answerPayload (tag : Octet) (r : Reply) : List Octet :=
  [tag, octet r.code.code, optOctet r.check] ++ optOctets2 r.subject ++ r.data

/-- The octets of a frame on port U (R147, R182). -/
def SentU.octets : SentU → List Octet
  | .relayed l => l
  | .answer _ dest source tag r => Frame.seal ⟨dest, source, kindMans, answerPayload tag r⟩

/-! ### Events (R209) -/

/-- A subject: tag and two-octet index. -/
def subjectOctets : Subject → List Octet
  | .valve n => 0x01 :: octets2 n
  | .drive n => 0x02 :: octets2 n
  | .segment n => 0x03 :: octets2 n
  | .node n => 0x04 :: octets2 n
  | .point n => 0x05 :: octets2 n
  | .station n => 0x06 :: octets2 n

/-- An optional subject: all zero when absent. -/
def optSubject : Option Subject → List Octet
  | some x => subjectOctets x
  | none => [0, 0, 0]

/-- A target in three octets: code, station, medium (R208). -/
def targetOctets : Target → List Octet
  | .drain => [0x00, 0xFF, 0xFF]
  | .recoverCaustic => [0x01, 0xFF, 0xFF]
  | .recoverAcid => [0x02, 0xFF, 0xFF]
  | .recirculate st m => [0x03, octet st.val, octet m.code]

/-- A cause code (R209). -/
def EventCause.code : EventCause → Nat
  | .result r => r.code
  | .fault c => c.code
  | .rebuilt .badCrc => 1
  | .rebuilt .badForm => 2
  | .feedback f => f.code
  | .interface i => i.code
  | .image .noAnswer => 1
  | .image .badMarker => 2
  | .image .badCrc => 3
  | .image .badRecord => 4
  | .overflow => 1

/-- A value in four octets (R209). -/
def valueOctets : EventValue → List Octet
  | .state s => octets4 s.code
  | .cls grade => octets4 grade.code
  | .position p => octets4 p.code
  | .feedback f => octets4 f.code
  | .target t => targetOctets t ++ [0]
  | .number n => octets4 n

/-- The presence octet of an event record: weights 1, 2, 4, 8, 16. -/
def presence (e : Event) : Octet :=
  octet ((if e.slot.isSome then 1 else 0) + (if e.subject.isSome then 2 else 0)
    + (if e.second.isSome then 4 else 0) + (if e.cause.isSome then 8 else 0)
    + (if e.value.isSome then 16 else 0))

/-- An event record of 18 octets. -/
def eventOctets (e : Event) : List Octet :=
  octet e.kind.position :: octets4 e.time.toNat ++
    [presence e, octet ((e.slot.map Fin.val).getD 0)] ++ optSubject e.subject ++ optSubject e.second ++
    [octet ((e.cause.map EventCause.code).getD 0)] ++ (e.value.map valueOctets).getD [0, 0, 0, 0]

/-! ### Image records (R202, R209) -/

/-- What the octets of an image record say: a record's length, that more octets are needed to tell it,
or that no length can be made. -/
inductive RecordLength where
  | exact (n : Nat)
  | more (n : Nat)
  | bad
  deriving DecidableEq, Repr

/-- The length of an image record, from its code, its form and its counts (R209). A form that is neither 00h nor
01h gives none, as a code above 09h does (log 38). -/
def recordLength (l : List Octet) : RecordLength :=
  match l with
  | [] => .more 1
  | code :: t =>
    if code = 0x00 then .exact 31
    else match tableOfCode code with
      | none => .bad
      | some table =>
        match t with
        | _ :: _ :: form :: rest =>
          if form = 0x00 then .exact 4
          else if form = 0x01 then
            match entryLength table rest with
            | .exact n => .exact (4 + n)
            | .more n => .more (4 + n)
          else .bad
        | _ => .more 4

/-- An image record: a configuration record, or a table record of an empty or full form. -/
inductive ImageRecord where
  | config (c : ConfigRecord)
  | table (w : TableWrite)
  deriving DecidableEq, Repr

/-- Read an image record of known length; none for a recipe record whose part is not 00h. -/
def imageRecordOf (l : List Octet) : Option ImageRecord :=
  match l with
  | code :: t =>
    if code = 0x00 then some (.config (configOf t))
    else match tableOfCode code, t with
      | some table, low :: high :: form :: rest =>
        if form = 0x00 then some (.table (.empty table (word16 low high)))
        else if table = .recipe ∧ octetAt rest 0 ≠ 0x00 then none
        else some (.table (.full (word16 low high) (contentOf table rest)))
      | _, _ => none
  | [] => none

end Sys2Proof.Machine
end

