-- ==== Sys2Proof/Machine/Flags.lean ====
section
/-!
DEFINITION. Conditions and quantities that the manual derives and does not store: the lock of a valve
(R55), the quantities of a route and a step (R31, R32), the nodes a round depends on (R86), guarding
(R155), conflict and claimability (R45, R46).
-/

namespace Sys2Proof.Machine

open Sys2Proof

/-! ### Nodes and tracked channels -/

/-- The node map index of a link address; a node is mapped when a full entry holds its address (R144). -/
def State.nodeIndex (s : State) (a : Octet) : Option Nat :=
  Table.first (fun _ e => e.address == a) s.nodes

/-- The node map entry of a link address. -/
def State.nodeAt (s : State) (a : Octet) : Option NodeEntry :=
  (s.nodeIndex a).bind (Table.entry s.nodes)

/-- The node at an address is mapped and its silent flag is set (R10). -/
def State.nodeSilent (s : State) (a : Octet) : Bool :=
  match s.nodeAt a with
  | some e => e.silent
  | none => false

/-- The valve of a node and slot; none when the slot is untracked (R148). -/
def State.valveAt (s : State) (a : Octet) (slot : Nat) : Option Nat :=
  Table.first (fun _ v => v.node == a && v.slot == slot) s.valves

/-- The drive of a node and channel; none when the channel is untracked (R148). -/
def State.driveAt (s : State) (a : Octet) (channel : Nat) : Option Nat :=
  Table.first (fun _ d => d.node == a && d.channel == channel) s.drives

/-- The point of a node and channel (R159). -/
def State.pointAt (s : State) (a : Octet) (channel : Nat) : Option Nat :=
  Table.first (fun _ p => p.node == a && p.channel == channel) s.points

/-- The node of a valve. -/
def State.valveNode (s : State) (n : Nat) : Option Octet := (Table.entry s.valves n).map (·.node)

/-- The node of a drive. -/
def State.driveNode (s : State) (n : Nat) : Option Octet := (Table.entry s.drives n).map (·.node)

/-- The node of a point. -/
def State.pointNode (s : State) (n : Nat) : Option Octet := (Table.entry s.points n).map (·.node)

/-! ### Locks (R55) -/

/-- The round that claims a side. -/
def claimSlot : Option SegmentState → Option Slot
  | some (.claimed k) => some k
  | _ => none

/-- A side that is CLAIMED or SUSPECT. -/
def sideLocks : Option SegmentState → Bool
  | some (.claimed _) => true
  | some (.suspect _) => true
  | _ => false

/-- A valve is locked when it has no route owner and either side is CLAIMED or SUSPECT (R55). -/
def State.locked (s : State) (v : ValveEntry) : Bool :=
  v.owner.isNone && (sideLocks (s.sideState v.sideA) || sideLocks (s.sideState v.sideB))

/-- The seat lift toward the claimed side of a valve that joins PRODUCT to CLAIMED (R56). -/
def State.liftToClaimed (s : State) (v : ValveEntry) : Option Position :=
  match s.sideState v.sideA, s.sideState v.sideB with
  | some .product, some (.claimed _) => some .liftB
  | some (.claimed _), some .product => some .liftA
  | _, _ => none

/-- A position that settling a locked valve may forward (R56, R151): between PRODUCT and CLAIMED that is CLOSE or
the lift toward the claimed side, and any other lift goes out as CLOSE (log 35). -/
def State.segregatedPosition (s : State) (v : ValveEntry) (p : Position) : Position :=
  match s.liftToClaimed v with
  | some lift => if p = lift then lift else .close
  | none => p

/-- The position the image holds for a valve, as an owned valve (R150) and a rebuilt frame (R156) forward it: its
commanded position as it stands, CLOSE when that is NONE, whatever the valve stands between (log 35). -/
def ValveEntry.imagePosition (v : ValveEntry) : Position := v.commanded.getD .close

/-- The slots claiming the sides of a valve: side A, then side B. -/
def State.claimSlots (s : State) (v : ValveEntry) : List Slot :=
  (claimSlot (s.sideState v.sideA)).toList ++ (claimSlot (s.sideState v.sideB)).toList

/-- The lowest slot holding a CLAIMED side of a valve (R167, R177). -/
def State.lowestClaim (s : State) (v : ValveEntry) : Option Slot :=
  allSlots.find? fun k => (s.claimSlots v).contains k

/-- The side segment that locks a valve, side A before side B (R167). -/
def State.lockingSegment (s : State) (v : ValveEntry) : Option Nat :=
  if sideLocks (s.sideState v.sideA) then v.sideA
  else if sideLocks (s.sideState v.sideB) then v.sideB
  else none

/-- A side that is neither absent nor FREE (R16, R21, R40). -/
def State.sideBusy (s : State) (side : Option Nat) : Bool :=
  match s.sideState side with
  | some .free => false
  | some _ => true
  | none => false

/-- A valve qualifies for the scan when it has a route owner or is locked (R169). -/
def State.qualifies (s : State) (v : ValveEntry) : Bool := v.owner.isSome || s.locked v

/-! ### Quantities of a route and a step (R31, R32) -/

/-- The last segment of a route: its header segment. -/
def Route.lastSegment (r : Route) : Option Nat := r.segments.getLast?

/-- The header number of a route's last segment. -/
def State.headerNumber (s : State) (r : Route) : Option HeaderId :=
  (r.lastSegment.bind (Table.entry s.segments)).bind (·.header)

/-- The route's header, when its entry is full (R31). -/
def State.routeHeader (s : State) (r : Route) : Option HeaderId :=
  match s.headerNumber r with
  | some h => if (s.header h).load.isSome then some h else none
  | none => none

/-- The loaded fields of a round's header: the one it has taken at its claim grant (log 13). -/
def State.headerLoadOf (s : State) (k : Slot) : Option HeaderLoad :=
  (s.round k).header.bind fun h => (s.header h).load

/-- The lift position of a boundary valve: toward its inner side (R31). -/
def BoundaryItem.lift (b : BoundaryItem) : Position :=
  match b.outer with
  | .a => .liftB
  | .b => .liftA

/-- The entry valve through which a station feeds a route (R24). -/
def Route.entryValve (r : Route) (k : StationId) : Option Nat :=
  (r.stations.find? (·.station == k)).map (·.valve)

/-- The entry valve of a round's route for a station. -/
def State.entryValveOf (s : State) (k : Slot) (st : StationId) : Option Nat :=
  (s.routeOf k).bind fun r => r.entryValve st

/-- A chemical medium is CAUSTIC or ACID (R31). -/
def Medium.chemical : Medium → Bool
  | .caustic => true
  | .acid => true
  | _ => false

/-- The chemical medium a target carries (R128). -/
def Target.chemical : Target → Option Medium
  | .recoverCaustic => some .caustic
  | .recoverAcid => some .acid
  | .recirculate _ m => if m.chemical then some m else none
  | .drain => none

/-- The candidate stations of a step (R31). -/
def candidates (r : Route) (st : RecipeStep) : List StationId :=
  match st.choice with
  | some k => [k]
  | none => r.stations.map (·.station)

/-- A step needs an interface when its disposition is RECOVER, or RECIRCULATE with a chemical medium. -/
def RecipeStep.needsInterface (st : RecipeStep) : Bool :=
  match st.disposition with
  | .recover => true
  | .recirculate => st.medium.chemical
  | .drain => false

/-- The diverter target a step asks for, from the granted station (R31). -/
def RecipeStep.target (st : RecipeStep) (k : StationId) : Target :=
  match st.disposition with
  | .drain => .drain
  | .recover => if st.medium = .acid then .recoverAcid else .recoverCaustic
  | .recirculate => .recirculate k st.medium

/-- The fill point of a round's route: the flow point of its header segment, otherwise the return flow
point of the route's header (R32). -/
def State.fillPoint (s : State) (k : Slot) : Option Nat :=
  match s.routeOf k with
  | some r =>
    match (r.lastSegment.bind (Table.entry s.segments)).bind (·.flow) with
    | some p => some p
    | none => (s.headerLoadOf k).map (·.flow)
  | none => none

/-- The first MIXPROOF valve of a boundary list at or after a position (R90, R97). -/
def State.nextMixproof (s : State) : List BoundaryItem → Nat → Option Nat
  | [], _ => none
  | b :: t, n =>
    if (Table.entry s.valves b.valve).any (·.kind == .mixproof) then some n
    else s.nextMixproof t (n + 1)

/-- The boundary list element a round's lift progress stands at. -/
def State.liftItem (s : State) (k : Slot) : Option BoundaryItem :=
  match (s.round k).lift, s.routeOf k with
  | .active n _ _, some r => r.boundary[n]?
  | _, _ => none

/-- The round is in STEP_TIMING in a LIFTED phase on a valve of its boundary list (R97, R151). -/
def State.lifting (s : State) (k : Slot) (n : Nat) : Option Position :=
  match (s.round k).state, (s.round k).lift, s.liftItem k with
  | .stepTiming, .active _ _ .lifted, some b => if b.valve = n then some b.lift else none
  | _, _, _ => none

/-- The position forwarded for a locked valve (R151): the lift position of the one round claiming a side
that is in a LIFTED phase on it, within R56 (log 35); CLOSE when there is none, or when two rounds lift it at
once. -/
def State.lockedPosition (s : State) (n : Nat) (v : ValveEntry) : Position :=
  match ((s.claimSlots v).dedup).filterMap (fun k => s.lifting k n) with
  | [p] => s.segregatedPosition v p
  | _ => .close

/-! ### Rounds -/

/-- The states in which a round records hold causes (R86). -/
def RoundState.records : RoundState → Bool
  | .idle => false
  | .done => false
  | .faulted => false
  | _ => true

/-- The states that a hold cause turns into HOLDING, with their resume state (R86, R100). -/
def RoundState.held : RoundState → Option ResumeState
  | .setting => some .setting
  | .stepFill => some .stepFill
  | .stepTiming => some .stepTiming
  | .ending => some .ending
  | _ => none

/-- The states in which a round holds its claim (R51). -/
def RoundState.claims : RoundState → Bool
  | .setting => true
  | .waitStation => true
  | .stepFill => true
  | .stepTiming => true
  | .holding => true
  | .paused => true
  | .ending => true
  | .faulted => true
  | _ => false

/-- A slot outside IDLE and DONE (R8, R11). -/
def State.active (s : State) (k : Slot) : Bool :=
  (s.round k).state != .idle && (s.round k).state != .done

/-- The lowest slot outside IDLE and DONE. -/
def State.lowestActive (s : State) : Option Slot := allSlots.find? s.active

/-- The nodes of a round's setting and boundary valves (R86). -/
def State.routeNodes (s : State) (k : Slot) : List Octet :=
  match s.routeOf k with
  | some r => (r.setting.map (·.valve) ++ r.boundary.map (·.valve)).filterMap s.valveNode
  | none => []

/-- The nodes of the held station's drives (R86). -/
def State.supplyNodes (s : State) (k : Slot) : List Octet :=
  match (s.round k).held.bind (fun st => (s.station st).load) with
  | some l => l.drives.filterMap s.driveNode
  | none => []

/-- The nodes of the resolved criterion points (R86). -/
def State.resolvedNodes (s : State) (k : Slot) : List Octet :=
  ((s.round k).criteria.filterMap (·.point)).filterMap s.pointNode

/-- The nodes of the header's diverter valves and of its return flow point (R86). -/
def State.headerNodes (s : State) (k : Slot) : List Octet :=
  match s.headerLoadOf k with
  | some l => l.diverters.filterMap s.valveNode ++ (s.pointNode l.flow).toList
  | none => []

/-- The header's nodes count in SETTING and ENDING, and in HOLDING with one of them to resume (R86). -/
def Round.atHeader (r : Round) : Bool :=
  match r.state, r.resume with
  | .setting, _ => true
  | .ending, _ => true
  | .holding, some .setting => true
  | .holding, some .ending => true
  | _, _ => false

/-- The nodes a round depends on in its state (R86). -/
def State.dependencies (s : State) (k : Slot) : List Octet :=
  if (s.round k).state.records then
    s.routeNodes k ++ s.supplyNodes k ++ s.resolvedNodes k
      ++ (if (s.round k).atHeader then s.headerNodes k else [])
  else []

/-! ### Guarding (R155) -/

/-- A mapped VALVE_CLUSTER with a valve that is owned or locked, or a mapped DRIVE node with an owned
drive. -/
def State.needsGuarding (s : State) (a : Octet) : Bool :=
  match s.nodeAt a with
  | some e =>
    match e.kind with
    | .valveCluster => (Table.first (fun _ v => v.node == a && s.qualifies v) s.valves).isSome
    | .drive => (Table.first (fun _ d => d.node == a && d.owner.isSome) s.drives).isSome
    | .instrument => false
  | none => false

/-! ### Conflict and claimability (R45, R46) -/

/-- A side that names a segment of a list. -/
def sideIn (l : List Nat) : Option Nat → Bool
  | some n => l.contains n
  | none => false

/-- A side that names a segment outside a list. -/
def sideOut (l : List Nat) : Option Nat → Bool
  | some n => !l.contains n
  | none => false

/-- Two routes conflict when they share a segment or a setting valve. -/
def Route.conflicts (r q : Route) : Bool :=
  r.segments.any q.segments.contains
    || (r.setting.map (·.valve)).any (q.setting.map (·.valve)).contains

/-- The diverter valves of a route's header; none when the header entry is empty. -/
def State.routeDiverters (s : State) (r : Route) : List Nat :=
  match s.routeHeader r with
  | some h => ((s.header h).load.map HeaderLoad.diverters).getD []
  | none => []

/-- The outer segment of an edge valve of a segment list (R46). -/
def outerSegment (l : List Nat) (v : ValveEntry) : Option Nat :=
  if sideIn l v.sideA && sideOut l v.sideB then v.sideB
  else if sideIn l v.sideB && sideOut l v.sideA then v.sideA
  else none

/-- An edge valve passes by the state of its outer segment (R46). -/
def State.edgePasses (s : State) (r : Route) (n : Nat) (v : ValveEntry) : Bool :=
  match outerSegment r.segments v with
  | none => true
  | some outer =>
    match s.segState outer with
    | .free => true
    | .claimed _ => true
    | .product => v.kind == .mixproof && !(r.setting.map (·.valve)).contains n
        && !(r.stations.map (·.valve)).contains n && !(s.routeDiverters r).contains n
    | .suspect _ => false

/-- The segregation judgement (R46): every edge valve of the route passes. -/
def State.segregated (s : State) (r : Route) : Bool :=
  (Table.first (fun n v => !s.edgePasses r n v) s.valves).isNone

/-- A route is claimable (R45, items 1 to 4). -/
def State.claimable (s : State) (r : Route) : Bool :=
  r.segments.all (fun n => s.segState n == .free)
    && (r.setting.map (·.valve) ++ r.stations.map (·.valve) ++ s.routeDiverters r).all
        (fun n => (s.valveOwner n).isNone)
    && s.segregated r
    && r.segments.all (fun n => (Table.entry s.segments n).isSome)
    && (r.setting.map (·.valve) ++ r.boundary.map (·.valve) ++ r.stations.map (·.valve)).all
        (fun n => (Table.entry s.valves n).isSome)

end Sys2Proof.Machine
end

