-- ==== Sys2Proof/Machine/Headers.lean ====
section
/-!
DEFINITION. The return header controller (chapter 7): switching, target requests, interfaces, samples,
cancellation and release.
-/

namespace Sys2Proof.Machine

open Sys2Proof

/-- The diverter valve that serves a target (R128). -/
def HeaderLoad.serving (l : HeaderLoad) : Target → Option Nat
  | .drain => some l.drain
  | .recoverCaustic => l.caustic
  | .recoverAcid => l.acid
  | .recirculate k _ => l.recirculate k

/-- A header can serve a target when the target's diverter valve is present and, for a target that
carries a chemical medium, a return conductivity point is present (R41, R131). -/
def HeaderLoad.serves (l : HeaderLoad) (t : Target) : Bool :=
  (l.serving t).isSome && (t.chemical.isNone || l.cond.isSome)

/-- The positions that put a target into the valve image: the serving valve OPEN, every other present
diverter valve CLOSE (R130). -/
def HeaderLoad.positions (l : HeaderLoad) (t : Target) : List (Nat × Position) :=
  l.diverters.map fun n => (n, if l.serving t = some n then .open else .close)

/-- Switch a header to a target (R130). -/
def State.switch (h : HeaderId) (t : Target) (s : State) : State :=
  let s := match (s.header h).load with
    | some l => s.commandValves (l.positions t)
    | none => s
  s.updHeader h fun x => { x with current := t }

/-- Put a header in STEADY: both timers stop and the pending target is cleared. -/
def State.steady (h : HeaderId) (s : State) : State :=
  s.updHeader h fun x =>
    { x with pending := none, interface := .steady, hold := x.hold.stop, maximum := x.maximum.stop }

/-- The limits of the interface timers as the configuration gives them now (R7, R132). -/
def State.interfaceHoldLimit (s : State) : Nat := tenths s.config.interfaceHold.toNat

/-- The interface maximum in milliseconds. -/
def State.interfaceMaxLimit (s : State) : Nat := seconds s.config.interfaceMax.toNat

/-- The node of a header's return conductivity point is silent (R138). -/
def State.condSilent (s : State) (h : HeaderId) : Bool :=
  (((s.header h).load.bind (·.cond)).bind s.pointNode).any s.nodeSilent

/-- The interface hold as an interface begins: at 0.0 (R132, R134), and stopped while the conductivity point's node
is silent, so that the interface never completes on silence (R138, log 36). -/
def State.beginHold (s : State) (h : HeaderId) : Timer :=
  if s.condSilent h then (Timer.start s.interfaceHoldLimit).stop else Timer.start s.interfaceHoldLimit

/-- Begin an interface-out toward a target (R132): the current target is kept. -/
def State.beginOut (h : HeaderId) (t : Target) (s : State) : State :=
  s.updHeader h fun x =>
    { x with pending := some t, interface := .interfaceOut
             hold := s.beginHold h, maximum := Timer.start s.interfaceMaxLimit }

/-- Begin an interface-in toward a target (R134): the header switches to DRAIN. -/
def State.beginIn (h : HeaderId) (t : Target) (s : State) : State :=
  (s.switch h .drain).updHeader h fun x =>
    { x with pending := some t, interface := .interfaceIn
             hold := s.beginHold h, maximum := Timer.start s.interfaceMaxLimit }

/-- Judge a request that reaches a STEADY header against the current target: the first matching line of
R131. -/
def State.judgeTarget (h : HeaderId) (t : Target) (s : State) : State :=
  let cur := (s.header h).current
  if t = cur then s
  else if cur.chemical.isSome && t.chemical != cur.chemical then s.beginOut h t
  else if t.chemical.isSome && cur.chemical != t.chemical then s.beginIn h t
  else s.switch h t

/-- The header segment as an event subject. -/
def State.headerSubject (s : State) (h : HeaderId) : Option Subject :=
  (s.header h).load.map fun l => .segment l.segment

/-- Abandon a running interface at a further request (R137): INTERFACE_CUT names the owning round, the
header segment, the interface state and the abandoned target. -/
def State.cutInterface (h : HeaderId) (k : Slot) (s : State) : State :=
  let x := s.header h
  if x.interface = .steady then s
  else
    (s.steady h).offer { s.event .interfaceCut with
      slot := some k
      subject := s.headerSubject h
      cause := some (.interface x.interface)
      value := x.pending.map .target }

/-- Take a target request of the owning round (R131): a target the header cannot serve is taken as
DRAIN (R41), a running interface is cut (R137), and the request is judged. -/
def State.requestTarget (h : HeaderId) (k : Slot) (t : Target) (s : State) : State :=
  let served := match (s.header h).load with
    | some l => if l.serves t then t else .drain
    | none => .drain
  (s.cutInterface h k).judgeTarget h served

/-- Take the pending target of an INTERFACE_OUT header whose hold has elapsed or whose maximum has
expired (R133, R136). -/
def State.takePending (h : HeaderId) (s : State) : State :=
  match (s.header h).pending with
  | some t =>
    if t.chemical.isSome then (s.steady h).beginIn h t else (s.switch h t).steady h
  | none => s.steady h

/-- The interface hold of an INTERFACE_IN header elapses (R135). -/
def State.finishIn (h : HeaderId) (s : State) : State :=
  match (s.header h).pending with
  | some t => (s.switch h t).steady h
  | none => s.steady h

/-- The round that holds a header's segment CLAIMED (R129). -/
def State.headerOwner (s : State) (h : HeaderId) : Option Slot :=
  (s.header h).load.bind fun l => claimSlot (some (s.segState l.segment))

/-- Both timers stop, the pending target is cleared, and the header is STEADY on DRAIN, switched there by R130
when DRAIN is not current (R136, R140). -/
def State.settleOnDrain (h : HeaderId) (s : State) : State :=
  let s := s.steady h
  if (s.header h).current = .drain then s else s.switch h .drain

/-- The interface maximum expires before the hold has elapsed (R136): INTERFACE_OUT takes the pending target
as in R133, INTERFACE_IN gives it up and is STEADY on DRAIN. -/
def State.interfaceLong (h : HeaderId) (s : State) : State :=
  let x := s.header h
  let s := s.offer { s.event .interfaceLong with
    slot := s.headerOwner h
    subject := s.headerSubject h
    cause := some (.interface x.interface)
    value := x.pending.map .target }
  if x.interface = .interfaceOut then s.takePending h else s.settleOnDrain h

/-- The medium whose interface limit judges a running interface: the one the current target carries in
INTERFACE_OUT, the one the pending target carries in INTERFACE_IN (R132, R134). -/
def Header.judgedMedium (x : Header) : Option Medium :=
  match x.interface with
  | .interfaceOut => x.current.chemical
  | .interfaceIn => x.pending.bind Target.chemical
  | .steady => none

/-- The interface limit of a chemical medium, in 0.01 mS/cm (R31, R128). -/
def State.interfaceLimit (s : State) : Medium → Nat
  | .acid => s.config.acidLimit.toNat
  | _ => s.config.causticLimit.toNat

/-- A conductivity sample lets the interface hold run on (R132, R134): it is GOOD, and below the limit in
INTERFACE_OUT, at or above it in INTERFACE_IN. -/
def State.sampleRunsOn (s : State) (x : Header) (value : Nat) (q : Quality) : Bool :=
  q == .good &&
    match x.judgedMedium with
    | some m =>
      match x.interface with
      | .interfaceOut => value < s.interfaceLimit m
      | .interfaceIn => s.interfaceLimit m ≤ value
      | .steady => false
    | none => false

/-- A sample of a header's return conductivity point (R132, R134, R138): a STEADY header does not judge
it; a sample that does not let the hold run on, or finds it stopped by silence, restarts it from 0.0. -/
def State.condSample (h : HeaderId) (value : Nat) (q : Quality) (s : State) : State :=
  let x := s.header h
  if x.interface = .steady then s
  else if s.sampleRunsOn x value q && x.hold.mode == .running then s
  else s.updHeader h fun x => { x with hold := Timer.start s.interfaceHoldLimit }

/-- The node of a header's return conductivity point falls silent (R138): a running interface sets its
hold to 0.0 and stops it; the maximum runs on. -/
def State.condSilence (h : HeaderId) (s : State) : State :=
  if (s.header h).interface = .steady then s
  else s.updHeader h fun x => { x with hold := { x.hold with mode := .stopped, elapsed := 0 } }

/-- The owning round enters FAULTED (R139): both timers stop, the pending target is cleared and DRAIN is
set at once, with no event. A header STEADY on DRAIN writes nothing. -/
def State.cancelHeader (h : HeaderId) (s : State) : State :=
  let x := s.header h
  if x.interface = .steady ∧ x.current = .drain then s else (s.switch h .drain).steady h

/-- The owning round gives up its claim (R140). -/
def State.releaseHeader (h : HeaderId) (s : State) : State := s.settleOnDrain h

end Sys2Proof.Machine
end

