-- ==== Sys2Proof/Machine/Validity.lean ====
section
/-!
DEFINITION. The validity checks of ROUND_START (R33 to R39) and the judgement of a granted station (R40).
A failure is a check number, 1 to 20, and a subject.
-/

namespace Sys2Proof.Machine

open Sys2Proof

/-- A failed validity check: its number in R34 to R39, which is its check code (R208), and the subject. -/
structure CheckFailure where
  check : Nat
  subject : Nat
  deriving DecidableEq, Repr

/-- The first element of a list that fails a condition fails a check with its index as subject. -/
def firstFailing (check : Nat) (ok : Nat → Bool) (l : List Nat) : Option CheckFailure :=
  (l.find? fun n => !ok n).map fun n => ⟨check, n⟩

/-- A step subject: 100 times the step index plus the field's position (R28). -/
def stepSubject (index position : Nat) : Nat := 100 * index + position

/-! ### Checks 3 to 12 -/

/-- A segment entry is full. -/
def State.segmentFull (s : State) (n : Nat) : Bool := (Table.entry s.segments n).isSome

/-- A valve entry is full. -/
def State.valveFull (s : State) (n : Nat) : Bool := (Table.entry s.valves n).isSome

/-- A segment is of kind RETURN. -/
def State.isReturn (s : State) (n : Nat) : Bool :=
  (Table.entry s.segments n).any (·.kind == .ret)

/-- Check 4, RETURN_PLACE (R34): walked from the first segment, the last is RETURN and no other is. -/
def State.returnPlace (s : State) : List Nat → Option CheckFailure
  | [] => none
  | [n] => if s.isReturn n then none else some ⟨4, n⟩
  | n :: t => if s.isReturn n then some ⟨4, n⟩ else s.returnPlace t

/-- Check 5, NO_HEADER (R34). -/
def State.headerPresent (s : State) (r : Route) : Option CheckFailure :=
  match s.headerNumber r with
  | some h => if (s.header h).load.isSome then none else some ⟨5, h.val⟩
  | none => none

/-- Check 7, NO_STATION (R34). -/
def State.stationsFull (s : State) (r : Route) : Option CheckFailure :=
  (r.stations.find? fun i => (s.station i.station).load.isNone).map fun i => ⟨7, i.station.val⟩

/-- Check 8 for one valve: no side names a segment outside the segment list (R35). -/
def State.settingSide (s : State) (r : Route) (n : Nat) : Bool :=
  match Table.entry s.valves n with
  | some v => !sideOut r.segments v.sideA && !sideOut r.segments v.sideB
  | none => true

/-- The inner side of a boundary valve: the side other than its outer side (R31). -/
def innerSegment (v : ValveEntry) (outer : Side) : Option Nat :=
  match outer with
  | .a => v.sideB
  | .b => v.sideA

/-- The segment on the outer side. -/
def outerSide (v : ValveEntry) (outer : Side) : Option Nat :=
  match outer with
  | .a => v.sideA
  | .b => v.sideB

/-- Check 9 for one boundary valve: the inner side names a segment of the list and the outer side none of
them (R35). -/
def State.boundarySide (s : State) (r : Route) (b : BoundaryItem) : Bool :=
  match Table.entry s.valves b.valve with
  | some v => sideIn r.segments (innerSegment v b.outer) && !sideIn r.segments (outerSide v b.outer)
  | none => true

/-- Check 10 for one entry valve: one side names a segment of the list and the other is absent (R35). -/
def State.entrySide (s : State) (r : Route) (n : Nat) : Bool :=
  match Table.entry s.valves n with
  | some v => (sideIn r.segments v.sideA && v.sideB.isNone)
      || (sideIn r.segments v.sideB && v.sideA.isNone)
  | none => true

/-- A valve that is a medium valve of any full station (R35). -/
def State.isMedium (s : State) (n : Nat) : Bool :=
  allStations.any fun k => ((s.station k).load.map StationLoad.mediumValves).any (·.contains n)

/-- A valve that is a diverter valve of any full return header (R35). -/
def State.isDiverter (s : State) (n : Nat) : Bool :=
  allHeaders.any fun k => ((s.header k).load.map HeaderLoad.diverters).any (·.contains n)

/-- The valves a route lists: setting, boundary, entry, each in list order. -/
def Route.valves (r : Route) : List Nat :=
  r.setting.map (·.valve) ++ r.boundary.map (·.valve) ++ r.stations.map (·.valve)

/-- Check 12, UNGUARDED (R36): a full valve with exactly one side in the route is one the route lists or a
diverter valve of its header. -/
def State.unguarded (s : State) (r : Route) : Option CheckFailure :=
  (Table.first (fun n v =>
      (sideIn r.segments v.sideA != sideIn r.segments v.sideB)
        && !r.valves.contains n && !(s.routeDiverters r).contains n) s.valves).map fun n => ⟨12, n⟩

/-- Checks 3 to 12 in order (R33). -/
def State.routeChecks (s : State) (r : Route) : List (Option CheckFailure) :=
  [ firstFailing 3 s.segmentFull r.segments
  , s.returnPlace r.segments
  , s.headerPresent r
  , firstFailing 6 s.valveFull r.valves
  , s.stationsFull r
  , firstFailing 8 (s.settingSide r) (r.setting.map (·.valve))
  , (r.boundary.find? fun b => !s.boundarySide r b).map fun b => ⟨9, b.valve⟩
  , firstFailing 10 (s.entrySide r) (r.stations.map (·.valve))
  , firstFailing 11 (fun n => !s.isMedium n && !s.isDiverter n) r.valves
  , s.unguarded r ]

/-! ### Checks 13 to 20 -/

/-- A value lies within a drive's minimum and maximum. -/
def DriveEntry.admits (d : DriveEntry) (value : Nat) : Bool := d.minimum ≤ value && value ≤ d.maximum

/-- Check 14 for one station: it has a medium valve for the step's medium (R37). -/
def State.offersMedium (s : State) (st : RecipeStep) (k : StationId) : Bool :=
  ((s.station k).load.bind fun l => l.valveFor st.medium).isSome

/-- Check 15 for one station: it has a heater when the step has a setpoint (R37). -/
def State.hasHeater (s : State) (st : RecipeStep) (k : StationId) : Bool :=
  st.heater.isNone || ((s.station k).load.bind (·.heater)).isSome

/-- Check 16 for one station's pump (R37). -/
def State.pumpFits (s : State) (st : RecipeStep) (k : StationId) : Bool :=
  match (s.station k).load.bind fun l => Table.entry s.drives l.pump with
  | some d => d.minimum == 0 && d.admits st.pump
  | none => true

/-- Check 16 for one station's heater (R37). -/
def State.heaterFits (s : State) (st : RecipeStep) (k : StationId) : Bool :=
  match ((s.station k).load.bind (·.heater)).bind (Table.entry s.drives) with
  | some d => d.minimum == 0 && (match st.heater with | some v => d.admits v | none => true)
  | none => true

/-- Check 16, DRIVE_LIMIT, over the candidates in order, the pump before the heater (R37, log 18). -/
def State.driveLimit (s : State) (i : Nat) (st : RecipeStep) : List StationId → Option CheckFailure
  | [] => none
  | k :: t =>
    if !s.pumpFits st k then some ⟨16, stepSubject i 4⟩
    else if !s.heaterFits st k then some ⟨16, stepSubject i 5⟩
    else s.driveLimit i st t

/-- A criterion's role can be resolved at a header, from every one of some stations (R38). -/
def State.roleResolves (s : State) (h : Option HeaderLoad) (ks : List StationId) : Role → Bool
  | .supplyTemp => ks.all fun k => ((s.station k).load.bind (·.temp)).isSome
  | .returnTemp => (h.bind (·.temp)).isSome
  | .returnCond => (h.bind (·.cond)).isSome
  | .returnFlow => true

/-- The role position of a criterion in a step: 13, 18 or 23 (R27). -/
def rolePosition (n : Nat) : Nat := 13 + 5 * n

/-- Check 17, CRITERION_ROLE, in criterion order (R38). -/
def State.criterionRoles (s : State) (h : Option HeaderLoad) (ks : List StationId) (i : Nat) :
    List Criterion → Nat → Option CheckFailure
  | [], _ => none
  | c :: t, n =>
    if s.roleResolves h ks c.role then s.criterionRoles h ks i t (n + 1)
    else some ⟨17, stepSubject i (rolePosition n)⟩

/-- Fail a check with a subject when a condition does not hold. -/
def require (ok : Bool) (check subject : Nat) : Option CheckFailure :=
  if ok then none else some ⟨check, subject⟩

/-- Checks 14 to 16 for some stations (R37). -/
def State.supplyChecks (s : State) (i : Nat) (st : RecipeStep) (ks : List StationId) :
    List (Option CheckFailure) :=
  [ require (ks.all (s.offersMedium st)) 14 (stepSubject i 1)
  , require (ks.all (s.hasHeater st)) 15 (stepSubject i 5)
  , s.driveLimit i st ks ]

/-- The header has the recovery valve of a RECOVER step's medium (check 18, R39). -/
def recoveryPresent (h : Option HeaderLoad) (st : RecipeStep) : Bool :=
  match st.disposition with
  | .recover => (h.bind fun l => if st.medium = .acid then l.acid else l.caustic).isSome
  | _ => true

/-- The header has a recirculate valve for every candidate of a RECIRCULATE step (check 19, R39). -/
def recirculatePresent (h : Option HeaderLoad) (st : RecipeStep) (ks : List StationId) : Bool :=
  match st.disposition with
  | .recirculate => ks.all fun k => (h.bind fun l => l.recirculate k).isSome
  | _ => true

/-- Checks 13 to 20 for one step (R33, R37 to R39). -/
def State.stepChecks (s : State) (r : Route) (i : Nat) (st : RecipeStep) :
    List (Option CheckFailure) :=
  let ks := candidates r st
  let h := (s.routeHeader r).bind fun k => (s.header k).load
  require (match st.choice with
      | some k => (r.stations.map (·.station)).contains k
      | none => true) 13 (stepSubject i 2)
    :: s.supplyChecks i st ks
    ++ [ s.criterionRoles h ks i st.criteria 0
       , require (recoveryPresent h st) 18 (stepSubject i 9)
       , require (recirculatePresent h st ks) 19 (stepSubject i 9)
       , require (!st.needsInterface || (h.bind (·.cond)).isSome) 20 (stepSubject i 9) ]

/-- Checks 13 to 20 for every step, step 0 before step 1 (R33). -/
def State.recipeChecks (s : State) (r : Route) : Nat → List RecipeStep → List (Option CheckFailure)
  | _, [] => []
  | i, st :: t => s.stepChecks r i st ++ s.recipeChecks r (i + 1) t

/-- The first check of R34 to R39 that fails for a recipe and a route, in the order of R33. -/
def State.invalid (s : State) (recipe route : Nat) : Option CheckFailure :=
  match Table.entry s.routes route, Table.entry s.recipes recipe with
  | none, _ => some ⟨1, route⟩
  | some _, none => some ⟨2, recipe⟩
  | some r, some steps => (s.routeChecks r ++ s.recipeChecks r 0 steps).findSome? id

/-! ### The granted station (R40, R70, R74) -/

/-- A station passes checks 14, 15 and 16 for a step, as the one candidate (R40, R74). -/
def State.supplies (s : State) (st : RecipeStep) (k : StationId) : Bool :=
  ((s.supplyChecks 0 st [k]).findSome? id).isNone

/-- A valve whose route owner or side segments bar a grant (R21, R40): it has an owner, or a side segment
that is not FREE. -/
def State.mediumBarred (s : State) (n : Nat) : Bool :=
  match Table.entry s.valves n with
  | some v => v.owner.isSome || s.sideBusy v.sideA || s.sideBusy v.sideB
  | none => false

/-- The station is fit for the round's current step (R40): checks 14 to 16 pass, no medium valve is barred,
and the route's entry valve for it is full and has no route owner. -/
def State.fit (s : State) (k : Slot) (st : StationId) : Bool :=
  (match s.stepOf k with
    | some step => s.supplies step st
    | none => false)
  && (((s.station st).load.map StationLoad.mediumValves).getD []).all (fun n => !s.mediumBarred n)
  && (match s.entryValveOf k st with
    | some n => s.valveFull n && (s.valveOwner n).isNone
    | none => false)

end Sys2Proof.Machine
end

