-- ==== Sys2Proof/Machine/Sequencer.lean ====
section
/-!
DEFINITION. The round sequencer with the station arbiter and the criteria unit (chapters 4, 5 and 6).
What one event sets off inside the engine (a release that grants a station, a grant that fills, a fill
that times, a step that completes) is a list of tasks, taken in order; each task names the tasks that
come next in its place. `State.cascade` runs them to the end.
-/

namespace Sys2Proof.Machine

open Sys2Proof

/-! ### Timers and lifts of a round -/

/-- Timers of a suspended round pause (R100), the wall timer among them (R94, log 34). -/
def Round.pauseTimers (r : Round) : Round :=
  { r with
    travel := r.travel.pause
    fill := r.fill.pause
    wall := r.wall.pause
    liftTimer := r.liftTimer.pause
    drainHold := r.drainHold.pause
    drainMax := r.drainMax.pause }

/-- Every timer of the round stops (R108, part 5). -/
def Round.stopTimers (r : Round) : Round :=
  { r with
    travel := r.travel.stop
    fill := r.fill.stop
    wall := r.wall.stop
    liftTimer := r.liftTimer.stop
    holdLimit := r.holdLimit.stop
    drainHold := r.drainHold.stop
    drainMax := r.drainMax.stop
    ageing := Timer.off }

/-- Travel, fill, wall and lift timers stop at ENDING entry (R106). -/
def Round.stopStep (r : Round) : Round :=
  { r with
    travel := r.travel.stop
    fill := r.fill.stop
    wall := r.wall.stop
    liftTimer := r.liftTimer.stop }

/-- A round that leaves STEP_TIMING in a LIFTED phase has the lifted valve commanded CLOSE; its progress
keeps the position, with the phase closed (R98, log 15). -/
def State.closeLift (k : Slot) (s : State) : State :=
  match (s.round k).state, (s.round k).lift, s.liftItem k with
  | .stepTiming, .active n p .lifted, some b =>
    (s.commandValve b.valve .close).updRound k fun r => { r with lift := .active n p .closed }
  | _, _, _ => s

/-- The lift length of the current step in milliseconds. -/
def State.liftLength (s : State) (k : Slot) : Nat :=
  match s.stepOf k with
  | some st => tenths st.liftLength
  | none => 0

/-- Start a LIFTED phase at a boundary list position (R97): the valve is commanded to its lift position. -/
def State.startLifted (k : Slot) (n pulse : Nat) (s : State) : State :=
  let s := match (s.routeOf k).bind fun r => r.boundary[n]? with
    | some b => s.commandValve b.valve b.lift
    | none => s
  s.updRound k fun r =>
    { r with lift := .active n pulse .lifted, liftTimer := Timer.start (s.liftLength k) }

/-- Start a CLOSED phase (R97): the valve is commanded CLOSE. -/
def State.startClosed (k : Slot) (n pulse : Nat) (s : State) : State :=
  let s := match (s.routeOf k).bind fun r => r.boundary[n]? with
    | some b => s.commandValve b.valve .close
    | none => s
  s.updRound k fun r =>
    { r with lift := .active n pulse .closed, liftTimer := Timer.start (s.liftLength k) }

/-- Where a step's lift progress is placed at its begin (R90): the first MIXPROOF valve of the boundary
list, pulse 1, LIFTED; DONE when the step has no pulses or the list no MIXPROOF valve. -/
def State.placeLift (s : State) (k : Slot) (st : RecipeStep) : LiftProgress :=
  if st.pulses = 0 then .done
  else match (s.routeOf k).bind fun r => s.nextMixproof r.boundary 0 with
    | some n => .active n 1 .lifted
    | none => .done

/-! ### Holding (R86, R100 to R102) -/

/-- The route's hold limit in milliseconds. -/
def State.holdLimitOf (s : State) (k : Slot) : Nat :=
  match s.routeOf k with
  | some r => seconds r.holdLimit
  | none => 0

/-- Hold a round (R100): the timers pause, and the hold-limit timer starts at 0.0, except from PAUSED or
HOLDING, where it runs on (R102, log 14). The lift progress stays as it is: at a linked step begin it is the
new step's, which no phase has yet run (R90). -/
def State.putOnHold (k : Slot) (res : ResumeState) (s : State) : State :=
  let st := (s.round k).state
  let s := s.updRound k fun r =>
    { r.pauseTimers with
      resume := some res
      holdLimit := if st = .paused ∨ st = .holding then r.holdLimit
        else Timer.start (s.holdLimitOf k) }
  s.enter k .holding

/-- Enter HOLDING from a running state (R100): a LIFTED phase of STEP_TIMING is closed first (R98). -/
def State.enterHolding (k : Slot) (res : ResumeState) (s : State) : State := (s.closeLift k).putOnHold k res

/-- Add NODE_SILENT for each of some nodes whose silent flag is set (R86), without judging it. -/
def State.noteSilent (k : Slot) (nodes : List Octet) (s : State) : State :=
  s.updRound k fun r =>
    { r with causes := (nodes.filter s.nodeSilent).foldl (fun c a => c.addNode a) r.causes }

/-- What a cause does in the state in which it arrives (R86): a round in SETTING, STEP_FILL, STEP_TIMING
or ENDING enters HOLDING. -/
def State.takeCause (k : Slot) (s : State) : State :=
  match (s.round k).state.held with
  | some res => s.enterHolding k res
  | none => s

/-- A round gains a hold cause (R86): recorded in the recording states, and taken by `takeCause`. -/
def State.gainCause (k : Slot) (f : HoldCauses → HoldCauses) (s : State) : State :=
  if (s.round k).state.records then
    (s.updRound k fun r => { r with causes := f r.causes }).takeCause k
  else s

/-! ### Ownership and release of a station (R65, R75) -/

/-- The valves a station grant takes: its medium valves, and the route's entry valve for it (R65). -/
def State.supplyValves (s : State) (k : Slot) (st : StationId) : List Nat :=
  (((s.station st).load.map StationLoad.mediumValves).getD []) ++ (s.entryValveOf k st).toList

/-- The drives a station grant takes (R65). -/
def State.supplyDrives (s : State) (st : StationId) : List Nat :=
  ((s.station st).load.map StationLoad.drives).getD []

/-- The round takes ownership of a station's actuators (R65, R70 part 4). -/
def State.takeOwnership (k : Slot) (st : StationId) (s : State) : State :=
  let valves := s.supplyValves k st
  let drives := s.supplyDrives st
  drives.foldl (fun s n => s.ownDrive (some k) n)
    (valves.foldl (fun s n => s.ownValve (some k) n) s)

/-- Write the release value of a valve and clear its owner, when the round owns it (R65, R75, R77). -/
def ValveEntry.giveUp (now : PartTime) (k : Slot) (v : ValveEntry) : ValveEntry :=
  if v.owner = some k then { v.command now .close with owner := none } else v

/-- Write the release value of a drive and clear its owner, when the round owns it. -/
def DriveEntry.giveUp (k : Slot) (d : DriveEntry) : DriveEntry :=
  if d.owner = some k then { d with commanded := some 0, owner := none } else d

/-- Release the actuators of a station (R75, parts 1 and 2). -/
def State.giveUpActuators (k : Slot) (st : StationId) (s : State) : State :=
  let valves := s.supplyValves k st
  let drives := s.supplyDrives st
  drives.foldl (fun s n => s.updDrive n (DriveEntry.giveUp k))
    (valves.foldl (fun s n => s.updValve n (ValveEntry.giveUp s.partTime k)) s)

/-- Parts 1 and 2 of R75: the release values are written, when the grant had taken ownership (R77), and
the station becomes FREE with both linked flags clear. -/
def State.freeStation (k : Slot) (owned : Bool) (s : State) : State :=
  match (s.round k).held with
  | none => s.updRound k fun r => { r with linked := false }
  | some st =>
    let s := if owned then s.giveUpActuators k st else s
    (s.updStation st fun x => { x with granted := none, linked := false }).updRound k fun r =>
      { r with held := none, linked := false }

/-- Leave a station wait queue (R68, R70 part 1, R77): the ageing timer stops and the effective class
returns to the given class. -/
def State.leaveQueues (k : Slot) (s : State) : State :=
  let s := allStations.foldl (fun s st =>
    s.updStation st fun x => { x with queue := x.queue.filter (· != k) }) s
  s.updRound k fun r =>
    { r with ageing := Timer.off, requestTime := none, effective := r.given }

/-! ### Requests and grants (R66 to R71) -/

/-- The length of a station's wait queue; the granted round is not counted (R67). -/
def State.queueLength (s : State) (st : StationId) : Nat := (s.station st).queue.length

/-- The shortest queue among some stations, the earliest among equals (R67). -/
def State.shortest (s : State) : List StationId → Option StationId
  | [] => none
  | k :: t =>
    match s.shortest t with
    | none => some k
    | some j => if s.queueLength k ≤ s.queueLength j then some k else some j

/-- Where a request with station choice ANY is placed (R67). -/
def State.placeAny (s : State) (ks : List StationId) : Option StationId :=
  let full := ks.filter fun k => (s.station k).load.isSome
  match full.find? fun k => (s.station k).granted.isNone && (s.station k).queue.isEmpty with
  | some k => some k
  | none =>
    match s.shortest full with
    | some k => some k
    | none => ks.head?

/-- The station a round's current step asks for (R66, R67). -/
def State.placement (s : State) (k : Slot) : Option StationId :=
  match s.stepOf k, s.routeOf k with
  | some st, some r =>
    match st.choice with
    | some j => some j
    | none => s.placeAny (r.stations.map (·.station))
  | _, _ => none

/-- The age limit of a class in milliseconds; class A has no ageing timer (R71). -/
def State.ageLimit (s : State) : RoundClass → Option Nat
  | .a => none
  | .b => some (seconds s.config.ageB.toNat)
  | .c => some (seconds s.config.ageC.toNat)

/-- The ageing timer a waiting round of a class runs (R71). -/
def State.ageingFor (s : State) (c : RoundClass) : Timer :=
  match s.ageLimit c with
  | some limit => Timer.start limit
  | none => Timer.off

/-- Join the back of a station's wait queue with a fresh request time and the given class (R66, R71). -/
def State.joinQueue (k : Slot) (st : StationId) (s : State) : State :=
  (s.updStation st fun x => { x with queue := x.queue ++ [k] }).updRound k fun r =>
    { r with
      effective := r.given
      requestTime := some s.partTime
      ageing := s.ageingFor r.given }

/-- The waiting round a FREE station is granted to (R69): the highest effective class, and among its
rounds the earliest in queue order. -/
def State.bestWaiting (s : State) (st : StationId) : Option Slot :=
  let q := (s.station st).queue
  match q.find? fun k => (s.round k).effective == .a with
  | some k => some k
  | none =>
    match q.find? fun k => (s.round k).effective == .b with
    | some k => some k
    | none => q.head?

/-! ### Roles (R115 to R117) -/

/-- The point a role stands for at a round's held station and header (R115). -/
def State.resolveRole (s : State) (k : Slot) (st : StationId) : Role → Option Nat
  | .supplyTemp => (s.station st).load.bind (·.temp)
  | .returnTemp => (s.headerLoadOf k).bind (·.temp)
  | .returnCond => (s.headerLoadOf k).bind (·.cond)
  | .returnFlow => (s.headerLoadOf k).map (·.flow)

/-- The criteria of the current step. -/
def State.criteriaOf (s : State) (k : Slot) : List Criterion :=
  match s.stepOf k with
  | some st => st.criteria
  | none => []

/-- Resolve the current step's roles (R115): a role left unresolved is unbound, and every window is
empty. -/
def State.resolve (k : Slot) (st : StationId) (s : State) : State :=
  s.updRound k fun r =>
    { r with criteria := (s.criteriaOf k).map fun c => ⟨s.resolveRole k st c.role, []⟩ }

/-- The first criterion whose role is unresolved, in list order (R116). -/
def State.unresolved (s : State) (k : Slot) (st : StationId) : Option Role :=
  ((s.criteriaOf k).find? fun c => (s.resolveRole k st c.role).isNone).map (·.role)

/-- The subject of CRITERION_UNBOUND (R116): the station for SUPPLY_TEMP, the header's segment for a return
role. -/
def State.unboundSubject (s : State) (k : Slot) (st : StationId) : Role → Option Subject
  | .supplyTemp => some (.station st.val)
  | _ => ((s.routeOf k).bind Route.lastSegment).map .segment

/-- Empty a round's windows and keep its points (R124). -/
def Round.clearWindows (r : Round) : Round :=
  { r with criteria := r.criteria.map fun c => { c with window := [] } }

/-! ### Faults (R108, R109) -/

/-- The states in which the sequencer takes a fault cause (R109). HEADER_LOST is taken on the entry to
SETTING; SEGREGATION_BREACH in any state that holds the claim with the wet flag set, except ENDING,
HOLDING with resume state ENDING, and FAULTED. -/
def Round.takes (r : Round) : FaultCause → Bool
  | .headerLost => r.state == .setting
  | .travelTimeout => r.state == .setting
  | .stationUnfit => r.state == .waitStation
  | .criterionUnbound => r.state == .waitStation
  | .fillTimeout => r.state == .stepFill
  | .stepOvertime => r.state == .stepFill || r.state == .stepTiming
  | .driveFault => r.state == .stepFill || r.state == .stepTiming
  | .holdTooLong => r.state == .holding || r.state == .paused
  | .drainOvertime => r.state == .ending
  | .scanMismatch => r.state == .stepFill || r.state == .stepTiming || r.state == .ending
  | .segregationBreach => r.wet && r.state.claims && r.state != .ending && r.state != .faulted
      && !(r.state == .holding && r.resume == some .ending)

/-- Parts 5 to 7 of the FAULTED entry (R108): timers stop, causes, resume state and criteria are cleared,
the header is set to DRAIN (R139), FAULT is queued, and the round is FAULTED. -/
def State.faultTail (k : Slot) (cause : FaultCause) (subject : Option Subject) (s : State) : State :=
  let s := (s.closeLift k).updRound k fun r =>
    { r.stopTimers with causes := HoldCauses.none, resume := none, criteria := [] }
  let s := match (s.round k).header with
    | some h => s.cancelHeader h
    | none => s
  let s := s.offer { s.event .fault with
    slot := some k
    subject := subject
    cause := some (.fault cause)
    value := some (.number (s.round k).step) }
  s.enter k .faulted

/-! ### Supply actions (R91) -/

/-- The positions of the supply actions' first part (R91): the entry valve OPEN, the step's medium valve
OPEN, every other medium valve of the station CLOSE. -/
def State.supplyPositions (s : State) (k : Slot) (st : StationId) (step : RecipeStep) :
    List (Nat × Position) :=
  match (s.station st).load with
  | some l =>
    ((s.entryValveOf k st).toList.map fun n => (n, .open))
      ++ l.mediumValves.map fun n => (n, if l.valveFor step.medium = some n then .open else .close)
  | none => []

/-- Command the station's drives (R91): the pump to a speed, and the heater, when the station has one, to
a setpoint. -/
def State.commandDrives (st : StationId) (pump heater : Nat) (s : State) : State :=
  match (s.station st).load with
  | some l =>
    let s := s.commandDrive l.pump pump
    match l.heater with
    | some n => s.commandDrive n heater
    | none => s
  | none => s

/-- Part 3 of the supply actions, made once a step (R91): the wet flag and supply begun are set, the linked
flags are cleared, the wall timer starts (here and not at step begin: R94, log 34), and the header is asked
for the step's target. -/
def State.beginSupply (k : Slot) (st : StationId) (step : RecipeStep) (s : State) : State :=
  let s := (s.updStation st fun x => { x with linked := false }).updRound k fun r =>
    { r with
      wet := true
      supplyBegun := true
      linked := false
      wall := Timer.start (seconds step.wallLimit) }
  match (s.round k).header with
  | some h => s.requestTarget h k (step.target st)
  | none => s

/-- The supply actions (R91). On the return from HOLDING the fill timer runs on from its elapsed time; on
any other entry it runs from 0.0. -/
def State.supply (k : Slot) (st : StationId) (step : RecipeStep) (onReturn : Bool) (s : State) : State :=
  let s := s.commandValves (s.supplyPositions k st step)
  let s := s.commandDrives st step.pump (step.heater.getD 0)
  let s := if (s.round k).supplyBegun then s.updRound k fun r => { r with wall := r.wall.runOn }
    else s.beginSupply k st step
  s.updRound k fun r =>
    { r with fill :=
        { mode := .running
          elapsed := if onReturn then r.fill.elapsed else 0
          limit := seconds step.fillLimit } }

/-! ### Step completion (R74, R95, R96) -/

/-- The step is complete when hold accumulated has reached the hold time and the lift progress is DONE
(R95). -/
def State.stepComplete (s : State) (k : Slot) : Bool :=
  (s.round k).state == .stepTiming && (s.stepOf k).isSome
    && s.holdTime k ≤ (s.round k).holdAcc && (s.round k).lift == .done

/-- The step after the current one, when there is one. -/
def State.nextStep (s : State) (k : Slot) : Option RecipeStep :=
  (s.recipeOf k)[(s.round k).step + 1]?

/-- The linked hold is made (R74): the completed step keeps its station, a next step exists, it names the
held station or ANY, and the held station supplies it. -/
def State.linkedHold (s : State) (k : Slot) : Bool :=
  match s.stepOf k, s.nextStep k, (s.round k).held with
  | some st, some next, some j =>
    st.keep && (next.choice.isNone || next.choice == some j) && s.supplies next j
  | _, _, _ => false

/-- Stop the wall and lift timers, queue STEP_DONE with the step index, and drop the criterion states
(R96, R118). -/
def State.finishStep (k : Slot) (s : State) : State :=
  let s := (s.closeLift k).updRound k fun r =>
    { r with wall := r.wall.stop, liftTimer := r.liftTimer.stop, criteria := [] }
  s.offer { s.event .stepDone with
    slot := some k
    value := some (.number (s.round k).step) }

/-- Set a round's record for the begin of its current step (R90). -/
def State.resetStep (k : Slot) (s : State) : State :=
  let lift := match s.stepOf k with
    | some st => s.placeLift k st
    | none => .done
  s.updRound k fun r =>
    { r with
      holdAcc := 0
      fill := Timer.off
      wall := Timer.off
      supplyBegun := false
      lift := lift
      liftTimer := Timer.off
      criteria := [] }

/-! ### ENDING (R106) -/

/-- The first half of ENDING entry (R106): the result unless one is written, the timers of the step stop, a
LIFTED phase is closed, the criterion states are dropped (R118), and a held station is given up. -/
def State.beginEnding (k : Slot) (res : RoundResult) (s : State) : State :=
  ((s.closeLift k).updRound k fun r =>
    { r.stopStep with result := r.result <|> some res, criteria := [] }).freeStation k true

/-- The second half of ENDING entry (R106, parts 3 to 5): DRAIN is requested of the header, the drain
timers start, and the causes of the ENDING dependencies are added. A round with causes enters HOLDING;
one that was in HOLDING stays there with its drain timers paused at 0.0 (R105). -/
def State.endingTail (k : Slot) (s : State) : State :=
  let s := match (s.round k).header with
    | some h => s.requestTarget h k .drain
    | none => s
  let stays := (s.round k).state == .holding
  let s := s.updRound k fun r =>
    { r with
      drainHold := Timer.start (tenths s.config.drainHold.toNat)
      drainMax := Timer.start (seconds s.config.drainMax.toNat)
      resume := if stays then some .ending else none }
  let s := s.noteSilent k (s.routeNodes k ++ s.headerNodes k)
  if stays then s.updRound k Round.pauseTimers
  else if (s.round k).causes.isEmpty then
    (s.updRound k fun r => { r with holdLimit := r.holdLimit.stop }).enter k .ending
  else s.enterHolding k .ending

/-! ### The cascade -/

/-- What is still to be done inside an event. -/
inductive Task where
  /-- The grant examination of a station (R69). -/
  | examine (st : StationId)
  /-- The begin of a round's current step (R90). -/
  | begin (k : Slot)
  /-- STEP_FILL entry (R91), on the return from HOLDING or not. -/
  | fill (k : Slot) (onReturn : Bool)
  /-- STEP_TIMING entry (R95). -/
  | timing (k : Slot)
  /-- Judge step completion (R95, R96). -/
  | judge (k : Slot)
  /-- After a release at a step's end (R75, part 4): the next step, or ENDING. -/
  | next (k : Slot)
  /-- ENDING entry (R106). -/
  | ending (k : Slot) (res : RoundResult)
  /-- The rest of ENDING entry, after the released station has been examined. -/
  | endingTail (k : Slot)
  /-- A fault cause reported to the sequencer (R108, R109). -/
  | fault (k : Slot) (cause : FaultCause) (subject : Option Subject)
  /-- The rest of FAULTED entry, after the released station has been examined. -/
  | faultTail (k : Slot) (cause : FaultCause) (subject : Option Subject)
  deriving DecidableEq, Repr

/-- The grant examination a release makes of the station that was held. -/
def examineHeld (held : Option StationId) : List Task :=
  match held with
  | some st => [.examine st]
  | none => []

/-- A grant to a waiting round (R70): parts 1 and 2, the judgement of part 3, ownership, resolution, and
the hand-over to the sequencer. -/
def State.grant (st : StationId) (k : Slot) (s : State) : State × List Task :=
  let s := (s.leaveQueues k).updStation st fun x => { x with granted := some k, linked := false }
  let s := s.updRound k fun r => { r with held := some st, linked := false }
  if s.fit k st then
    let s := s.takeOwnership k st
    match s.unresolved k st with
    | some role => (s, [.fault k .criterionUnbound (s.unboundSubject k st role)])
    | none =>
      let s := s.resolve k st
      (s.noteSilent k (s.supplyNodes k ++ s.resolvedNodes k), [.fill k false])
  else (s, [.fault k .stationUnfit (some (.station st.val))])

/-- The grant examination (R69): an empty queue leaves the station FREE. -/
def State.examine (st : StationId) (s : State) : State × List Task :=
  if (s.station st).granted.isSome then (s, [])
  else match s.bestWaiting st with
    | some k => s.grant st k
    | none => (s, [])

/-- A step begin (R90): with a linked station the roles are resolved again and STEP_FILL follows; otherwise
the round enters WAIT_STATION and its request is placed (R66). -/
def State.beginStep (k : Slot) (s : State) : State × List Task :=
  let s := s.resetStep k
  match (s.round k).linked, (s.round k).held with
  | true, some st =>
    let s := s.resolve k st
    (s.noteSilent k (s.supplyNodes k ++ s.resolvedNodes k), [.fill k false])
  | _, _ =>
    let s := s.enter k .waitStation
    match s.placement k with
    | some st => (s.joinQueue k st, [.examine st])
    | none => (s, [])

/-- STEP_FILL entry (R91, R92): HOLDING when causes stand, with the lift progress as the step begin placed it
(R90); otherwise the supply actions, and an AIR step passes at once to STEP_TIMING with its fill timer stopped
at 0.0. -/
def State.enterFill (k : Slot) (onReturn : Bool) (s : State) : State × List Task :=
  if (s.round k).causes.isEmpty then
    let s := (s.updRound k fun r =>
      { r with resume := none, holdLimit := r.holdLimit.stop }).enter k .stepFill
    match s.stepOf k, (s.round k).held with
    | some step, some st =>
      let s := s.supply k st step onReturn
      if step.medium = .air then
        (s.updRound k fun r => { r with fill := { r.fill with mode := .stopped, elapsed := 0 } },
          [.timing k])
      else (s, [])
    | _, _ => (s, [])
  else (s.putOnHold k .stepFill, [])

/-- STEP_TIMING entry (R95, R98, R101): the fill timer stops, the windows are cleared, the lift sequence
starts at its current valve, pulse 1, LIFTED, and completion is judged. -/
def State.enterTiming (k : Slot) (s : State) : State × List Task :=
  let s := (s.updRound k fun r =>
    { r.clearWindows with
      fill := r.fill.stop
      wall := r.wall.runOn
      resume := none
      holdLimit := r.holdLimit.stop }).enter k .stepTiming
  let s := match (s.round k).lift with
    | .active n _ _ => s.startLifted k n 1
    | .done => s
  (s, [.judge k])

/-- Step completion (R96): with a linked hold the next step begins at once; without one the station is
released, its queue is examined, and then the next step or ENDING follows (R75). -/
def State.judgeStep (k : Slot) (s : State) : State × List Task :=
  if s.stepComplete k then
    let held := (s.round k).held
    let linked := s.linkedHold k
    let s := s.finishStep k
    if linked then
      let s := match held with
        | some st => s.updStation st fun x => { x with linked := true }
        | none => s
      (s.updRound k fun r => { r with linked := true, step := r.step + 1 }, [.begin k])
    else (s.freeStation k true, examineHeld held ++ [.next k])
  else (s, [])

/-- After the release at a step's end (R75 part 4, R96). -/
def State.afterStep (k : Slot) (s : State) : State × List Task :=
  match s.nextStep k with
  | some _ => (s.updRound k fun r => { r with step := r.step + 1 }, [.begin k])
  | none => (s, [.ending k .completed])

/-- FAULTED entry (R108): a cause the round does not take in its state leaves the record as it is (R109).
Part 1 writes the fault record, part 2 leaves the station queue, part 3 releases a held station; a
grant judged unfit has taken no ownership and writes no release values (R77). Parts 3 and 6 release or re-command
the held station's valves and the diverters, also the one that a scan mismatch names (R176, log 40). -/
def State.reportFault (k : Slot) (cause : FaultCause) (subject : Option Subject) (s : State) :
    State × List Task :=
  if (s.round k).takes cause then
    let held := (s.round k).held
    let s := s.updRound k fun r => { r with fault := some ⟨cause, subject, r.step, s.partTime⟩ }
    let s := (s.leaveQueues k).freeStation k (cause != .stationUnfit)
    (s, examineHeld held ++ [.faultTail k cause subject])
  else (s, [])

/-- Take one task: the state after it, and the tasks that come in its place. -/
def State.take (t : Task) (s : State) : State × List Task :=
  match t with
  | .examine st => s.examine st
  | .begin k => s.beginStep k
  | .fill k onReturn => s.enterFill k onReturn
  | .timing k => s.enterTiming k
  | .judge k => s.judgeStep k
  | .next k => s.afterStep k
  | .ending k res => (s.beginEnding k res, examineHeld (s.round k).held ++ [.endingTail k])
  | .endingTail k => (s.endingTail k, [])
  | .fault k cause subject => s.reportFault k cause subject
  | .faultTail k cause subject => (s.faultTail k cause subject, [])

/-- Take tasks in order, each replaced by the tasks it names, as many as the fuel allows. A round granted on the
way is carried on as far as the same event takes it, before the tasks that stood behind the grant (log 37). The
second part of the answer is what was left undone. -/
def State.runTasks : Nat → List Task → State → State × List Task
  | 0, ts, s => (s, ts)
  | _ + 1, [], s => (s, [])
  | n + 1, t :: ts, s => State.runTasks n ((s.take t).2 ++ ts) (s.take t).1

/-- The weight of a task: how many tasks it can stand for before a step is completed or a waiting round
leaves its queue. -/
def Task.weight : Task → Nat
  | .examine _ => 1
  | .begin _ => 10
  | .fill _ _ => 8
  | .timing _ => 7
  | .judge _ => 6
  | .next _ => 4
  | .ending _ _ => 3
  | .endingTail _ => 1
  | .fault _ _ _ => 3
  | .faultTail _ _ _ => 1

/-- The weight of a list of tasks. -/
def tasksWeight (ts : List Task) : Nat := (ts.map Task.weight).sum

/-- Steps a round has still to complete. -/
def State.stepsLeft (s : State) (k : Slot) : Nat := (s.recipeOf k).length - (s.round k).step

/-- A bound on the tasks a list can lead to: every step still to complete and every round still waiting
counts (log 26). -/
def State.taskBudget (s : State) (ts : List Task) : Nat :=
  tasksWeight ts + 7 * (allSlots.map s.stepsLeft).sum + 8 * (allStations.map s.queueLength).sum

/-- Run tasks to the end of the event. -/
def State.cascade (ts : List Task) (s : State) : State := (State.runTasks (s.taskBudget ts) ts s).1

/-! ### Removal of causes (R101) -/

/-- A round in HOLDING whose last cause has been removed returns to its resume state (R101). -/
def State.returnFromHolding (k : Slot) (s : State) : State :=
  match (s.round k).resume with
  | some .setting =>
    (s.updRound k fun r =>
      { r with travel := r.travel.runOn, resume := none, holdLimit := r.holdLimit.stop }).enter k .setting
  | some .stepFill => s.cascade [.fill k true]
  | some .stepTiming => s.cascade [.timing k]
  | some .ending =>
    (s.updRound k fun r =>
      { r with
        drainHold := r.drainHold.runOn
        drainMax := r.drainMax.runOn
        resume := none
        holdLimit := r.holdLimit.stop }).enter k .ending
  | none => s

/-- Remove a hold cause from a round that holds it; a round in HOLDING whose set empties returns (R101,
R163, R165). -/
def State.loseCause (k : Slot) (holds : HoldCauses → Bool) (f : HoldCauses → HoldCauses) (s : State) :
    State :=
  if holds (s.round k).causes then
    let s := s.updRound k fun r => { r with causes := f r.causes }
    if (s.round k).state = .holding ∧ (s.round k).causes.isEmpty then s.returnFromHolding k else s
  else s

end Sys2Proof.Machine
end

