-- ==== Sys2Proof/Machine/Claims.lean ====
section
/-!
DEFINITION. The claim arbiter (chapter 3) with the sequencer's part of a claim: the start of a round, the
walk of the route claim queue, the claim grant, the two ways of giving a claim up, and breach marking.
-/

namespace Sys2Proof.Machine

open Sys2Proof

/-! ### The claim grant (R50, R87) -/

/-- The positions of a route's setting list (R87). -/
def Route.positions (r : Route) : List (Nat × Position) :=
  r.setting.map fun i => (i.valve, if i.opened then .open else .close)

/-- The valves a claim grant takes (R50): the setting valves and the diverter valves of the header. -/
def State.claimValves (s : State) (r : Route) : List Nat :=
  r.setting.map (·.valve) ++ s.routeDiverters r

/-- The arbiter's part of a claim grant (R50): the round leaves the queue, the segments become CLAIMED, the
setting and diverter valves are owned, and the header is the round's. -/
def State.takeClaim (k : Slot) (r : Route) (s : State) : State :=
  let h := s.routeHeader r
  let valves := s.claimValves r
  let s := { s with claimQueue := s.claimQueue.filter (· != k) }
  let s := s.setSegStates r.segments (.claimed k)
  let s := valves.foldl (fun s n => s.ownValve (some k) n) s
  s.updRound k fun x => { x with header := h }

/-- A claim grant (R50, R87): the setting positions are commanded, the header is switched to DRAIN, the
causes of the SETTING dependencies are added and the travel timer starts. The round enters SETTING, or
HOLDING when causes stand. A route with no header faults with HEADER_LOST on its entry to SETTING. -/
def State.grantClaim (k : Slot) (s : State) : State :=
  match s.routeOf k with
  | none => s
  | some r =>
    let s := (s.takeClaim k r).commandValves r.positions
    match (s.round k).header with
    | none => (s.enter k .setting).cascade [.fault k .headerLost (r.lastSegment.map .segment)]
    | some h =>
      let s := s.switch h .drain
      let s := s.noteSilent k (s.routeNodes k ++ s.headerNodes k)
      let s := s.updRound k fun x => { x with travel := Timer.start (tenths r.travel) }
      if (s.round k).causes.isEmpty then s.enter k .setting else s.enterHolding k .setting

/-! ### The walk (R47, R48) -/

/-- A waiting round is granted when its route is claimable and conflicts with no older round that the walk
has passed without granting it (R48). -/
def State.grantable (s : State) (k : Slot) (older : List Slot) : Bool :=
  match s.routeOf k with
  | some r => s.claimable r && older.all fun j => !(s.routeOf j).any r.conflicts
  | none => false

/-- The walk over some waiting rounds, after the older ones it has passed without granting (R48). -/
def State.walkFrom : List Slot → List Slot → State → State
  | [], _, s => s
  | k :: t, older, s =>
    if s.grantable k older then State.walkFrom t older (s.grantClaim k)
    else State.walkFrom t (older ++ [k]) s

/-- The examination of the route claim queue (R47). -/
def State.walk (s : State) : State := State.walkFrom s.claimQueue [] s

/-! ### The start of a round (R84) -/

/-- A ROUND_START taken into an IDLE slot (R84): the record is filled, the silent nodes of the route's
valves are noted, and the round joins the back of the route claim queue, which is walked. -/
def State.startRound (k : Slot) (recipe route : Nat) (grade : RoundClass) (s : State) : State :=
  let s := s.updRound k fun r =>
    { r with
      given := grade
      effective := grade
      recipe := recipe
      route := route
      step := 0
      startTime := some s.partTime }
  let s := s.noteSilent k (s.routeNodes k)
  let s := { s with claimQueue := s.claimQueue ++ [k] }
  (s.enter k .waitRoute).walk

/-! ### Giving up the claim (R52, R53, R140) -/

/-- Clear the route owner of every valve that names a round. -/
def State.clearOwners (k : Slot) (s : State) : State :=
  let free := fun (v : ValveEntry) => if v.owner = some k then { v with owner := none } else v
  { s with valves := Table.each (fun _ v => free v) s.valves }

/-- Give up a claim (R52, R53): the header is released before the owners are cleared (R140), the route's
segments take a state, and the owners are cleared. -/
def State.giveUpClaim (k : Slot) (st : SegmentState) (s : State) : State :=
  let s := match (s.round k).header with
    | some h => s.releaseHeader h
    | none => s
  let s := match s.routeOf k with
    | some r => s.setSegStates r.segments st
    | none => s
  (s.clearOwners k).updRound k fun r => { r with header := none }

/-- Enter DONE: the drain timers stop, the end time is written, and no cause is held (R86, R107). -/
def State.enterDone (k : Slot) (s : State) : State :=
  (s.updRound k fun r =>
    { r with
      drainHold := r.drainHold.stop
      drainMax := r.drainMax.stop
      holdLimit := r.holdLimit.stop
      endTime := some s.partTime
      causes := HoldCauses.none
      resume := none }).enter k .done

/-- The drain hold elapses in ENDING (R107, R52): the claim is given up, the round enters DONE, and the
route claim queue is walked. -/
def State.finishRound (k : Slot) (s : State) : State :=
  ((s.giveUpClaim k .free).enterDone k).walk

/-- RELEASE of a round FAULTED with cause SEGREGATION_BREACH (R53, R110): the segments become SUSPECT with
cause BREACH, and no walk follows. -/
def State.releaseBreach (k : Slot) (s : State) : State :=
  ((s.giveUpClaim k (.suspect .breach)).updRound k fun r =>
    { r with result := some .faultReleased }).enterDone k

/-- ABORT of a round in WAIT_ROUTE (R105): it leaves the queue, the queue is walked, and the round enters
DONE with result ABORTED. -/
def State.abandonWait (k : Slot) (s : State) : State :=
  let s := State.walk { s with claimQueue := s.claimQueue.filter (· != k) }
  (s.updRound k fun r => { r with result := some .aborted }).enterDone k

/-! ### Breach marking (R61) -/

/-- A breach marking of the segment a scan found PRODUCT, taken by the state it holds now (R61). -/
def State.markBreach (n : Nat) (s : State) : State :=
  match s.segState n with
  | .product => (s.setSegState n (.suspect .breach)).walk
  | .free => s.setSegState n (.suspect .breach)
  | _ => s

end Sys2Proof.Machine
end

