-- ==== Sys2Proof/Machine/Tables.lean ====
section
/-!
DEFINITION. Writing entries (chapters 1 and 2): the in-use conditions, the content checks of the nine tables
and of the configuration record, and the dynamic fields a taken write leaves.
-/

namespace Sys2Proof.Machine

open Sys2Proof

/-- A failed content check (R3): its code and its subject index. -/
structure ContentFailure where
  code : CheckCode
  subject : Nat
  deriving DecidableEq, Repr

/-- Fail a content check with a subject unless a condition holds. -/
def demand (ok : Bool) (code : CheckCode) (subject : Nat) : Option ContentFailure :=
  if ok then none else some ⟨code, subject⟩

/-- Fail a content check with the subject found. -/
def refuted (code : CheckCode) (found : Option Nat) : Option ContentFailure :=
  found.map fun n => ⟨code, n⟩

/-- The first check of a list that fails. -/
def firstFailure (l : List (Option ContentFailure)) : Option ContentFailure := l.findSome? id

/-- A value lies in a range. -/
def within (low high n : Nat) : Bool := low ≤ n && n ≤ high

/-- A one-octet index is absent or below a bound. -/
def indexFits (o : Octet) (bound : Nat) : Bool := o == 0xFF || o.toNat < bound

/-- A two-octet index is absent or below a bound. -/
def indexFits16 (w : Word16) (bound : Nat) : Bool := w == 0xFFFF || w.toNat < bound

/-- The first element of a list that stands earlier in it too. -/
def repeatedFrom (seen : List Nat) : List Nat → Option Nat
  | [] => none
  | n :: t => if seen.contains n then some n else repeatedFrom (n :: seen) t

/-- The first repeated element of a list. -/
def repeated (l : List Nat) : Option Nat := repeatedFrom [] l

/-- A station table index. -/
def stationAt (n : Nat) : Option StationId := allStations.find? (·.val == n)

/-- A return header index. -/
def headerAt (n : Nat) : Option HeaderId := allHeaders.find? (·.val == n)

/-! ### Who refers to an entry (R4) -/

/-- The lowest valve on a node. -/
def State.valveOnNode (s : State) (a : Octet) : Option Nat := Table.first (fun _ v => v.node == a) s.valves

/-- The lowest drive on a node. -/
def State.driveOnNode (s : State) (a : Octet) : Option Nat := Table.first (fun _ d => d.node == a) s.drives

/-- The lowest point on a node. -/
def State.pointOnNode (s : State) (a : Octet) : Option Nat := Table.first (fun _ p => p.node == a) s.points

/-- The lowest valve with a segment on either side. -/
def State.valveOnSegment (s : State) (n : Nat) : Option Nat :=
  Table.first (fun _ v => v.sideA == some n || v.sideB == some n) s.valves

/-- The lowest header whose header segment is a segment. -/
def State.headerOnSegment (s : State) (n : Nat) : Option Nat :=
  (allHeaders.find? fun h => (s.header h).load.any (·.segment == n)).map Fin.val

/-- The lowest station with a medium valve. -/
def State.stationOnValve (s : State) (n : Nat) : Option Nat :=
  (allStations.find? fun k => (s.station k).load.any (·.mediumValves.contains n)).map Fin.val

/-- The lowest header with a diverter valve. -/
def State.headerOnValve (s : State) (n : Nat) : Option Nat :=
  (allHeaders.find? fun h => (s.header h).load.any (·.diverters.contains n)).map Fin.val

/-- The lowest station with a drive. -/
def State.stationOnDrive (s : State) (n : Nat) : Option Nat :=
  (allStations.find? fun k => (s.station k).load.any (·.drives.contains n)).map Fin.val

/-- The lowest segment with a flow point. -/
def State.segmentOnPoint (s : State) (n : Nat) : Option Nat :=
  Table.first (fun _ e => e.flow == some n) s.segments

/-- The lowest station with a supply temperature point. -/
def State.stationOnPoint (s : State) (n : Nat) : Option Nat :=
  (allStations.find? fun k => (s.station k).load.any (·.temp == some n)).map Fin.val

/-- The points of a header. -/
def HeaderLoad.points (l : HeaderLoad) : List Nat := l.cond.toList ++ l.temp.toList ++ [l.flow]

/-- The lowest header with a point. -/
def State.headerOnPoint (s : State) (n : Nat) : Option Nat :=
  (allHeaders.find? fun h => (s.header h).load.any (·.points.contains n)).map Fin.val

/-- The USED_BY checks of a node map entry's address (R4, R9). -/
def State.nodeUsed (s : State) (a : Octet) : Option ContentFailure :=
  firstFailure
    [ refuted .usedByValve (s.valveOnNode a)
    , refuted .usedByDrive (s.driveOnNode a)
    , refuted .usedByPoint (s.pointOnNode a) ]

/-- The USED_BY checks of a point (R4, R19). -/
def State.pointUsed (s : State) (n : Nat) : Option ContentFailure :=
  firstFailure
    [ refuted .usedBySegment (s.segmentOnPoint n)
    , refuted .usedByStation (s.stationOnPoint n)
    , refuted .usedByHeader (s.headerOnPoint n) ]

/-! ### References out of an entry (R4) -/

/-- A link address names a full node map entry of a kind (R14, R17, R19). -/
def State.nodeNamed (s : State) (a : Octet) (kind : NodeKind) : Option ContentFailure :=
  match s.nodeIndex a with
  | none => some ⟨.noNode, a.toNat⟩
  | some i => demand ((Table.entry s.nodes i).any (·.kind == kind)) .nodeKind i

/-- An index names a full point of a kind. -/
def State.pointNamed (s : State) (n : Nat) (kind : PointKind) : Option ContentFailure :=
  match Table.entry s.points n with
  | none => some ⟨.noPoint, n⟩
  | some p => demand (p.kind == kind) .pointKind n

/-- An optional index, when present, names a full point of a kind. -/
def State.optPointNamed (s : State) (o : Octet) (kind : PointKind) : Option ContentFailure :=
  (indexOf o).bind fun n => s.pointNamed n kind

/-- An index names a full drive of a kind. -/
def State.driveNamed (s : State) (n : Nat) (kind : DriveKind) : Option ContentFailure :=
  match Table.entry s.drives n with
  | none => some ⟨.noDrive, n⟩
  | some d => demand (d.kind == kind) .driveKind n

/-- Each valve of a list names a full valve entry. -/
def State.valvesNamed (s : State) (l : List Nat) : Option ContentFailure :=
  refuted .noValve (l.find? fun n => !s.valveFull n)

/-- A present side names a full segment entry (R14). -/
def State.sideNamed (s : State) (o : Octet) : Option ContentFailure :=
  (indexOf o).bind fun n => demand (s.segmentFull n) .noSegment n

/-- A field node's address lies in 1 to 239 (R9; log 16). -/
def nodeAddressFits (a : Octet) : Bool := within 1 239 a.toNat

/-! ### Content checks of the topology tables -/

/-- R9. -/
def State.nodeChecks (s : State) (index : Nat) (f : NodeFields) : List (Option ContentFailure) :=
  [ demand (nodeAddressFits f.address) .range 1
  , demand (NodeKind.ofCode f.kind).isSome .range 2
  , refuted .duplicate (Table.first (fun i e => i != index && e.address == f.address) s.nodes)
  , (Table.entry s.nodes index).bind fun e =>
      if e.address = f.address ∧ NodeKind.ofCode f.kind = some e.kind then none
      else s.nodeUsed e.address ]

/-- The header field of a segment is present for RETURN, absent otherwise, and in 0 to 3 (R12). -/
def segmentHeaderFits (f : SegmentFields) : Bool :=
  if SegmentKind.ofCode f.kind = some .ret then f.header.toNat < 4 else f.header == 0xFF

/-- R12. -/
def State.segmentChecks (s : State) (index : Nat) (f : SegmentFields) : List (Option ContentFailure) :=
  [ demand (SegmentKind.ofCode f.kind).isSome .range 1
  , demand (segmentHeaderFits f) .range 2
  , if SegmentKind.ofCode f.kind = some .ret then
      refuted .duplicate (Table.first (fun i e =>
        i != index && e.kind == .ret && e.header.map Fin.val == some f.header.toNat) s.segments)
    else none
  , s.optPointNamed f.flow .flow
  , (Table.entry s.segments index).bind fun e =>
      if SegmentKind.ofCode f.kind = some e.kind ∧ e.header.map Fin.val = indexOf f.header then none
      else refuted .usedByHeader (s.headerOnSegment index) ]

/-- R14. Side A is judged before side B (log 18). -/
def State.valveChecks (s : State) (index : Nat) (f : ValveFields) : List (Option ContentFailure) :=
  [ demand (nodeAddressFits f.node) .range 1
  , demand (f.slot.toNat < 16) .range 2
  , demand (ValveKind.ofCode f.kind).isSome .range 3
  , demand (indexFits f.sideA 192) .range 4
  , demand (indexFits f.sideB 192) .range 5
  , s.nodeNamed f.node .valveCluster
  , refuted .duplicate (Table.first (fun i v =>
      i != index && v.node == f.node && v.slot == f.slot.toNat) s.valves)
  , s.sideNamed f.sideA
  , s.sideNamed f.sideB
  , (indexOf f.sideA).bind fun n => demand (indexOf f.sideB != some n) .sameSegment n ]

/-- The greatest value of a drive kind (R17): percent, or tenths of a degree. -/
def DriveKind.top : DriveKind → Nat
  | .pump => 100
  | .heater => 950

/-- The greatest value of a drive entry's kind; 0 when the code names none. -/
def driveTop (code : Octet) : Nat := ((DriveKind.ofCode code).map DriveKind.top).getD 0

/-- R17. -/
def State.driveChecks (s : State) (index : Nat) (f : DriveFields) : List (Option ContentFailure) :=
  [ demand (nodeAddressFits f.node) .range 1
  , demand (f.channel.toNat < 4) .range 2
  , demand (DriveKind.ofCode f.kind).isSome .range 3
  , demand (f.minimum.toNat ≤ driveTop f.kind) .range 4
  , demand (f.maximum.toNat ≤ driveTop f.kind && f.minimum.toNat ≤ f.maximum.toNat) .range 5
  , s.nodeNamed f.node .drive
  , refuted .duplicate (Table.first (fun i d =>
      i != index && d.node == f.node && d.channel == f.channel.toNat) s.drives)
  , (Table.entry s.drives index).bind fun e =>
      if DriveKind.ofCode f.kind = some e.kind then none
      else refuted .usedByStation (s.stationOnDrive index) ]

/-- R19. -/
def State.pointChecks (s : State) (index : Nat) (f : PointFields) : List (Option ContentFailure) :=
  [ demand (nodeAddressFits f.node) .range 1
  , demand (f.channel.toNat < 8) .range 2
  , demand (PointKind.ofCode f.kind).isSome .range 3
  , s.nodeNamed f.node .instrument
  , refuted .duplicate (Table.first (fun i p =>
      i != index && p.node == f.node && p.channel == f.channel.toNat) s.points)
  , (Table.entry s.points index).bind fun e =>
      if PointKind.ofCode f.kind = some e.kind then none else s.pointUsed index ]

/-- The medium valve fields in position order. -/
def stationValveFields (f : StationFields) : List Word16 :=
  [f.rinse, f.recovered, f.caustic, f.acid, f.sanitiser, f.air]

/-- RANGE checks of optional valve fields at consecutive positions. -/
def valveFieldRanges (position : Nat) : List Word16 → List (Option ContentFailure)
  | [] => []
  | w :: t => demand (indexFits16 w 512) .range position :: valveFieldRanges (position + 1) t

/-- A valve serves another full station, or a full header (R20 check 5). -/
def State.mediumTaken (s : State) (index n : Nat) : Bool :=
  (allStations.any fun k => k.val != index && (s.station k).load.any (·.mediumValves.contains n))
    || s.isDiverter n

/-- A drive serves another full station (R20 check 8). -/
def State.driveTaken (s : State) (index n : Nat) : Bool :=
  allStations.any fun k => k.val != index && (s.station k).load.any (·.drives.contains n)

/-- R20. Where several fields fail one check, the first in position order is its subject (log 18). -/
def State.stationChecks (s : State) (index : Nat) (f : StationFields) : List (Option ContentFailure) :=
  let valves := (stationValveFields f).filterMap indexOf16
  let drives := f.pump.toNat :: (indexOf f.heater).toList
  valveFieldRanges 1 (stationValveFields f) ++
  [ demand (f.pump.toNat < 32) .range 7
  , demand (indexFits f.heater 32) .range 8
  , demand (indexFits f.temp 128) .range 9
  , demand (!valves.isEmpty) .noMedium 0
  , s.valvesNamed valves
  , refuted .duplicate (repeated valves)
  , refuted .doubleValve (valves.find? (s.mediumTaken index))
  , s.driveNamed f.pump.toNat .pump
  , (indexOf f.heater).bind fun n => s.driveNamed n .heater
  , refuted .doubleDrive (drives.find? (s.driveTaken index))
  , s.optPointNamed f.temp .temp ]

/-- The optional diverter valve fields, positions 3 to 7. -/
def headerValveFields (f : HeaderFields) : List Word16 :=
  [f.caustic, f.acid, f.recirc0, f.recirc1, f.recirc2]

/-- A valve serves another full header, or a full station (R22 check 6). -/
def State.diverterTaken (s : State) (index n : Nat) : Bool :=
  (allHeaders.any fun h => h.val != index && (s.header h).load.any (·.diverters.contains n))
    || s.isMedium n

/-- R22. Where several fields fail one check, the first in position order is its subject: R22 says so for check 4,
and log 18 for checks 5 to 7. -/
def State.headerChecks (s : State) (index : Nat) (f : HeaderFields) : List (Option ContentFailure) :=
  let valves := (f.drain :: headerValveFields f).filterMap indexOf16
  let segment := Table.entry s.segments f.segment.toNat
  [ demand (f.segment.toNat < 192) .range 1
  , demand (f.drain.toNat < 512) .range 2 ] ++ valveFieldRanges 3 (headerValveFields f) ++
  [ demand (indexFits f.cond 128) .range 8
  , demand (indexFits f.temp 128) .range 9
  , demand (f.flow.toNat < 128) .range 10
  , demand segment.isSome .noSegment f.segment.toNat
  , demand (segment.any (·.kind == .ret)) .segmentKind f.segment.toNat
  , demand (segment.any fun e => e.header.map Fin.val == some index) .headerMismatch f.segment.toNat
  , s.valvesNamed valves
  , refuted .duplicate (repeated valves)
  , refuted .doubleValve (valves.find? (s.diverterTaken index))
  , s.optPointNamed f.cond .cond
  , s.optPointNamed f.temp .temp
  , s.pointNamed f.flow.toNat .flow ]

/-! ### Content checks of routes and recipes -/

/-- The valve index of a list element: its low nine bits (R208). -/
def elementValve (w : Word16) : Nat := w.toNat % 512

/-- The code of a list element: its top bit. -/
def elementCode (w : Word16) : Bool := w.getLsbD 15

/-- The bits between the index and the code are zero (R208). -/
def elementFits (w : Word16) : Bool := w.toNat / 512 % 64 == 0

/-- R25. -/
def routeContentChecks (f : RouteFields) : List (Option ContentFailure) :=
  let segments := f.segments.map (·.toNat)
  let setting := f.setting.map elementValve
  let boundary := f.boundary.map elementValve
  let stations := f.stations.map (·.station.toNat)
  let entries := f.stations.map (·.valve.toNat)
  [ demand (within 1 24 f.segments.length) .range 1
  , demand (within 1 40 f.setting.length) .range 2
  , demand (within 0 32 f.boundary.length) .range 3
  , demand (within 1 3 f.stations.length) .range 4
  , demand (segments.all (· < 192)) .range 1
  , demand (f.setting.all elementFits) .range 2
  , demand (f.boundary.all elementFits) .range 3
  , demand (f.stations.all fun p => p.station.toNat < 3 && p.valve.toNat < 512) .range 4
  , demand (within 1 600 f.travel.toNat) .range 5
  , demand (within 0 60000 f.fillFlow.toNat) .range 6
  , demand (within 1 3600 f.holdLimit.toNat) .range 7
  , refuted .duplicate (repeated segments)
  , refuted .duplicate (repeated setting)
  , refuted .duplicate (repeated boundary)
  , refuted .duplicate (repeated stations)
  , refuted .duplicate (repeated entries)
  , refuted .overlap (setting.find? boundary.contains)
  , refuted .overlap (entries.find? fun n => setting.contains n || boundary.contains n) ]

/-- The greatest limit of a role (R30). -/
def Role.top : Role → Nat
  | .supplyTemp => 1500
  | .returnTemp => 1500
  | .returnCond => 20000
  | .returnFlow => 60000

/-- The three criterion slots, with the position of the first field of each (R27). -/
def criterionSlots (f : StepFields) : List (Nat × CriterionFields) :=
  [(13, f.crit1), (18, f.crit2), (23, f.crit3)].take f.count.toNat

/-- RANGE checks of a criterion slot whose role stands at a position (R30). -/
def criterionRanges (i position : Nat) (f : CriterionFields) : List (Option ContentFailure) :=
  [ demand (Role.ofCode f.role).isSome .range (stepSubject i position)
  , demand (Comparison.ofCode f.comparison).isSome .range (stepSubject i (position + 1))
  , demand (f.limit.toNat ≤ ((Role.ofCode f.role).map Role.top).getD 0) .range
      (stepSubject i (position + 2))
  , demand (within 1 64 f.window.toNat) .range (stepSubject i (position + 3))
  , demand (within 1 f.window.toNat f.required.toNat) .range (stepSubject i (position + 4)) ]

/-- A later criterion with the role and comparison of an earlier one (R28, check d). -/
def criteriaRepeat (i : Nat) (seen : List (Octet × Octet)) :
    List (Nat × CriterionFields) → Option ContentFailure
  | [] => none
  | (position, f) :: t =>
    if seen.contains (f.role, f.comparison) then some ⟨.duplicate, stepSubject i position⟩
    else criteriaRepeat i ((f.role, f.comparison) :: seen) t

/-- The disposition suits the medium (R28, check c). -/
def dispositionSuits (medium disposition : Octet) : Bool :=
  match Medium.ofCode medium, Disposition.ofCode disposition with
  | some m, some .recover => m.chemical
  | some m, some .recirculate => m != .air
  | _, _ => true

/-- Checks a to d of one step (R28). -/
def stepContentChecks (i : Nat) (f : StepFields) : List (Option ContentFailure) :=
  let sub := stepSubject i
  [ demand (Medium.ofCode f.medium).isSome .range (sub 1)
  , demand (f.choice.toNat ≤ 3) .range (sub 2)
  , demand (f.keep.toNat ≤ 1) .range (sub 3)
  , demand (f.pump.toNat ≤ 100) .range (sub 4)
  , demand (f.heater == 0xFFFF || f.heater.toNat ≤ 950) .range (sub 5)
  , demand (within 1 3600 f.fillLimit.toNat) .range (sub 6)
  , demand (f.holdTime.toNat ≤ 6553) .range (sub 7)
  , demand (within 1 6553 f.wallLimit.toNat) .range (sub 8)
  , demand (Disposition.ofCode f.disposition).isSome .range (sub 9)
  , demand (f.pulses.toNat ≤ 15) .range (sub 10)
  , demand (within 1 50 f.liftLength.toNat) .range (sub 11)
  , demand (f.count.toNat ≤ 3) .range (sub 12) ]
  ++ (criterionSlots f).flatMap (fun p => criterionRanges i p.1 p.2) ++
  [ demand (f.holdTime.toNat ≤ f.wallLimit.toNat) .wallShort (sub 8)
  , demand (dispositionSuits f.medium f.disposition) .mediumDisposition (sub 9)
  , criteriaRepeat i [] (criterionSlots f) ]

/-- The checks of every step, in index order. -/
def stepsContentChecks : Nat → List StepFields → List (Option ContentFailure)
  | _, [] => []
  | i, f :: t => stepContentChecks i f ++ stepsContentChecks (i + 1) t

/-- R28. -/
def recipeContentChecks (steps : List StepFields) : List (Option ContentFailure) :=
  demand (within 1 12 steps.length) .range 0 :: stepsContentChecks 0 steps

/-- The checks of a first part (R186): the step count in 7 to 12, and steps 0 to 5 alone. -/
def firstPartChecks (count : Octet) (steps : List StepFields) : List (Option ContentFailure) :=
  demand (within 7 12 count.toNat) .range 0 :: stepsContentChecks 0 steps

/-- Judgement 4 of R2 for an entry in full form. -/
def State.contentChecks (s : State) (index : Nat) : Content → List (Option ContentFailure)
  | .nodeMap f => s.nodeChecks index f
  | .segment f => s.segmentChecks index f
  | .valve f => s.valveChecks index f
  | .drive f => s.driveChecks index f
  | .point f => s.pointChecks index f
  | .station f => s.stationChecks index f
  | .header f => s.headerChecks index f
  | .route f => routeContentChecks f
  | .recipe steps => recipeContentChecks steps

/-- Judgement 4 of R2 for an entry in empty form: the reference checks of R4. -/
def State.emptyChecks (s : State) (t : TableId) (index : Nat) : List (Option ContentFailure) :=
  match t with
  | .nodeMap => [(Table.entry s.nodes index).bind fun e => s.nodeUsed e.address]
  | .segment =>
    [ refuted .usedByValve (s.valveOnSegment index), refuted .usedByHeader (s.headerOnSegment index) ]
  | .valve =>
    [ refuted .usedByStation (s.stationOnValve index), refuted .usedByHeader (s.headerOnValve index) ]
  | .drive => [refuted .usedByStation (s.stationOnDrive index)]
  | .point => [s.pointUsed index]
  | _ => []

/-! ### In-use conditions (judgement 3 of R2) -/

/-- A side as written in a request is neither absent nor FREE (R16). -/
def State.writtenSideBusy (s : State) (o : Octet) : Bool := s.sideBusy (indexOf o)

/-- R16. -/
def State.valveInUse (s : State) (index : Nat) (written : Option ValveFields) : Bool :=
  (Table.entry s.valves index).any (fun v => v.owner.isSome || s.sideBusy v.sideA || s.sideBusy v.sideB)
    || written.any fun f => s.writtenSideBusy f.sideA || s.writtenSideBusy f.sideB

/-- A station that names the drive is GRANTED (R17). -/
def State.driveInUse (s : State) (index : Nat) : Bool :=
  allStations.any fun k =>
    (s.station k).granted.isSome && (s.station k).load.any (·.drives.contains index)

/-- A round of a slot could resolve a role to a point (R19). -/
def State.couldResolve (s : State) (index : Nat) (k : Slot) : Bool :=
  match s.routeOf k with
  | some r =>
    ((s.routeHeader r).bind fun h => (s.header h).load).any (·.points.contains index)
      || r.stations.any fun i => (s.station i.station).load.any (·.temp == some index)
  | none => false

/-- R19. -/
def State.pointInUse (s : State) (index : Nat) : Bool :=
  allSlots.any fun k => s.active k && (s.round k).state != .waitRoute && s.couldResolve index k

/-- R21. -/
def State.stationInUse (s : State) (index : Nat) (written : Option StationFields) : Bool :=
  (stationAt index).any (fun k => (s.station k).granted.isSome || !(s.station k).queue.isEmpty)
    || written.any fun f => ((stationValveFields f).filterMap indexOf16).any s.mediumBarred

/-- R23. -/
def State.headerInUse (s : State) (index : Nat) : Bool :=
  (headerAt index).any fun h => (s.headerOwner h).isSome

/-- A round outside IDLE and DONE names the route (R26). -/
def State.routeInUse (s : State) (index : Nat) : Bool :=
  allSlots.any fun k => s.active k && (s.round k).route == index

/-- A round outside IDLE and DONE names the recipe (R26). -/
def State.recipeInUse (s : State) (index : Nat) : Bool :=
  allSlots.any fun k => s.active k && (s.round k).recipe == index

/-- ROUNDS_ACTIVE with the lowest slot outside IDLE and DONE as subject (R8, R11, R184). -/
def State.roundsActive (s : State) : Option Reply :=
  s.lowestActive.map fun k => ⟨.roundsActive, none, some k.val, []⟩

/-- IN_USE, with no detail. -/
def inUseWhen (busy : Bool) : Option Reply := if busy then some (Reply.refuse .inUse) else none

/-- Judgement 3 of R2: the entry's present content permits a rewrite. `written` is absent for an empty
form. -/
def State.inUse (s : State) (t : TableId) (index : Nat) (written : Option Content) : Option Reply :=
  match t with
  | .nodeMap => s.roundsActive
  | .segment => inUseWhen (s.segState index != .free)
  | .valve =>
    inUseWhen (s.valveInUse index (match written with | some (.valve f) => some f | _ => none))
  | .drive => inUseWhen (s.driveInUse index)
  | .point => inUseWhen (s.pointInUse index)
  | .station =>
    inUseWhen (s.stationInUse index (match written with | some (.station f) => some f | _ => none))
  | .header => inUseWhen (s.headerInUse index)
  | .route => inUseWhen (s.routeInUse index)
  | .recipe => inUseWhen (s.recipeInUse index)

/-! ### Entries as written, with the dynamic fields of a taken write -/

/-- R10. -/
def nodeEntryOf (f : NodeFields) (old : Option NodeEntry) : NodeEntry :=
  let kind := (NodeKind.ofCode f.kind).getD .valveCluster
  let fresh : NodeEntry := ⟨f.address, kind, none, true, Timer.off⟩
  match old with
  | some e => if e.address = f.address ∧ e.kind = kind then e else fresh
  | none => fresh

/-- R13: a taken write leaves the segment FREE. -/
def segmentEntryOf (f : SegmentFields) : SegmentEntry where
  kind := (SegmentKind.ofCode f.kind).getD .line
  header := (indexOf f.header).bind headerAt
  flow := indexOf f.flow
  state := .free

/-- R15. -/
def valveEntryOf (f : ValveFields) (old : Option ValveEntry) : ValveEntry :=
  let fresh : ValveEntry :=
    { node := f.node, slot := f.slot.toNat, kind := (ValveKind.ofCode f.kind).getD .singleSeat
      sideA := indexOf f.sideA, sideB := indexOf f.sideB, owner := none, commanded := none
      requested := none, feedback := .unknown, changed := none, misses := 0 }
  match old with
  | some e =>
    if e.node = f.node ∧ e.slot = f.slot.toNat then
      { fresh with
        commanded := e.commanded
        requested := e.requested
        feedback := e.feedback
        changed := e.changed
        misses := e.misses }
    else fresh
  | none => fresh

/-- R18: a write that keeps node and channel but changes the kind drops the values. -/
def driveEntryOf (f : DriveFields) (old : Option DriveEntry) : DriveEntry :=
  let kind := (DriveKind.ofCode f.kind).getD .pump
  let fresh : DriveEntry :=
    { node := f.node, channel := f.channel.toNat, kind := kind, minimum := f.minimum.toNat
      maximum := f.maximum.toNat, owner := none, commanded := none, requested := none
      status := .unknown, value := none }
  match old with
  | some e =>
    if e.node = f.node ∧ e.channel = f.channel.toNat then
      if e.kind = kind then
        { fresh with
          commanded := e.commanded
          requested := e.requested
          status := e.status
          value := e.value }
      else { fresh with status := e.status }
    else fresh
  | none => fresh

/-- R19. -/
def pointEntryOf (f : PointFields) (old : Option PointEntry) : PointEntry :=
  let kind := (PointKind.ofCode f.kind).getD .cond
  let fresh : PointEntry := ⟨f.node, f.channel.toNat, kind, none, .none, none⟩
  match old with
  | some e => if e.node = f.node ∧ e.channel = f.channel.toNat ∧ e.kind = kind then e else fresh
  | none => fresh

/-- R20. -/
def stationLoadOf (f : StationFields) : StationLoad where
  rinse := indexOf16 f.rinse
  recovered := indexOf16 f.recovered
  caustic := indexOf16 f.caustic
  acid := indexOf16 f.acid
  sanitiser := indexOf16 f.sanitiser
  air := indexOf16 f.air
  pump := f.pump.toNat
  heater := indexOf f.heater
  temp := indexOf f.temp

/-- R22. -/
def headerLoadFor (f : HeaderFields) : HeaderLoad where
  segment := f.segment.toNat
  drain := f.drain.toNat
  caustic := indexOf16 f.caustic
  acid := indexOf16 f.acid
  recirc0 := indexOf16 f.recirc0
  recirc1 := indexOf16 f.recirc1
  recirc2 := indexOf16 f.recirc2
  cond := indexOf f.cond
  temp := indexOf f.temp
  flow := f.flow.toNat

/-- A station entry of a route. -/
def stationItemOf (p : StationPair) : Option StationItem :=
  (stationAt p.station.toNat).map fun k => ⟨k, p.valve.toNat⟩

/-- R24, with the element codes of R208. -/
def routeEntryOf (f : RouteFields) : Route where
  segments := f.segments.map (·.toNat)
  setting := f.setting.map fun w => ⟨elementValve w, elementCode w⟩
  boundary := f.boundary.map fun w => ⟨elementValve w, if elementCode w then .b else .a⟩
  stations := f.stations.filterMap stationItemOf
  travel := f.travel.toNat
  fillFlow := f.fillFlow.toNat
  holdLimit := f.holdLimit.toNat

/-- R30. -/
def criterionEntryOf (f : CriterionFields) : Criterion where
  role := (Role.ofCode f.role).getD .supplyTemp
  comparison := (Comparison.ofCode f.comparison).getD .atLeast
  limit := f.limit.toNat
  window := f.window.toNat
  required := f.required.toNat

/-- R27; the pump speed of an AIR step is stored as 0 (R29). Keep station is read as a flag, 01h for yes (log 39). -/
def stepEntryOf (f : StepFields) : RecipeStep where
  medium := (Medium.ofCode f.medium).getD .rinse
  choice := stationAt f.choice.toNat
  keep := f.keep == 0x01
  pump := if Medium.ofCode f.medium = some .air then 0 else f.pump.toNat
  heater := indexOf16 f.heater
  fillLimit := f.fillLimit.toNat
  holdTime := f.holdTime.toNat
  wallLimit := f.wallLimit.toNat
  disposition := (Disposition.ofCode f.disposition).getD .drain
  pulses := f.pulses.toNat
  liftLength := f.liftLength.toNat
  criteria := (criterionSlots f).map fun p => criterionEntryOf p.2

/-- Write a full entry, with the dynamic fields of a taken write (R10, R13, R15, R18, R19, R21, R23). -/
def State.putContent (index : Nat) (content : Content) (s : State) : State :=
  match content with
  | .nodeMap f => { s with nodes := Table.put index (nodeEntryOf f (Table.entry s.nodes index)) s.nodes }
  | .segment f => { s with segments := Table.put index (segmentEntryOf f) s.segments }
  | .valve f => { s with valves := Table.put index (valveEntryOf f (Table.entry s.valves index)) s.valves }
  | .drive f => { s with drives := Table.put index (driveEntryOf f (Table.entry s.drives index)) s.drives }
  | .point f => { s with points := Table.put index (pointEntryOf f (Table.entry s.points index)) s.points }
  | .station f =>
    match stationAt index with
    | some k => s.updStation k fun _ => { Station.empty with load := some (stationLoadOf f) }
    | none => s
  | .header f =>
    match headerAt index with
    | some h => s.updHeader h fun _ => { Header.empty with load := some (headerLoadFor f) }
    | none => s
  | .route f => { s with routes := Table.put index (routeEntryOf f) s.routes }
  | .recipe steps => { s with recipes := Table.put index (steps.map stepEntryOf) s.recipes }

/-- Write an empty entry. -/
def State.removeEntry (t : TableId) (index : Nat) (s : State) : State :=
  match t with
  | .nodeMap => { s with nodes := Table.remove index s.nodes }
  | .segment => { s with segments := Table.remove index s.segments }
  | .valve => { s with valves := Table.remove index s.valves }
  | .drive => { s with drives := Table.remove index s.drives }
  | .point => { s with points := Table.remove index s.points }
  | .station =>
    match stationAt index with
    | some k => s.updStation k fun _ => Station.empty
    | none => s
  | .header =>
    match headerAt index with
    | some h => s.updHeader h fun _ => Header.empty
    | none => s
  | .route => { s with routes := Table.remove index s.routes }
  | .recipe => { s with recipes := Table.remove index s.recipes }

/-! ### The judgement of a table write (R2) -/

/-- BAD_CONTENT with check code and subject. -/
def ContentFailure.reply (f : ContentFailure) : Reply :=
  ⟨.badContent, some f.code.code, some f.subject, []⟩

/-- The table a write names; none when its code names no table. -/
def writeTable : TableWrite → Option TableId
  | .unknown _ => none
  | .empty t _ => some t
  | .full _ content => some (Content.table content)

/-- Judgements 2 to 4 of R2, on an entry in empty form or in full form. -/
def State.refuseEntry (s : State) (t : TableId) (index : Nat) (written : Option Content) :
    Option Reply :=
  if t.size ≤ index then some (Reply.refuse .badIndex)
  else match s.inUse t index written with
    | some r => some r
    | none =>
      (firstFailure (match written with
        | some content => s.contentChecks index content
        | none => s.emptyChecks t index)).map ContentFailure.reply

/-- The judgement of a table write in the order of R2: the refusal, or none when it is taken. -/
def State.refuseWrite (s : State) : TableWrite → Option Reply
  | .unknown _ => some (Reply.refuse .badTable)
  | .empty t index => s.refuseEntry t index.toNat none
  | .full index content => s.refuseEntry (Content.table content) index.toNat (some content)

/-- The tables whose taken write prompts an examination of the route claim queue (R47). -/
def walksAfter : TableId → Bool
  | .segment => true
  | .valve => true
  | .header => true
  | _ => false

/-- Carry out a taken table write, without the walk. -/
def State.applyWrite (w : TableWrite) (s : State) : State :=
  match w with
  | .unknown _ => s
  | .empty t index => s.removeEntry t index.toNat
  | .full index content => s.putContent index.toNat content

/-- Carry out a taken table write with the walk it prompts (R47). -/
def State.takeWrite (w : TableWrite) (s : State) : State :=
  let s := s.applyWrite w
  if (writeTable w).any walksAfter then s.walk else s

/-! ### The configuration record (R6, R8) -/

/-- The ranges of fields 1 to 15, in order. -/
def configRanges (c : ConfigRecord) : List (Option ContentFailure) :=
  [ demand (within 240 254 c.ownAddress.toNat) .range 1
  , demand (within 100 5000 c.linkSilence.toNat) .range 2
  , demand (within 50 5000 c.nodeSilence.toNat) .range 3
  , demand ([25, 50, 100, 200].contains c.visitPeriod.toNat) .range 4
  , demand (within 1 600 c.lockTravel.toNat) .range 5
  , demand (within 1 3600 c.ageB.toNat) .range 6
  , demand (within 1 3600 c.ageC.toNat) .range 7
  , demand (within 1 20000 c.causticLimit.toNat) .range 8
  , demand (within 1 20000 c.acidLimit.toNat) .range 9
  , demand (within 1 600 c.interfaceHold.toNat) .range 10
  , demand (within 1 3600 c.interfaceMax.toNat) .range 11
  , demand (within 0 60000 c.drainFlow.toNat) .range 12
  , demand (within 1 600 c.drainHold.toNat) .range 13
  , demand (within 1 3600 c.drainMax.toNat) .range 14
  , demand (c.eventMask.toNat < 2 ^ 20) .range 15 ]

/-- The first unmaskable kind that an event mask names (R3, R6), by position. -/
def unmaskableNamed (c : ConfigRecord) : Option Nat :=
  ([EventKind.fault, .segregationBreach, .imageBad, .restarted].find? (maskNames c)).map
    EventKind.position

/-- The judgement of a configuration record by R6. -/
def configFailure (c : ConfigRecord) : Option ContentFailure :=
  firstFailure (configRanges c ++ [refuted .unmaskable (unmaskableNamed c)])

/-- The judgement of a CONFIG_WRITE by R6, then R8. -/
def State.refuseConfig (s : State) (c : ConfigRecord) : Option Reply :=
  match configFailure c with
  | some f => some f.reply
  | none => if c.ownAddress = s.config.ownAddress then none else s.roundsActive

end Sys2Proof.Machine
end

