-- ==== Sys2Proof/Machine/FramePath.lean ====
section
/-!
DEFINITION. The frame path (chapter 8): settling and rebuilding command frames, tapping replies, node silence
and link silence.
-/

namespace Sys2Proof.Machine

open Sys2Proof

/-! ### Settling (R149 to R153) -/

/-- COMMAND_OVERRIDDEN (R150, R153): a request that differs from what is forwarded, for an actuator of a
round whose override flag is clear, sets the flag and queues the event. -/
def State.override (k : Slot) (differs : Bool) (subject : Subject) (value : EventValue) (s : State) :
    State :=
  if differs && !(s.round k).override then
    let s := s.updRound k fun r => { r with override := true }
    s.offer { s.event .commandOverridden with
      slot := some k, subject := some subject, value := some value }
  else s

/-- Store a requested position (R149): KEEP leaves the stored request as it was. -/
def State.storeRequest (n : Nat) (p : Option Position) (s : State) : State :=
  match p with
  | some q => s.updValve n fun v => { v with requested := some q }
  | none => s

/-- An owned valve (R150): what it is forwarded is written as its commanded position, and a request that differs
from it is overridden. -/
def State.settleOwned (n : Nat) (k : Slot) (out : Position) (p : Option Position) (s : State) : State :=
  let s := s.commandValve n out
  match p with
  | some q => s.override k (q != out) (.valve n) (.position q)
  | none => s

/-- COMMAND_BLOCKED (R151): a request that differs from what is forwarded and from the request stored
before. -/
def State.block (n : Nat) (v : ValveEntry) (out q : Position) (s : State) : State :=
  if q ≠ out ∧ v.requested ≠ some q then
    s.offer { s.event .commandBlocked with
      slot := s.lowestClaim v
      subject := some (.valve n)
      second := (s.lockingSegment v).map .segment
      value := some (.position q) }
  else s

/-- A locked valve (R151). -/
def State.settleLocked (n : Nat) (v : ValveEntry) (out : Position) (p : Option Position) (s : State) :
    State :=
  let s := s.commandValve n out
  match p with
  | some q => s.block n v out q
  | none => s

/-- Settle the entry of a valve: the state after it, and the entry forwarded (R149 to R152). An empty entry is
untracked and forwards what arrived. -/
def State.settleValve (n : Nat) (p : Option Position) (s : State) : State × Option Position :=
  match Table.entry s.valves n with
  | none => (s, p)
  | some v =>
    let s := s.storeRequest n p
    match v.owner with
    | some k =>
      let out := v.imagePosition
      (s.settleOwned n k out p, some out)
    | none =>
      if s.locked v then
        let out := s.lockedPosition n v
        (s.settleLocked n v out p, some out)
      else match p with
        | some q => (s.commandValve n q, some q)
        | none => (s, none)

/-- A value clamped into a drive's minimum and maximum (R153). -/
def DriveEntry.clamp (d : DriveEntry) (value : Nat) : Nat := max d.minimum (min d.maximum value)

/-- An owned drive (R153): forwarded its commanded value, clamped; KEEP when that is absent (log 20). -/
def State.settleOwnedDrive (n : Nat) (k : Slot) (out value : Option Nat) (s : State) : State :=
  let s := match out with
    | some c => s.commandDrive n c
    | none => s
  match value with
  | some v => s.override k (out != some v) (.drive n) (.number v)
  | none => s

/-- Settle the entry of a drive (R149, R153): the state after it, and the entry forwarded. -/
def State.settleDrive (n : Nat) (value : Option Nat) (s : State) : State × Option Nat :=
  match Table.entry s.drives n with
  | none => (s, value)
  | some d =>
    let s := match value with
      | some v => s.updDrive n fun d => { d with requested := some v }
      | none => s
    match d.owner with
    | some k =>
      let out := d.commanded.map d.clamp
      (s.settleOwnedDrive n k out value, out)
    | none =>
      match value with
      | some v =>
        let s := s.commandDrive n (d.clamp v)
        let s := if d.clamp v = v then s
          else s.offer { s.event .commandClamped with
            subject := some (.drive n), value := some (.number v) }
        (s, some (d.clamp v))
      | none => (s, none)

/-- Settle the valve entries of a frame in slot order, from a slot on (R148). -/
def State.settleValves (a : Octet) : Nat → List (Option Position) → State →
    State × List (Option Position)
  | _, [], s => (s, [])
  | slot, p :: t, s =>
    let one := match s.valveAt a slot with
      | some n => s.settleValve n p
      | none => (s, p)
    let rest := State.settleValves a (slot + 1) t one.1
    (rest.1, one.2 :: rest.2)

/-- Settle the drive entries of a frame in channel order, from a channel on (R148). -/
def State.settleDrives (a : Octet) : Nat → List (Option Nat) → State → State × List (Option Nat)
  | _, [], s => (s, [])
  | channel, v :: t, s =>
    let one := match s.driveAt a channel with
      | some n => s.settleDrive n v
      | none => (s, v)
    let rest := State.settleDrives a (channel + 1) t one.1
    (rest.1, one.2 :: rest.2)

/-- The payload of a command frame to a valve cluster. -/
def valvePayload (l : List (Option Position)) : List Octet := l.map positionOctet

/-- The payload of a command frame to a drive node. -/
def drivePayload (l : List (Option Nat)) : List Octet := l.flatMap optOctets2

/-- Send octets on port F (R147). -/
def State.sendF (l : List Octet) (s : State) : State := { s with txF := s.txF ++ [l] }

/-- Send on port U (R147). -/
def State.sendU (x : SentU) (s : State) : State := { s with txU := s.txU ++ [x] }

/-- The kind of the node at a link address. -/
def State.kindAt (s : State) (a : Octet) : Option NodeKind := (s.nodeAt a).map fun e => e.kind

/-! ### Rebuilt frames (R156) -/

/-- The rebuilt entry of a slot (R156): a tracked valve's commanded position, CLOSE when that is NONE, and
written as the commanded position then; KEEP when untracked. A locked valve's is carried as it stands (log 35). -/
def State.rebuildValve (a : Octet) (slot : Nat) (s : State) : State × Option Position :=
  match s.valveAt a slot with
  | none => (s, none)
  | some n =>
    match Table.entry s.valves n with
    | none => (s, none)
    | some v => (s.commandValve n v.imagePosition, some v.imagePosition)

/-- The rebuilt entry of a channel (R156): a tracked drive's commanded value, clamped; KEEP when absent or
untracked. The clamped value is written as the commanded value (R153, log 21). -/
def State.rebuildDrive (a : Octet) (channel : Nat) (s : State) : State × Option Nat :=
  match s.driveAt a channel with
  | none => (s, none)
  | some n =>
    match (Table.entry s.drives n).bind fun d => d.commanded.map d.clamp with
    | some c => (s.commandDrive n c, some c)
    | none => (s, none)

/-- Rebuild a number of slots from a slot on. -/
def State.rebuildValves (a : Octet) : Nat → Nat → State → State × List (Option Position)
  | 0, _, s => (s, [])
  | n + 1, slot, s =>
    let one := s.rebuildValve a slot
    let rest := State.rebuildValves a n (slot + 1) one.1
    (rest.1, one.2 :: rest.2)

/-- Rebuild a number of channels from a channel on. -/
def State.rebuildDrives (a : Octet) : Nat → Nat → State → State × List (Option Nat)
  | 0, _, s => (s, [])
  | n + 1, channel, s =>
    let one := s.rebuildDrive a channel
    let rest := State.rebuildDrives a n (channel + 1) one.1
    (rest.1, one.2 :: rest.2)

/-- Forward a rebuilt frame to a node in place of a dropped one, and queue FRAME_REBUILT (R156, R167). -/
def State.rebuild (a : Octet) (cause : RebuildCause) (s : State) : State :=
  let built := match s.kindAt a with
    | some .drive =>
      let r := s.rebuildDrives a 4 0
      (r.1, drivePayload r.2)
    | _ =>
      let r := s.rebuildValves a 16 0
      (r.1, valvePayload r.2)
  let s := built.1.sendF (Frame.seal ⟨a, 0, kindCmd, built.2⟩)
  s.offer { s.event .frameRebuilt with
    subject := (s.nodeIndex a).map .node
    cause := some (.rebuilt cause)
    value := some (.number a.toNat) }

/-! ### Frames on port U that are not for the engine (R145) -/

/-- A good CMD of the wrong form (R156): rebuilt for a node that needs guarding, forwarded otherwise. -/
def State.wrongForm (f : Frame) (octets : List Octet) (s : State) : State :=
  if s.needsGuarding f.dest then s.rebuild f.dest .badForm else s.sendF octets

/-- A good CMD frame (R145, R148): settled, sealed again and forwarded. -/
def State.relayCommand (f : Frame) (octets : List Octet) (s : State) : State :=
  match s.kindAt f.dest with
  | some .valveCluster =>
    match valveCommands f.payload with
    | some entries =>
      let r := s.settleValves f.dest 0 entries
      r.1.sendF (Frame.seal { f with payload := valvePayload r.2 })
    | none => s.wrongForm f octets
  | some .drive =>
    match driveCommands f.payload with
    | some entries =>
      let r := s.settleDrives f.dest 0 entries
      r.1.sendF (Frame.seal { f with payload := drivePayload r.2 })
    | none => s.wrongForm f octets
  | _ => s.sendF octets

/-- A good frame on port U for another address than the engine's own (R145). -/
def State.relayGood (f : Frame) (octets : List Octet) (s : State) : State :=
  if f.kind = kindCmd then s.relayCommand f octets else s.sendF octets

/-- A bad frame on port U (R145): dropped and rebuilt when its first octet addresses a node that needs
guarding, forwarded otherwise. -/
def State.relayBad (octets : List Octet) (s : State) : State :=
  match octets with
  | dest :: _ => if s.needsGuarding dest then s.rebuild dest .badCrc else s.sendF octets
  | [] => s.sendF octets

/-! ### Link silence (R164, R165) -/

/-- Start or restart the link silence timer with the configured limit. -/
def State.restartLink (s : State) : State :=
  { s with linkTimer := Timer.start s.config.linkSilence.toNat }

/-- What every good frame on port U does after it has been handled (R165). -/
def State.linkHeard (s : State) : State :=
  if s.linkSilent then
    let s := State.restartLink { s with linkSilent := false }
    let s := allSlots.foldl (fun s k =>
      s.loseCause k (fun c => c.link) fun c => { c with link := false }) s
    let silence := (s.partTime - s.linkExpiry.getD s.partTime).toNat
    s.offer { s.event .linkBack with value := some (.number silence) }
  else s.restartLink

/-- The link silence timer expires (R164). -/
def State.linkExpires (s : State) : State :=
  let s := { s with
    linkSilent := true, linkExpiry := some s.partTime, linkTimer := s.linkTimer.stop }
  let s := allSlots.foldl (fun s k => s.gainCause k fun c => { c with link := true }) s
  s.offer (s.event .linkSilent)

/-! ### Node silence (R162) -/

/-- Parts 1 to 3 of R162: flag, images and qualities. -/
def State.blankNode (i : Nat) (a : Octet) (s : State) : State :=
  { s with
    nodes := Table.adjust i (fun e => { e with silent := true, silence := e.silence.stop }) s.nodes
    valves := Table.each (fun _ v => if v.node = a then { v with feedback := .unknown } else v) s.valves
    drives := Table.each
      (fun _ d => if d.node = a then { d with status := .unknown, value := none } else d) s.drives
    points := Table.each (fun _ p => if p.node = a then { p with quality := .none } else p) s.points }

/-- A round that depends on a node gains NODE_SILENT for it (R86, R162). -/
def State.holdFor (a : Octet) (k : Slot) (s : State) : State :=
  if (s.dependencies k).contains a then s.gainCause k (HoldCauses.addNode a) else s

/-- A header whose return conductivity point is on a node (R162, part 5). -/
def State.condOn (s : State) (a : Octet) (h : HeaderId) : Bool :=
  ((s.header h).load.bind (·.cond)).any fun p => s.pointNode p == some a

/-- A node's silence timer expires (R162). -/
def State.nodeExpires (i : Nat) (a : Octet) (s : State) : State :=
  let s := s.blankNode i a
  let s := allSlots.foldl (fun s k => s.holdFor a k) s
  let s := allHeaders.foldl (fun s h => if s.condOn a h then s.condSilence h else s) s
  s.offer { s.event .nodeSilent with
    subject := some (.node i), value := some (.number a.toNat) }

/-! ### Tapping a reply (R157 to R160) -/

/-- What a tapped reply reads, by the kind of its node (R157). -/
inductive Reading where
  | valves (l : List Feedback)
  | drives (l : List (DriveStatus × Nat))
  | points (l : List (Nat × Quality × Nat))
  deriving DecidableEq, Repr

/-- The reading of a reply's payload, when it has the form its node's kind requires (R157). -/
def readReply (kind : NodeKind) (payload : List Octet) : Option Reading :=
  match kind with
  | .valveCluster => (valveReplies payload).map .valves
  | .drive => (driveReplies payload).map .drives
  | .instrument => (instrumentReplies payload).map .points

/-- Part 1 of R158: the reply time and the silence timer; a silent flag is cleared, NODE_BACK is queued when
an earlier reply time was present, and the causes are removed (R163). -/
def State.hearNode (i : Nat) (e : NodeEntry) (s : State) : State :=
  let now := s.partTime
  let limit := s.config.nodeSilence.toNat
  let s := { s with nodes := Table.adjust i (fun e =>
    { e with lastReply := some now, silent := false, silence := Timer.start limit }) s.nodes }
  if e.silent then
    let s := if e.lastReply.isSome then
        s.offer { s.event .nodeBack with
          subject := some (.node i), value := some (.number e.address.toNat) }
      else s
    allSlots.foldl (fun s k =>
      s.loseCause k (fun c => c.nodes.contains e.address) (HoldCauses.removeNode e.address)) s
  else s

/-- The greatest value of a point kind (R19). -/
def PointKind.top : PointKind → Nat
  | .cond => 20000
  | .temp => 1500
  | .flow => 60000

/-- Write an instrument value (R159): a value outside the kind's range is BAD at the end of the range. -/
def PointEntry.write (now : PartTime) (q : Quality) (value : Nat) (p : PointEntry) : PointEntry :=
  if p.kind.top < value then { p with value := some p.kind.top, quality := .bad, time := some now }
  else { p with value := some value, quality := q, time := some now }

/-- Write a drive's reply (R159): the value is limited to the kind's range. -/
def DriveEntry.write (st : DriveStatus) (value : Nat) (d : DriveEntry) : DriveEntry :=
  { d with status := st, value := some (min value d.kind.top) }

/-- Write the slots of a cluster's reply, from a slot on. -/
def State.writeValves (a : Octet) : Nat → List Feedback → State → State
  | _, [], s => s
  | slot, f :: t, s =>
    let s := match s.valveAt a slot with
      | some n => s.updValve n fun v => { v with feedback := f }
      | none => s
    State.writeValves a (slot + 1) t s

/-- Write the channels of a drive node's reply, from a channel on. -/
def State.writeDrives (a : Octet) : Nat → List (DriveStatus × Nat) → State → State
  | _, [], s => s
  | channel, x :: t, s =>
    let s := match s.driveAt a channel with
      | some n => s.updDrive n (DriveEntry.write x.1 x.2)
      | none => s
    State.writeDrives a (channel + 1) t s

/-- Write the channels of an instrument head's reply. -/
def State.writePoints (a : Octet) : List (Nat × Quality × Nat) → State → State
  | [], s => s
  | x :: t, s =>
    let s := match s.pointAt a x.1 with
      | some n => { s with points := Table.adjust n (PointEntry.write s.partTime x.2.1 x.2.2) s.points }
      | none => s
    State.writePoints a t s

/-- Part 2 of R158: the images (R159). -/
def State.writeReading (a : Octet) (r : Reading) (s : State) : State :=
  match r with
  | .valves l => s.writeValves a 0 l
  | .drives l => s.writeDrives a 0 l
  | .points l => s.writePoints a l

/-! ### Deliveries (R160) -/

/-- The fed-back position that stands for a commanded position (R88, R170). -/
def Position.shown : Position → Feedback
  | .close => .closed
  | .open => .open
  | .liftA => .liftedA
  | .liftB => .liftedB

/-- A valve shows a fed-back position. -/
def State.shows (s : State) (n : Nat) (f : Feedback) : Bool :=
  (Table.entry s.valves n).any (·.feedback == f)

/-- The judged valves of SETTING with the position each must show, in the order of R89. -/
def Route.judged (r : Route) : List (Nat × Feedback) :=
  r.setting.map (fun i => (i.valve, if i.opened then .open else .closed))
    ++ r.boundary.map fun b => (b.valve, .closed)

/-- The first judged valve that is not in the position R88 requires. -/
def State.unsettled (s : State) (k : Slot) : Option Nat :=
  match s.routeOf k with
  | some r => (r.judged.find? fun x => !s.shows x.1 x.2).map (·.1)
  | none => none

/-- Order 1 (R88): a round in SETTING whose judged valves all show their positions begins step 0. -/
def State.deliverSetting (k : Slot) (s : State) : State :=
  if (s.round k).state = .setting ∧ s.unsettled k = none then
    (s.updRound k fun r => { r with travel := r.travel.stop }).cascade [.begin k]
  else s

/-- The pump drive of a round's held station. -/
def State.heldPump (s : State) (k : Slot) : Option Nat :=
  ((s.round k).held.bind fun st => (s.station st).load).map (·.pump)

/-- The reply shows a drive with status FAULT (R99). -/
def State.showsFault (s : State) (a : Octet) (r : Reading) (n : Nat) : Bool :=
  match r with
  | .drives _ => (Table.entry s.drives n).any fun d => d.node == a && d.status == .fault
  | _ => false

/-- Order 2 (R99): a pump that the reply shows with FAULT faults its round, in the states of R109. -/
def State.deliverFault (a : Octet) (r : Reading) (k : Slot) (s : State) : State :=
  match s.heldPump k with
  | some n =>
    if s.showsFault a r n then s.cascade [.fault k .driveFault (some (.drive n))] else s
  | none => s

/-- The point entry that a reply carries at an index: an instrument's reply that lists its channel. -/
def State.carried (s : State) (a : Octet) (r : Reading) (n : Nat) : Option PointEntry :=
  match r with
  | .points l =>
    (Table.entry s.points n).filter fun p => p.node == a && (l.map (·.1)).contains p.channel
  | _ => none

/-- The fill flow minimum of a round's route. -/
def State.fillMinimum (s : State) (k : Slot) : Nat :=
  match s.routeOf k with
  | some r => r.fillFlow
  | none => 0

/-- A point's value is GOOD and at or above a minimum. -/
def PointEntry.reaches (minimum : Nat) (p : PointEntry) : Bool :=
  p.quality == .good && p.value.any (minimum ≤ ·)

/-- Order 3 (R92): a sample of the fill point completes the fill. -/
def State.deliverFill (a : Octet) (r : Reading) (k : Slot) (s : State) : State :=
  if (s.round k).state = .stepFill
      ∧ ((s.fillPoint k).bind (s.carried a r)).any (PointEntry.reaches (s.fillMinimum k)) then
    s.cascade [.timing k]
  else s

/-- A sample passes (R120). -/
def Criterion.passes (c : Criterion) (p : PointEntry) : Bool :=
  p.quality == .good && p.value.any fun v =>
    match c.comparison with
    | .atLeast => c.limit ≤ v
    | .atMost => v ≤ c.limit

/-- Append a result at the newest end of a window of at most n results (R121). -/
def appendResult (n : Nat) (result : Bool) (w : List Bool) : List Bool :=
  w.drop (w.length + 1 - n) ++ [result]

/-- A criterion takes the sample that the reply carries of its resolved point (R119). -/
def State.takeSample (s : State) (a : Octet) (r : Reading) (c : Criterion) (x : CriterionState) :
    CriterionState :=
  match x.point.bind (s.carried a r) with
  | some p => { x with window := appendResult c.window (c.passes p) x.window }
  | none => x

/-- Each criterion of a step takes the sample that the reply carries of its resolved point. -/
def State.takeSamples (s : State) (a : Octet) (r : Reading) :
    List Criterion → List CriterionState → List CriterionState
  | c :: cs, x :: xs => s.takeSample a r c x :: s.takeSamples a r cs xs
  | _, xs => xs

/-- Order 4 (R119): a round in STEP_TIMING takes the samples the reply carries. -/
def State.deliverWindows (a : Octet) (r : Reading) (k : Slot) (s : State) : State :=
  if (s.round k).state = .stepTiming then
    s.updRound k fun x => { x with criteria := s.takeSamples a r (s.criteriaOf k) x.criteria }
  else s

/-- A flow value lets the drain hold run on (R141). -/
def State.drainRunsOn (s : State) (p : PointEntry) : Bool :=
  p.quality == .good && p.value.any (· ≤ s.config.drainFlow.toNat)

/-- Order 5, the drain hold (R141): a round in ENDING judges its header's return flow. -/
def State.deliverDrain (a : Octet) (r : Reading) (k : Slot) (s : State) : State :=
  match (s.headerLoadOf k).bind fun l => s.carried a r l.flow with
  | some p =>
    if (s.round k).state = .ending ∧ s.drainRunsOn p = false then
      s.updRound k fun x => { x with drainHold := Timer.start (tenths s.config.drainHold.toNat) }
    else s
  | none => s

/-- Order 5, the interface (R138). -/
def State.deliverCond (a : Octet) (r : Reading) (h : HeaderId) (s : State) : State :=
  match ((s.header h).load.bind (·.cond)).bind (s.carried a r) with
  | some p => s.condSample h (p.value.getD 0) p.quality
  | none => s

/-- Part 3 of R158: the deliveries in the order of R160, each to the rounds in ascending slot order. -/
def State.deliver (a : Octet) (r : Reading) (s : State) : State :=
  let s := allSlots.foldl (fun s k => s.deliverSetting k) s
  let s := allSlots.foldl (fun s k => s.deliverFault a r k) s
  let s := allSlots.foldl (fun s k => s.deliverFill a r k) s
  let s := allSlots.foldl (fun s k => s.deliverWindows a r k) s
  let s := allHeaders.foldl (fun s h => s.deliverCond a r h) s
  allSlots.foldl (fun s k => s.deliverDrain a r k) s

/-- A tapped reply (R158): silence, images, deliveries. -/
def State.tap (i : Nat) (e : NodeEntry) (r : Reading) (s : State) : State :=
  ((s.hearNode i e).writeReading e.address r).deliver e.address r

/-- The node and the reading of a frame that is tapped (R146, R157): good, of kind RSP, from a mapped node,
of its kind's form. -/
def State.tapped (s : State) (f : Frame) : Option (Nat × NodeEntry × Reading) :=
  if f.kind = kindRsp then
    match s.nodeIndex f.source, s.nodeAt f.source with
    | some i, some e => (readReply e.kind f.payload).map fun r => (i, e, r)
    | _, _ => none
  else none

/-- A frame arrives on port F (R146): tapped when R157 says so, then forwarded on U unchanged. -/
def State.arriveF (octets : List Octet) (s : State) : State :=
  let s := match (readFrame octets).bind s.tapped with
    | some x => s.tap x.1 x.2.1 x.2.2
    | none => s
  s.sendU (.relayed octets)

end Sys2Proof.Machine
end

