-- ==== Sys2Proof/Machine/Scan.lean ====
section
/-!
DEFINITION. The valve proof scan (chapter 9): search, visit and judgement.
-/

namespace Sys2Proof.Machine

open Sys2Proof

/-! ### The search (R169) -/

/-- The full valve entries in search order: after the pointer, then from 0 up to the pointer. -/
def State.scanOrder (s : State) : List (Nat × ValveEntry) :=
  let start := match s.scanPointer with
    | some p => p + 1
    | none => 0
  (s.valves.filter fun x => start ≤ x.1) ++ s.valves.filter fun x => x.1 < start

/-- The entries the search passes over: those before the first that qualifies. -/
def State.passedOver (s : State) : List Nat :=
  (s.scanOrder.takeWhile fun x => !s.qualifies x.2).map (·.1)

/-- The entry the search chooses. -/
def State.scanChoice (s : State) : Option (Nat × ValveEntry) :=
  s.scanOrder.find? fun x => s.qualifies x.2

/-- Set the miss count of a valve. -/
def State.setMisses (n count : Nat) (s : State) : State :=
  s.updValve n fun v => { v with misses := count }

/-- Set the miss count of each passed-over entry to 0. -/
def State.clearPassed (s : State) : State :=
  s.passedOver.foldl (fun s n => s.setMisses n 0) s

/-! ### Expected position and travel allowance (R170, R171) -/

/-- The expected position of a visited valve; none for an owned valve commanded NONE. -/
def expected (v : ValveEntry) : Option Feedback :=
  match v.owner with
  | some _ => v.commanded.map Position.shown
  | none =>
    match v.commanded with
    | some .liftA => some .liftedA
    | some .liftB => some .liftedB
    | _ => some .closed

/-- The travel limit of a round's route, in milliseconds. -/
def State.travelLimit (s : State) (k : Slot) : Nat :=
  match s.routeOf k with
  | some r => tenths r.travel
  | none => 0

/-- The travel allowance of a visited valve, in milliseconds (R171). -/
def State.allowance (s : State) (v : ValveEntry) : Nat :=
  match v.owner with
  | some k => s.travelLimit k
  | none =>
    match s.claimSlots v with
    | [] => tenths s.config.lockTravel.toNat
    | slots => (slots.map s.travelLimit).foldl max 0

/-- The visit passes over a valve (R172): it was never commanded, or its allowance still runs. -/
def State.stillMoving (s : State) (v : ValveEntry) : Bool :=
  match v.changed with
  | none => true
  | some t => (s.partTime - t).toNat < s.allowance v

/-! ### Judgement (R174 to R177) -/

/-- A round with its wet flag set claims a side. -/
def State.wetClaim (s : State) (side : Option Nat) : Option Slot :=
  (claimSlot (s.sideState side)).filter fun k => (s.round k).wet

/-- The breach at a valve (R174, line 1): the claiming round, the PRODUCT segment and the CLAIMED
segment. -/
def State.breachAt (s : State) (v : ValveEntry) : Option (Slot × Nat × Nat) :=
  match v.sideA, v.sideB with
  | some na, some nb =>
    match s.segState na, s.wetClaim (some nb), s.segState nb, s.wetClaim (some na) with
    | .product, some k, _, _ => some (k, na, nb)
    | _, _, .product, some k => some (k, nb, na)
    | _, _, _, _ => none
  | _, _ => none

/-- What the scan has handed over reaches its owner, who takes it by the state it finds then (R61, R109, R175). -/
def State.arrive (s : State) : Handover → State
  | .marking n => s.markBreach n
  | .breach k n => s.cascade [.fault k .segregationBreach (some (.valve n))]
  | .mismatch k n => s.cascade [.fault k .scanMismatch (some (.valve n))]

/-- Everything on its way arrives, oldest first. -/
def State.takeHanded (s : State) : State := s.handed.foldl State.arrive { s with handed := [] }

/-- The scan hands over what a visit has judged (R175, R176): its owner takes it at once, or it is on its way when
the visit ends, so that other events can reach the owner first (R61, R179, log 42). -/
def State.handOver (waits : Bool) (l : List Handover) (s : State) : State :=
  let s := { s with handed := s.handed ++ l, freeCount := s.freeCount + 1 }
  if waits then s else s.takeHanded

/-- A segregation breach (R175): event, breach marking, fault report. -/
def State.breach (waits : Bool) (n : Nat) (v : ValveEntry) (k : Slot) (product claimed : Nat) (s : State) : State :=
  let s := s.offer { s.event .segregationBreach with
    slot := some k
    subject := some (.valve n)
    second := some (.segment product)
    cause := some (.feedback v.feedback)
    value := some (.number claimed) }
  s.handOver waits [.marking product, .breach k n]

/-- The owning round of a valve when it is in a state of line 2 (R174). -/
def State.scanOwner (s : State) (v : ValveEntry) : Option Slot :=
  v.owner.filter fun k => [RoundState.stepFill, .stepTiming, .ending].contains (s.round k).state

/-- The round slot of PROOF_MISMATCH (R177). -/
def State.mismatchSlot (s : State) (v : ValveEntry) : Option Slot :=
  match v.owner with
  | some k => some k
  | none => s.lowestClaim v

/-- Judge a valve by the first line of R174 that fits it. A scan mismatch (R176) writes nothing to the valve itself;
the FAULTED entry it brings about acts on it as R108 says (log 40). -/
def State.judgeValve (waits : Bool) (n : Nat) (v : ValveEntry) (want : Feedback) (s : State) : State :=
  match s.breachAt v with
  | some x => s.breach waits n v x.1 x.2.1 x.2.2
  | none =>
    match s.scanOwner v with
    | some k => s.handOver waits [.mismatch k n]
    | none =>
      s.offer { s.event .proofMismatch with
        slot := s.mismatchSlot v
        subject := some (.valve n)
        cause := some (.feedback v.feedback)
        value := some (.feedback want) }

/-! ### The visit (R169 to R173) -/

/-- Visit a valve: passed over or matching, its miss count becomes 0; a mismatch counts, and the second
running is judged with the count back at 0 (R172, R173). -/
def State.visit (waits : Bool) (n : Nat) (v : ValveEntry) (s : State) : State :=
  match expected v with
  | none => s.setMisses n 0
  | some want =>
    if s.stillMoving v || v.feedback == want then s.setMisses n 0
    else if v.misses = 0 then s.setMisses n 1
    else (s.setMisses n 0).judgeValve waits n v want

/-- The visit timer expires (R169): it restarts with the period as it stands, and the scan searches. With no
valve that qualifies the pointer stays. `waits` says whether what a visit judges is still on its way when it ends. -/
def State.scanWith (waits : Bool) (s : State) : State :=
  let s := { s with visitTimer := Timer.start s.config.visitPeriod.toNat }
  let choice := s.scanChoice
  let s := s.clearPassed
  match choice with
  | some x => State.visit waits x.1 x.2 { s with scanPointer := some x.1 }
  | none => s

/-- The visit timer expires, and the world chooses when what is handed over arrives (R179, log 42). -/
def State.scan (s : State) : State := s.scanWith (Config.handoverWaits s.freeCount)

end Sys2Proof.Machine
end

