-- ==== Sys2Proof/Machine/Reports.lean ====
section
/-!
DEFINITION. What the reading requests return (R185, R188, R208): the octets of an entry with its dynamic
fields, of a round record, and of fetched events.
-/

namespace Sys2Proof.Machine

open Sys2Proof

/-! ### Entries as they stand -/

/-- An optional index as a one-octet field. -/
def fieldOctet (o : Option Nat) : Octet := optOctet o

/-- An optional index as a two-octet field. -/
def fieldWord (o : Option Nat) : Word16 :=
  match o with
  | some n => BitVec.ofNat 16 n
  | none => 0xFFFF

/-- The fields of a node map entry. -/
def NodeEntry.fields (e : NodeEntry) : NodeFields := ⟨e.address, octet e.kind.code⟩

/-- The fields of a segment entry. -/
def SegmentEntry.fields (e : SegmentEntry) : SegmentFields :=
  ⟨octet e.kind.code, fieldOctet (e.header.map Fin.val), fieldOctet e.flow⟩

/-- The fields of a valve entry. -/
def ValveEntry.fields (v : ValveEntry) : ValveFields :=
  ⟨v.node, octet v.slot, octet v.kind.code, fieldOctet v.sideA, fieldOctet v.sideB⟩

/-- The fields of a drive entry. -/
def DriveEntry.fields (d : DriveEntry) : DriveFields :=
  ⟨d.node, octet d.channel, octet d.kind.code, BitVec.ofNat 16 d.minimum, BitVec.ofNat 16 d.maximum⟩

/-- The fields of a point entry. -/
def PointEntry.fields (p : PointEntry) : PointFields := ⟨p.node, octet p.channel, octet p.kind.code⟩

/-- The fields of a station entry. -/
def StationLoad.fields (l : StationLoad) : StationFields where
  rinse := fieldWord l.rinse
  recovered := fieldWord l.recovered
  caustic := fieldWord l.caustic
  acid := fieldWord l.acid
  sanitiser := fieldWord l.sanitiser
  air := fieldWord l.air
  pump := octet l.pump
  heater := fieldOctet l.heater
  temp := fieldOctet l.temp

/-- The fields of a return header entry. -/
def HeaderLoad.fields (l : HeaderLoad) : HeaderFields where
  segment := octet l.segment
  drain := BitVec.ofNat 16 l.drain
  caustic := fieldWord l.caustic
  acid := fieldWord l.acid
  recirc0 := fieldWord l.recirc0
  recirc1 := fieldWord l.recirc1
  recirc2 := fieldWord l.recirc2
  cond := fieldOctet l.cond
  temp := fieldOctet l.temp
  flow := octet l.flow

/-- A list element of a route: the valve index in the low nine bits, the code in the top bit (R208). -/
def elementOf (valve : Nat) (code : Bool) : Word16 :=
  BitVec.ofNat 16 (valve + if code then 0x8000 else 0)

/-- The fields of a route entry. -/
def Route.fields (r : Route) : RouteFields where
  segments := r.segments.map octet
  setting := r.setting.map fun i => elementOf i.valve i.opened
  boundary := r.boundary.map fun b => elementOf b.valve (b.outer == .b)
  stations := r.stations.map fun i => ⟨octet i.station.val, BitVec.ofNat 16 i.valve⟩
  travel := BitVec.ofNat 16 r.travel
  fillFlow := BitVec.ofNat 16 r.fillFlow
  holdLimit := BitVec.ofNat 16 r.holdLimit

/-- The fields of a criterion. -/
def Criterion.fields (c : Criterion) : CriterionFields :=
  ⟨octet c.role.code, octet c.comparison.code, BitVec.ofNat 16 c.limit, octet c.window, octet c.required⟩

/-- A criterion slot beyond the count, sent as zero (R208). -/
def emptySlot : CriterionFields := ⟨0, 0, 0, 0, 0⟩

/-- The criterion slot at a place. -/
def RecipeStep.slot (st : RecipeStep) (n : Nat) : CriterionFields :=
  match st.criteria[n]? with
  | some c => c.fields
  | none => emptySlot

/-- The fields of a recipe step (R27, R208). -/
def RecipeStep.fields (st : RecipeStep) : StepFields where
  medium := octet st.medium.code
  choice := match st.choice with
    | some k => octet k.val
    | none => 0x03
  keep := flagOctet st.keep
  pump := octet st.pump
  heater := fieldWord st.heater
  fillLimit := BitVec.ofNat 16 st.fillLimit
  holdTime := BitVec.ofNat 16 st.holdTime
  wallLimit := BitVec.ofNat 16 st.wallLimit
  disposition := octet st.disposition.code
  pulses := octet st.pulses
  liftLength := octet st.liftLength
  count := octet st.criteria.length
  crit1 := st.slot 0
  crit2 := st.slot 1
  crit3 := st.slot 2

/-- The loaded fields of the entry at an index, when it is full. A recipe is read in parts by
`recipePart`. -/
def State.contentAt (s : State) (t : TableId) (n : Nat) : Option Content :=
  match t with
  | .nodeMap => (Table.entry s.nodes n).map fun e => .nodeMap e.fields
  | .segment => (Table.entry s.segments n).map fun e => .segment e.fields
  | .valve => (Table.entry s.valves n).map fun e => .valve e.fields
  | .drive => (Table.entry s.drives n).map fun e => .drive e.fields
  | .point => (Table.entry s.points n).map fun e => .point e.fields
  | .station => ((stationAt n).bind fun k => (s.station k).load).map fun l => .station l.fields
  | .header => ((headerAt n).bind fun h => (s.header h).load).map fun l => .header l.fields
  | .route => (Table.entry s.routes n).map fun r => .route r.fields
  | .recipe => (Table.entry s.recipes n).map fun r => .recipe (r.map RecipeStep.fields)

/-! ### Dynamic fields (R185; log 22) -/

/-- A timer in a record: elapsed 0.1 s in two octets, then its state (R208). -/
def timerOctets (t : Timer) : List Octet := octets2 (t.elapsed / 100) ++ [octet t.mode.code]

/-- The slot a segment names, when CLAIMED. -/
def SegmentState.slot : SegmentState → Option Nat
  | .claimed k => some k.val
  | _ => none

/-- The cause a segment names, when SUSPECT. -/
def SegmentState.cause : SegmentState → Option Nat
  | .suspect c => some c.code
  | _ => none

/-- Silent flag, last good reply time (R10). -/
def NodeEntry.dynamic (e : NodeEntry) : List Octet := flagOctet e.silent :: optTime e.lastReply

/-- State, claiming round, suspect cause (R42). -/
def SegmentEntry.dynamic (e : SegmentEntry) : List Octet :=
  [octet e.state.code, optOctet e.state.slot, optOctet e.state.cause]

/-- Owner, commanded (NONE is 00h), requested and fed-back positions, time of last change, miss count,
locked (R55, R180, R207). -/
def State.valveDynamic (s : State) (v : ValveEntry) : List Octet :=
  [optOctet (v.owner.map Fin.val), positionOctet v.commanded, optOctet (v.requested.map Position.code),
    octet v.feedback.code] ++ optTime v.changed ++ [octet v.misses, flagOctet (s.locked v)]

/-- Owner, commanded, requested and fed-back values, fed-back status (R18). -/
def DriveEntry.dynamic (d : DriveEntry) : List Octet :=
  optOctet (d.owner.map Fin.val) :: optOctets2 d.commanded ++ optOctets2 d.requested
    ++ optOctets2 d.value ++ [octet d.status.code]

/-- Last value, quality, time (R19). -/
def PointEntry.dynamic (p : PointEntry) : List Octet :=
  optOctets2 p.value ++ octet p.quality.code :: optTime p.time

/-- A waiting round in a station's queue: slot, effective class, request time (R79). -/
def State.waiting (s : State) (k : Slot) : List Octet :=
  [octet k.val, octet (s.round k).effective.code]
    ++ octets4 (((s.round k).requestTime.map BitVec.toNat).getD 0)

/-- Granted round, linked flag, wait queue (R79). -/
def State.stationDynamic (s : State) (x : Station) : List Octet :=
  [optOctet (x.granted.map Fin.val), flagOctet x.linked] ++ listOctets s.waiting x.queue

/-- An optional target: FFh FFh FFh when absent (log 22). -/
def optTarget (t : Option Target) : List Octet :=
  match t with
  | some t => targetOctets t
  | none => [0xFF, 0xFF, 0xFF]

/-- Current and pending targets, interface state, interface timers, holding round (R143). -/
def State.headerDynamic (s : State) (h : HeaderId) : List Octet :=
  let x := s.header h
  targetOctets x.current ++ optTarget x.pending ++ [octet x.interface.code] ++ timerOctets x.hold
    ++ timerOctets x.maximum ++ [optOctet ((s.headerOwner h).map Fin.val)]

/-- The dynamic fields of the entry at an index. An empty station or header still has its own (R185). -/
def State.dynamicAt (s : State) (t : TableId) (n : Nat) : List Octet :=
  match t with
  | .nodeMap => ((Table.entry s.nodes n).map NodeEntry.dynamic).getD []
  | .segment => ((Table.entry s.segments n).map SegmentEntry.dynamic).getD []
  | .valve => ((Table.entry s.valves n).map s.valveDynamic).getD []
  | .drive => ((Table.entry s.drives n).map DriveEntry.dynamic).getD []
  | .point => ((Table.entry s.points n).map PointEntry.dynamic).getD []
  | .station => ((stationAt n).map fun k => s.stationDynamic (s.station k)).getD []
  | .header => ((headerAt n).map s.headerDynamic).getD []
  | .route => []
  | .recipe => []

/-- A part of a recipe (R186): part 1 with the step count and steps 0 to 5, part 2 with steps 6 onward. -/
def recipePart (part : Octet) (steps : List RecipeStep) : Option (List Octet) :=
  let octetsOf := fun (l : List RecipeStep) => l.flatMap fun st => stepOctets st.fields
  if part = 0x01 then some (0x01 :: octet steps.length :: octetsOf (steps.take 6))
  else if part = 0x02 then some (0x02 :: octet (steps.length - 6) :: octetsOf (steps.drop 6))
  else none

/-- The loaded fields of a TABLE_READ answer; none when the part of a recipe is neither 1 nor 2. -/
def State.loadedOctets (s : State) (t : TableId) (n : Nat) (part : Option Octet) :
    Option (Option (List Octet)) :=
  match t with
  | .recipe =>
    match recipePart (part.getD 0) ((Table.entry s.recipes n).getD []) with
    | some l => some ((Table.entry s.recipes n).map fun _ => l)
    | none => none
  | t => some ((s.contentAt t n).map contentOctets)

/-- The data of a TABLE_READ answer (R208): table, index, form, loaded fields, dynamic fields. The width of the
index is the model's choice: two octets for every table, as in the request (log 41). -/
def State.entryOctets (s : State) (t : TableId) (n : Nat) (loaded : Option (List Octet)) : List Octet :=
  tableCode t :: octets2 n ++ (match loaded with
    | some l => 0x01 :: l
    | none => [0x00]) ++ s.dynamicAt t n

/-! ### The round record (R188, R208; log 23) -/

/-- The fault record: presence, cause, subject, step index, time. -/
def faultOctets : Option FaultRecord → List Octet
  | some f => [0x01, octet f.cause.code] ++ optSubject f.subject ++ octet f.step :: octets4 f.time.toNat
  | none => [0, 0, 0, 0, 0, 0, 0, 0, 0, 0]

/-- The hold causes: LINK_SILENT flag, then a count and the addresses of the silent nodes. -/
def causeOctets (c : HoldCauses) : List Octet := flagOctet c.link :: listOctets (fun a => [a]) c.nodes

/-- A lift phase. -/
def LiftPhase.code : LiftPhase → Nat
  | .lifted => 0
  | .closed => 1

/-- The lift progress and its phase elapsed. While DONE, the pulse and phase octets are free values
(log 24). -/
def liftOctets (free : Nat) (lift : LiftProgress) (timer : Timer) : List Octet :=
  (match lift with
    | .active n pulse phase => [octet n, octet pulse, octet phase.code]
    | .done => [0xFF, Config.liftDonePulse free, Config.liftDonePhase free]) ++ timerOctets timer

/-- The number whose bit of weight 2^i is the i-th result: 1 for PASS, 0 for FAIL and beyond the last result
(log 23). -/
def bitsValue : List Bool → Nat
  | [] => 0
  | b :: t => (if b then 1 else 0) + 2 * bitsValue t

/-- A window: result count, PASS count, and eight octets of results, the oldest in the bit of weight 1. -/
def windowOctets (w : List Bool) : List Octet :=
  [octet w.length, octet (w.countP id)] ++ octets4 (bitsValue w) ++ octets4 (bitsValue w / 4294967296)

/-- A criterion state (R127): position, resolved point, result count, PASS count, satisfied. -/
def criterionStateOctets (n : Nat) (c : Criterion) (x : CriterionState) : List Octet :=
  [octet n, optOctet x.point, octet x.window.length, octet (x.window.countP id),
    flagOctet (c.satisfied x)]

/-- The criterion states of a round, from a position on. -/
def criterionStates (n : Nat) : List Criterion → List CriterionState → List Octet
  | c :: cs, x :: xs => criterionStateOctets n c x ++ criterionStates (n + 1) cs xs
  | _, _ => []

/-- The place of a slot in a queue, counted from 0 (R44, R79). -/
def placeIn (k : Slot) (q : List Slot) : Option Nat := q.findIdx? (· == k)

/-- The station in whose queue a round waits (R79). -/
def State.waitsAt (s : State) (k : Slot) : Option StationId :=
  allStations.find? fun st => (s.station st).queue.contains k

/-- The fields of R81 in their order. -/
def State.recordOctets (s : State) (k : Slot) : List Octet :=
  let r := s.round k
  [octet r.state.code, octet r.given.code, octet r.effective.code, octet r.recipe, octet r.route,
      octet r.step]
    ++ optTime r.startTime ++ optTime r.endTime ++ [optOctet (r.result.map RoundResult.code)]
    ++ faultOctets r.fault
    ++ [flagOctet r.override, flagOctet r.wet, flagOctet r.supplyBegun, optOctet (r.held.map Fin.val),
      flagOctet r.linked]
    ++ causeOctets r.causes ++ [optOctet (r.resume.map ResumeState.code)]
    ++ timerOctets r.travel ++ timerOctets r.fill ++ timerOctets r.wall ++ octets2 (r.holdAcc / 100)
    ++ timerOctets r.holdLimit ++ timerOctets r.drainHold ++ timerOctets r.drainMax
    ++ liftOctets s.freeCount r.lift r.liftTimer
    ++ listOctets (fun x => windowOctets x.window) r.criteria
    ++ listOctets (fun x => [optOctet x.point]) r.criteria

/-- The additions of R188. -/
def State.roundAdditions (s : State) (k : Slot) : List Octet :=
  let r := s.round k
  let st := s.waitsAt k
  [optOctet (placeIn k s.claimQueue), optOctet (st.map Fin.val),
      optOctet (st.bind fun j => placeIn k (s.station j).queue)]
    ++ octet r.criteria.length :: criterionStates 1 (s.criteriaOf k) r.criteria
    ++ flagOctet (s.inSpec k) :: timerOctets r.drainHold ++ timerOctets r.drainMax

/-- The data of a ROUND_READ answer. -/
def State.roundOctets (s : State) (k : Slot) : List Octet := s.recordOctets k ++ s.roundAdditions k

/-! ### Fetched events (R195, R209) -/

/-- The data of an EVENT_FETCH answer: overflow flag, records left, records returned, the records. -/
def fetchOctets (overflow : Bool) (left : Nat) (records : List Event) : List Octet :=
  flagOctet overflow :: octet left :: listOctets eventOctets records

end Sys2Proof.Machine
end

