-- ==== Sys2Proof/Machine/Management.lean ====
section
/-!
DEFINITION. The management unit (chapter 10) and RESTART (chapter 11): one action per request, which gives the
state after it and the reply, and the taking of a request (R181, R182).
-/

namespace Sys2Proof.Machine

open Sys2Proof

/-- What a taken request does: the state after it, and its reply. A refusal leaves the state as it is. -/
abbrev Action := State → State × Reply

/-- BAD_REQUEST (R183): nothing is performed. -/
def badRequest : Action := fun s => (s, Reply.refuse .badRequest)

/-- A round slot a request names. -/
def slotAt (o : Octet) : Option Slot := allSlots.find? (·.val == o.toNat)

/-! ### Configuration (R185) -/

/-- CONFIG_WRITE (R6, R8). -/
def writeConfig (c : ConfigRecord) : Action := fun s =>
  match s.refuseConfig c with
  | some r => (s, r)
  | none => ({ s with config := c }, Reply.ok)

/-- CONFIG_READ. -/
def readConfig : Action := fun s => (s, Reply.read (configOctets s.config))

/-! ### Tables (R185, R186) -/

/-- A one-part write taken for the staged recipe clears the staging record (R186). -/
def State.dropStaging (w : TableWrite) (s : State) : State :=
  let staged := fun (index : Word16) => s.staging.any fun x => x.index == index.toNat
  match w with
  | .empty .recipe index => if staged index then { s with staging := none } else s
  | .full index (.recipe _) => if staged index then { s with staging := none } else s
  | _ => s

/-- TABLE_WRITE in one part (R2). -/
def writeTable1 (w : TableWrite) : Action := fun s =>
  match s.refuseWrite w with
  | some r => (s, r)
  | none => ((s.dropStaging w).takeWrite w, Reply.ok)

/-- The judgement of a first part (R186). -/
def State.refuseFirst (s : State) (index : Word16) (count : Octet) (steps : List StepFields) :
    Option Reply :=
  if TableId.size .recipe ≤ index.toNat then some (Reply.refuse .badIndex)
  else match inUseWhen (s.recipeInUse index.toNat) with
    | some r => some r
    | none => (firstFailure (firstPartChecks count steps)).map ContentFailure.reply

/-- RECIPE_FIRST_PART (R186): the content replaces any staging record. -/
def stageFirst (index : Word16) (count : Octet) (steps : List StepFields) : Action := fun s =>
  match s.refuseFirst index count steps with
  | some r => (s, r)
  | none => ({ s with staging := some ⟨index.toNat, count.toNat, steps⟩ }, Reply.ok)

/-- The staging record that a second part completes (R186): of its index, with as many steps still to
come. -/
def State.stagedFor (s : State) (index : Nat) (carried : Nat) : Option Staging :=
  s.staging.filter fun x => x.index == index && x.count - 6 == carried

/-- RECIPE_SECOND_PART (R186): the staging record is cleared when the part is taken, and when it is refused
with IN_USE or BAD_CONTENT. -/
def completeRecipe (index : Word16) (steps : List StepFields) : Action := fun s =>
  if TableId.size .recipe ≤ index.toNat then (s, Reply.refuse .badIndex)
  else match s.stagedFor index.toNat steps.length with
    | none => (s, Reply.refuse .wrongState)
    | some x =>
      let whole := TableWrite.full index (.recipe (x.steps ++ steps))
      match s.refuseWrite whole with
      | some r => ({ s with staging := none }, r)
      | none => (State.takeWrite whole { s with staging := none }, Reply.ok)

/-- TABLE_READ (R185, R186). -/
def readTable (code : Octet) (index : Word16) (part : Option Octet) : Action := fun s =>
  match tableOfCode code with
  | none => (s, Reply.refuse .badTable)
  | some t =>
    if t.size ≤ index.toNat then (s, Reply.refuse .badIndex)
    else match s.loadedOctets t index.toNat part with
      | none => (s, Reply.refuse .badRequest)
      | some loaded => (s, Reply.read (s.entryOctets t index.toNat loaded))

/-! ### Rounds (R187, R188) -/

/-- ROUND_START (R84, R187). -/
def startAction (slot recipe route cls : Octet) : Action := fun s =>
  match slotAt slot with
  | none => (s, Reply.refuse .badIndex)
  | some k =>
    if 24 ≤ recipe.toNat || 48 ≤ route.toNat then (s, Reply.refuse .badIndex)
    else match RoundClass.ofCode cls with
      | none => (s, Reply.refuse .badRequest)
      | some grade =>
        if (s.round k).state ≠ .idle then
          (s, ⟨.slotBusy, some (s.round k).state.code, none, []⟩)
        else match s.invalid recipe.toNat route.toNat with
          | some f => (s, ⟨.routeInvalid, some f.check, some f.subject, []⟩)
          | none => (s.startRound k recipe.toNat route.toNat grade, Reply.ok)

/-- A round control action (R188): BAD_INDEX for a slot outside 0 to 15, WRONG_STATE with the round's state
where the action gives no outcome, OK with the outcome otherwise. -/
def control (act : Slot → State → Option State) (slot : Octet) : Action := fun s =>
  match slotAt slot with
  | none => (s, Reply.refuse .badIndex)
  | some k =>
    match act k s with
    | some t => (t, Reply.ok)
    | none => (s, ⟨.wrongState, some (s.round k).state.code, none, []⟩)

/-- PAUSE of a round in STEP_FILL or STEP_TIMING (R103). -/
def State.suspend (k : Slot) (s : State) : State :=
  let s := s.closeLift k
  let s := match (s.round k).held, s.stepOf k with
    | some st, some step =>
      let s := s.commandDrives st 0 0
      match (s.station st).load.bind fun l => l.valveFor step.medium with
      | some n => s.commandValve n .close
      | none => s
    | _, _ => s
  let s := s.updRound k fun r =>
    { r.pauseTimers with
      resume := some .stepFill
      holdLimit := Timer.start (s.holdLimitOf k) }
  s.enter k .paused

/-- PAUSE (R103). -/
def pauseRound (k : Slot) (s : State) : Option State :=
  match (s.round k).state with
  | .stepFill => some (s.suspend k)
  | .stepTiming => some (s.suspend k)
  | _ => none

/-- RESUME (R104): the fill elapsed time is 0.0 and the windows are cleared; STEP_FILL is entered, or
HOLDING when causes stand. -/
def resumeRound (k : Slot) (s : State) : Option State :=
  match (s.round k).state with
  | .paused =>
    let s := s.updRound k fun r =>
      { r.clearWindows with fill := { r.fill with mode := .paused, elapsed := 0 } }
    some (s.cascade [.fill k false])
  | _ => none

/-- ABORT (R105). -/
def abortRound (k : Slot) (s : State) : Option State :=
  match (s.round k).state with
  | .idle => none
  | .done => none
  | .faulted => none
  | .waitRoute => some (s.abandonWait k)
  | .waitStation => some ((s.leaveQueues k).cascade [.ending k .aborted])
  | .setting => some (s.cascade [.ending k .aborted])
  | .stepFill => some (s.cascade [.ending k .aborted])
  | .stepTiming => some (s.cascade [.ending k .aborted])
  | .paused => some (s.cascade [.ending k .aborted])
  | .holding =>
    if (s.round k).resume = some .ending then some s else some (s.cascade [.ending k .aborted])
  | .ending => some s

/-- RELEASE (R110). -/
def releaseRound (k : Slot) (s : State) : Option State :=
  match (s.round k).state with
  | .faulted =>
    if (s.round k).fault.map (·.cause) = some .segregationBreach then some (s.releaseBreach k)
    else
      let s := s.updRound k fun r => { r with result := some .faultReleased }
      some (s.cascade [.ending k .faultReleased])
  | _ => none

/-- CLEAR (R111). -/
def clearRound (k : Slot) (s : State) : Option State :=
  match (s.round k).state with
  | .done => some ((s.updRound k fun _ => Round.idle).enter k .idle)
  | _ => none

/-- ROUND_CONTROL (R188): an action that is none of the five is BAD_REQUEST, judged after the slot. -/
def controlAction (slot action : Octet) : Action :=
  match action.toNat with
  | 0 => control pauseRound slot
  | 1 => control resumeRound slot
  | 2 => control abortRound slot
  | 3 => control releaseRound slot
  | 4 => control clearRound slot
  | _ => fun s =>
    match slotAt slot with
    | none => (s, Reply.refuse .badIndex)
    | some _ => (s, Reply.refuse .badRequest)

/-- ROUND_READ (R188). A read of a round whose lift progress is DONE uses two free values (log 24). -/
def readRound (slot : Octet) : Action := fun s =>
  match slotAt slot with
  | none => (s, Reply.refuse .badIndex)
  | some k => ({ s with freeCount := s.freeCount + 1 }, Reply.read (s.roundOctets k))

/-! ### Marks (R57 to R62) -/

/-- A request on a segment: BAD_INDEX outside the table and for an empty entry. -/
def onSegment (segment : Octet) (act : Nat → SegmentState → Action) : Action := fun s =>
  match Table.entry s.segments segment.toNat with
  | some e => if segment.toNat < 192 then act segment.toNat e.state s else (s, Reply.refuse .badIndex)
  | none => (s, Reply.refuse .badIndex)

/-- A valve bars a PRODUCT mark of a segment (R58): its other side is CLAIMED, and it is SINGLE_SEAT or has
a route owner. -/
def State.barsMark (s : State) (n : Nat) (v : ValveEntry) : Bool :=
  ((v.sideA == some n && (claimSlot (s.sideState v.sideB)).isSome)
      || (v.sideB == some n && (claimSlot (s.sideState v.sideA)).isSome))
    && (v.kind == .singleSeat || v.owner.isSome)

/-- A mark refused by the segment's state (R57, R184). -/
def markRefused (st : SegmentState) : Reply :=
  match st with
  | .claimed k => ⟨.inUse, none, some k.val, []⟩
  | st => ⟨.wrongState, some st.code, none, []⟩

/-- SEGMENT_MARK PRODUCT (R57, R58). -/
def markProduct (n : Nat) (st : SegmentState) : Action := fun s =>
  match st with
  | .free =>
    match Table.first (fun _ v => s.barsMark n v) s.valves with
    | some v => (s, ⟨.segregation, none, some v, []⟩)
    | none => (s.setSegState n .product, Reply.ok)
  | .product => (s, Reply.ok)
  | st => (s, markRefused st)

/-- SEGMENT_MARK FREE (R57, R60). -/
def markFree (n : Nat) (st : SegmentState) : Action := fun s =>
  match st with
  | .free => (s, Reply.ok)
  | .product => ((s.setSegState n .free).walk, Reply.ok)
  | st => (s, markRefused st)

/-- SEGMENT_MARK (R57): the index, then the mark, then the segment's state. -/
def markAction (segment mark : Octet) : Action :=
  match mark.toNat with
  | 0 => onSegment segment markFree
  | 1 => onSegment segment markProduct
  | _ => onSegment segment fun _ _ => badRequest

/-- SUSPECT_CLEAR (R62). -/
def clearSuspect (n : Nat) (st : SegmentState) : Action := fun s =>
  match st with
  | .suspect _ => ((s.setSegState n .free).walk, Reply.ok)
  | st => (s, ⟨.wrongState, some st.code, none, []⟩)

/-! ### Events (R195, R196) -/

/-- EVENT_FETCH of mode TAKE (R195). -/
def fetchTake (count : Octet) : Action := fun s =>
  if within 1 8 count.toNat then
    let records := s.events.take count.toNat
    let left := s.events.drop count.toNat
    ({ s with events := left, overflow := false, lastFetch := some ⟨records, s.overflow⟩ },
      Reply.read (fetchOctets s.overflow left.length records))
  else (s, Reply.refuse .badRequest)

/-- EVENT_FETCH of mode REPEAT (R196). -/
def fetchRepeat (count : Octet) : Action := fun s =>
  if within 1 8 count.toNat then
    match s.lastFetch with
    | some x => (s, Reply.read (fetchOctets x.overflow s.events.length x.records))
    | none => (s, Reply.read (fetchOctets false s.events.length []))
  else (s, Reply.refuse .badRequest)

/-- EVENT_FETCH (R195): a mode that is neither is BAD_REQUEST. -/
def fetchAction (mode count : Octet) : Action :=
  match mode.toNat with
  | 0 => fetchTake count
  | 1 => fetchRepeat count
  | _ => badRequest

/-! ### RESTART (R189, R204) -/

/-- The lowest slot outside IDLE, DONE and FAULTED (R204). -/
def State.lowestBusy (s : State) : Option Slot :=
  allSlots.find? fun k => s.active k && (s.round k).state != .faulted

/-- Part 1 of R204 for one slot: the segments of a FAULTED round become SUSPECT with cause RESTART. -/
def State.suspectRoute (k : Slot) (s : State) : State :=
  match (s.round k).state, s.routeOf k with
  | .faulted, some r => s.setSegStates r.segments (.suspect .restart)
  | _, _ => s

/-- Part 2 of R204 for one slot: a FAULTED or DONE record returns to the values of R82. -/
def State.dropRound (k : Slot) (s : State) : State :=
  if (s.round k).state = .faulted ∨ (s.round k).state = .done then s.updRound k fun _ => Round.idle
  else s

/-- Part 3 of R204: every owner is cleared, and no position or value is written. -/
def State.dropOwners (s : State) : State :=
  { s with
    valves := Table.each (fun _ v => { v with owner := none }) s.valves
    drives := Table.each (fun _ d => { d with owner := none }) s.drives }

/-- Part 4 of R204: stations FREE, headers STEADY on DRAIN. -/
def State.freeAll (s : State) : State :=
  let s := allStations.foldl (fun s k =>
    s.updStation k fun x => { x with granted := none, linked := false }) s
  allHeaders.foldl (fun s h => s.updHeader h fun x => { Header.empty with load := x.load }) s

/-- Part 5 of R204 (R197): staging record and last fetch cleared, the queue emptied, RESTARTED queued. -/
def State.restarted (s : State) : State :=
  let discarded := s.events.length
  let flag := s.overflow
  let s := { s with staging := none, lastFetch := none, events := [], overflow := false }
  s.offer { s.event .restarted with
    cause := if flag then some .overflow else none
    value := some (.number discarded) }

/-- The effects of RESTART in their order (R204). -/
def State.restartAll (s : State) : State :=
  let s := allSlots.foldl (fun s k => s.suspectRoute k) s
  let s := allSlots.foldl (fun s k => s.dropRound k) s
  s.dropOwners.freeAll.restarted

/-- RESTART (R204). -/
def restartAction : Action := fun s =>
  match s.lowestBusy with
  | some k => (s, ⟨.roundsActive, none, some k.val, []⟩)
  | none => (s.restartAll, Reply.ok)

/-! ### Taking a request (R181, R182) -/

/-- Make an answer (R182): the source is the own address as it stands after the request (R8). -/
def State.answer (frees : Bool) (a : Ask) (r : Reply) (s : State) : State :=
  s.sendU (.answer frees a.source s.config.ownAddress a.tag r)

/-- The judgement of R182: LOADING, BUSY, or the request is taken, performed and answered. -/
def State.takeRequest (a : Ask) (act : Action) (s : State) : State :=
  if s.loader ≠ .ready then s.answer false a (Reply.refuse .loading)
  else if s.bufferHeld then s.answer false a (Reply.refuse .busy)
  else
    let x := act { s with bufferHeld := true }
    x.1.answer true a x.2

/-- A request arrives (log 6): the good frame that carries it is handled, and then ends or restarts the link
silence (R165). -/
def State.requestArrives (a : Ask) (act : Action) (s : State) : State :=
  (State.takeRequest a act { s with rxU := [] }).linkHeard

/-- The action of a request read from a frame (R183). -/
def actionOf : Request → Action
  | .configWrite record => writeConfig record
  | .configRead => readConfig
  | .tableWrite w => writeTable1 w
  | .recipeFirstPart index count steps => stageFirst index count steps
  | .recipeSecondPart index steps => completeRecipe index steps
  | .tableRead table index part => readTable table index part
  | .roundStart slot recipe route cls => startAction slot recipe route cls
  | .roundControl slot action => controlAction slot action
  | .roundRead slot => readRound slot
  | .segmentMark segment mark => markAction segment mark
  | .suspectClear segment => onSegment segment clearSuspect
  | .eventFetch mode count => fetchAction mode count
  | .restart => restartAction

/-- The asker and the action of a good frame addressed to the engine (R182, R183): a kind other than MREQ
and a payload of no form are BAD_REQUEST; an empty payload has tag 0. -/
def frameAsk (f : Frame) : Ask := ⟨f.source, octetAt f.payload 0⟩

/-- The action of such a frame. -/
def frameAction (f : Frame) : Action :=
  if f.kind = kindMreq then
    match parseRequest f.payload with
    | some r => actionOf r
    | none => badRequest
  else badRequest

/-- A frame arrives on port U (R145, R165). -/
def State.arriveU (octets : List Octet) (s : State) : State :=
  match readFrame octets with
  | some f =>
    if f.dest = s.config.ownAddress then s.requestArrives (frameAsk f) (frameAction f)
    else (State.relayGood f octets s).linkHeard
  | none => s.relayBad octets

/-- Drop the frames of port U up to and with the first answer; what that answer frees is the second part. -/
def dropAnswer : List SentU → List SentU × Bool
  | [] => ([], true)
  | .relayed _ :: t => dropAnswer t
  | .answer frees _ _ _ _ :: t => (t, frees)

/-- The last octet of an answer frame leaves port U (R181). The frames before it have left (R147). A BUSY or
LOADING answer frees nothing. -/
def State.answerLeaves (s : State) : State :=
  let x := dropAnswer s.txU
  { s with txU := x.1, bufferHeld := if x.2 then false else s.bufferHeld }

end Sys2Proof.Machine
end

