-- ==== Sys2Proof/Machine/Loader.lean ====
section
/-!
DEFINITION. Power-on and the image load (chapter 11). A loader command carries the octets that the serial
memory acknowledged (log 10); a command outside its phase changes nothing (log 7).
-/

namespace Sys2Proof.Machine

open Sys2Proof

/-- LOADING ends after the event that ends it has been queued (R203). -/
def State.endLoad (s : State) : State := { s with loader := .ready }

/-- Queue IMAGE_BAD with a cause and, for a record, its number, and end LOADING (R200 to R203). -/
def State.imageBad (cause : ImageCause) (record : Option Nat) (s : State) : State :=
  (s.offer { s.event .imageBad with
    cause := some (.image cause), value := record.map .number }).endLoad

/-- Queue IMAGE_LOADED with the number of records applied, and end LOADING (R202, R203). -/
def State.imageLoaded (applied : Nat) (s : State) : State :=
  (s.offer { s.event .imageLoaded with value := some (.number applied) }).endLoad

/-- Every table entry back to empty and the configuration back to its defaults (R202). -/
def State.emptyTables (s : State) : State :=
  { s with
    config := defaultConfig
    nodes := []
    segments := []
    valves := []
    drives := []
    points := []
    stations := Vector.replicate 3 Station.empty
    headers := Vector.replicate 4 Header.empty
    routes := []
    recipes := [] }

/-- A record fails (R202): the tables are emptied before the event is queued. -/
def State.failRecord (cause : ImageCause) (record : Nat) (s : State) : State :=
  s.emptyTables.imageBad cause (some record)

/-- The header has been read, or the memory did not acknowledge it (R200). -/
def State.readHeader (octets : List Octet) (s : State) : State :=
  match octets with
  | marker :: l0 :: l1 :: c0 :: c1 :: _ =>
    if marker = 0xA5 then { s with loader := .firstPass (word16 l0 l1).toNat (word16 c0 c1) }
    else if marker = 0xFF then (s.offer (s.event .imageSkipped)).endLoad
    else s.imageBad .badMarker none
  | _ => s.imageBad .noAnswer none

/-- The first pass ends (R201). An image of length 0 that passes loads no record (R202). -/
def State.endFirstPass (length : Nat) (check : Word16) (octets : List Octet) (s : State) : State :=
  if octets.length < length then s.imageBad .noAnswer none
  else if crc (octets.take length) ≠ check then s.imageBad .badCrc none
  else if length = 0 then s.imageLoaded 0
  else { s with loader := .secondPass length 0 0 }

/-- Apply a record that passes its judgement (R202); none when it fails. -/
def State.applyRecord (r : ImageRecord) (s : State) : Option State :=
  match r with
  | .config c =>
    match s.refuseConfig c with
    | some _ => none
    | none => some { s with config := c }
  | .table w =>
    match s.refuseWrite w with
    | some _ => none
    | none => some (s.takeWrite w)

/-- Judge and apply one record of known length (R202), and go on, or end the load after the last. -/
def State.takeRecord (length position applied n : Nat) (octets : List Octet) (s : State) : State :=
  match (imageRecordOf (octets.take n)).bind fun r => s.applyRecord r with
  | none => s.failRecord .badRecord (applied + 1)
  | some t =>
    if position + n = length then t.imageLoaded (applied + 1)
    else { t with loader := .secondPass length (position + n) (applied + 1) }

/-- One record of the second pass (R202): its end must not lie beyond the length, and the memory must
acknowledge every read of it. A record that fails in both ways is BAD_RECORD (log 38). -/
def State.readRecord (length position applied : Nat) (octets : List Octet) (s : State) : State :=
  let remaining := length - position
  match recordLength (octets.take remaining) with
  | .bad => s.failRecord .badRecord (applied + 1)
  | .more n =>
    if remaining < n then s.failRecord .badRecord (applied + 1)
    else s.failRecord .noAnswer (applied + 1)
  | .exact n =>
    if remaining < n then s.failRecord .badRecord (applied + 1)
    else if octets.length < n then s.failRecord .noAnswer (applied + 1)
    else s.takeRecord length position applied n octets

/-! ### The commands -/

/-- POWER_ON (R199): every block takes its power-on values and the loader enters LOADING. The waiting
commands and the counter of free values are the model's own and stay. -/
def execPowerOn (s : State) : Host.Outcome State Fault Refusal :=
  .next { State.reset with pending := s.pending, freeCount := s.freeCount }

/-- IMAGE_HEADER_READ (R200). -/
def execImageHeaderRead (octets : List Octet) (s : State) : Host.Outcome State Fault Refusal :=
  match s.loader with
  | .awaitHeader => .next (s.readHeader octets)
  | _ => .next s

/-- IMAGE_FIRST_PASS_END (R201). -/
def execImageFirstPassEnd (octets : List Octet) (s : State) : Host.Outcome State Fault Refusal :=
  match s.loader with
  | .firstPass length check => .next (s.endFirstPass length check octets)
  | _ => .next s

/-- IMAGE_RECORD_APPLY (R202). -/
def execImageRecordApply (octets : List Octet) (s : State) : Host.Outcome State Fault Refusal :=
  match s.loader with
  | .secondPass length position applied => .next (s.readRecord length position applied octets)
  | _ => .next s

end Sys2Proof.Machine
end

