-- ==== Sys2Proof/Machine/Requests.lean ====
section
/-!
DEFINITION. The commands of the two ports and of the management unit: frame arrivals, the end of an answer, and
one meaning per request row. A request row is the arrival on port U of the good frame that carries it (log 6).
-/

namespace Sys2Proof.Machine

open Sys2Proof

/-- FRAME_ARRIVAL_U (R145): the octets complete what the port had received. -/
def execFrameArrivalU (octets : List Octet) (s : State) : Host.Outcome State Fault Refusal :=
  .next (State.arriveU (s.rxU ++ octets) { s with rxU := [] })

/-- FRAME_ARRIVAL_F (R146). -/
def execFrameArrivalF (octets : List Octet) (s : State) : Host.Outcome State Fault Refusal :=
  .next (State.arriveF (s.rxF ++ octets) { s with rxF := [] })

/-- ANSWER_SENT (R181). -/
def execAnswerSent (s : State) : Host.Outcome State Fault Refusal := .next s.answerLeaves

/-- CONFIG_WRITE (R6, R8). -/
def execConfigWrite (a : Ask) (record : ConfigRecord) (s : State) : Host.Outcome State Fault Refusal :=
  .next (s.requestArrives a (writeConfig record))

/-- CONFIG_READ (R185). -/
def execConfigRead (a : Ask) (s : State) : Host.Outcome State Fault Refusal :=
  .next (s.requestArrives a readConfig)

/-- TABLE_WRITE (R2). -/
def execTableWrite (a : Ask) (w : TableWrite) (s : State) : Host.Outcome State Fault Refusal :=
  .next (s.requestArrives a (writeTable1 w))

/-- RECIPE_FIRST_PART (R186): its form has six steps (R208), and another count of them is BAD_REQUEST. -/
def execRecipeFirstPart (a : Ask) (index : Word16) (count : Octet) (steps : List StepFields) (s : State) :
    Host.Outcome State Fault Refusal :=
  .next (s.requestArrives a (if steps.length = 6 then stageFirst index count steps else badRequest))

/-- RECIPE_SECOND_PART (R186). -/
def execRecipeSecondPart (a : Ask) (index : Word16) (steps : List StepFields) (s : State) :
    Host.Outcome State Fault Refusal :=
  .next (s.requestArrives a (completeRecipe index steps))

/-- TABLE_READ (R185): a part octet belongs to the recipe table alone (R208). -/
def execTableRead (a : Ask) (table : Octet) (index : Word16) (part : Option Octet) (s : State) :
    Host.Outcome State Fault Refusal :=
  .next (s.requestArrives a
    (if part.isSome = (table == tableCode .recipe) then readTable table index part else badRequest))

/-- ROUND_START (R84, R187). -/
def execRoundStart (a : Ask) (slot recipe route cls : Octet) (s : State) :
    Host.Outcome State Fault Refusal :=
  .next (s.requestArrives a (startAction slot recipe route cls))

/-- PAUSE (R103). -/
def execPause (a : Ask) (slot : Octet) (s : State) : Host.Outcome State Fault Refusal :=
  .next (s.requestArrives a (control pauseRound slot))

/-- RESUME (R104). -/
def execResume (a : Ask) (slot : Octet) (s : State) : Host.Outcome State Fault Refusal :=
  .next (s.requestArrives a (control resumeRound slot))

/-- ABORT (R105). -/
def execAbort (a : Ask) (slot : Octet) (s : State) : Host.Outcome State Fault Refusal :=
  .next (s.requestArrives a (control abortRound slot))

/-- RELEASE (R110). -/
def execRelease (a : Ask) (slot : Octet) (s : State) : Host.Outcome State Fault Refusal :=
  .next (s.requestArrives a (control releaseRound slot))

/-- CLEAR (R111). -/
def execClear (a : Ask) (slot : Octet) (s : State) : Host.Outcome State Fault Refusal :=
  .next (s.requestArrives a (control clearRound slot))

/-- ROUND_READ (R188). -/
def execRoundRead (a : Ask) (slot : Octet) (s : State) : Host.Outcome State Fault Refusal :=
  .next (s.requestArrives a (readRound slot))

/-- SEGMENT_MARK PRODUCT (R58). -/
def execSegmentMarkProduct (a : Ask) (segment : Octet) (s : State) : Host.Outcome State Fault Refusal :=
  .next (s.requestArrives a (onSegment segment markProduct))

/-- SEGMENT_MARK FREE (R60). -/
def execSegmentMarkFree (a : Ask) (segment : Octet) (s : State) : Host.Outcome State Fault Refusal :=
  .next (s.requestArrives a (onSegment segment markFree))

/-- SUSPECT_CLEAR (R62). -/
def execSuspectClear (a : Ask) (segment : Octet) (s : State) : Host.Outcome State Fault Refusal :=
  .next (s.requestArrives a (onSegment segment clearSuspect))

/-- EVENT_FETCH of mode TAKE (R195). -/
def execEventFetchTake (a : Ask) (count : Octet) (s : State) : Host.Outcome State Fault Refusal :=
  .next (s.requestArrives a (fetchTake count))

/-- EVENT_FETCH of mode REPEAT (R196). -/
def execEventFetchRepeat (a : Ask) (count : Octet) (s : State) : Host.Outcome State Fault Refusal :=
  .next (s.requestArrives a (fetchRepeat count))

/-- RESTART (R204). -/
def execRestart (a : Ask) (s : State) : Host.Outcome State Fault Refusal :=
  .next (s.requestArrives a restartAction)

end Sys2Proof.Machine
end

