-- ==== Sys2Proof/Machine/Timers.lean ====
section
/-!
DEFINITION. The commands of the engine's timers, and the tick that finds which have come due. An expiry command
first lets the part time pass that its running timer still lacks (log 4); of a timer that does not run it
changes nothing (log 7).
-/

namespace Sys2Proof.Machine

open Sys2Proof

/-- A running timer reaches its limit, and its effect is made. -/
def State.expire (t : Timer) (effect : State → State) (s : State) : State :=
  if t.mode = .running then effect (s.pass t.lacks) else s

/-! ### Link and nodes -/

/-- LINK_SILENCE_EXPIRY (R164). -/
def execLinkSilenceExpiry (s : State) : Host.Outcome State Fault Refusal :=
  .next (s.expire s.linkTimer State.linkExpires)

/-- NODE_SILENCE_EXPIRY (R162). -/
def execNodeSilenceExpiry (node : NodeId) (s : State) : Host.Outcome State Fault Refusal :=
  match Table.entry s.nodes node.val with
  | some e => .next (s.expire e.silence (State.nodeExpires node.val e.address))
  | none => .next s

/-! ### Rounds -/

/-- TRAVEL_TIMER_EXPIRY (R89). -/
def execTravelTimerExpiry (k : Slot) (s : State) : Host.Outcome State Fault Refusal :=
  .next (s.expire (s.round k).travel fun s =>
    s.cascade [.fault k .travelTimeout ((s.unsettled k).map .valve)])

/-- A waiting round is promoted by one class (R71). -/
def State.promote (k : Slot) (grade : RoundClass) (ageing : Timer) (s : State) : State :=
  let s := s.updRound k fun r => { r with effective := grade, ageing := ageing }
  s.offer { s.event .priorityAged with
    slot := some k
    subject := (s.waitsAt k).map fun st => .station st.val
    value := some (.cls grade) }

/-- The ageing timer of a round expires (R71). -/
def State.age (k : Slot) (s : State) : State :=
  match (s.round k).effective with
  | .c => s.promote k .b (s.ageingFor .b)
  | .b => s.promote k .a Timer.off
  | .a => s.updRound k fun r => { r with ageing := Timer.off }

/-- AGEING_TIMER_EXPIRY (R71). -/
def execAgeingTimerExpiry (k : Slot) (s : State) : Host.Outcome State Fault Refusal :=
  .next (s.expire (s.round k).ageing (State.age k))

/-- FILL_TIMER_EXPIRY (R93). -/
def execFillTimerExpiry (k : Slot) (s : State) : Host.Outcome State Fault Refusal :=
  .next (s.expire (s.round k).fill fun s =>
    s.cascade [.fault k .fillTimeout ((s.fillPoint k).map .point)])

/-- WALL_TIMER_EXPIRY (R94). -/
def execWallTimerExpiry (k : Slot) (s : State) : Host.Outcome State Fault Refusal :=
  .next (s.expire (s.round k).wall fun s => s.cascade [.fault k .stepOvertime none])

/-- The part time an in-spec round still lacks to its hold time (R123). -/
def State.holdLacks (s : State) (k : Slot) : Nat := s.holdTime k - (s.round k).holdAcc

/-- HOLD_TIME_REACHED (R123): in an in-spec round the part time passes that hold accumulated lacks, and step
completion is judged (R95). Out of spec, hold accumulated does not move, and a round that has not reached
its hold time changes nothing. -/
def execHoldTimeReached (k : Slot) (s : State) : Host.Outcome State Fault Refusal :=
  if s.inSpec k then .next ((s.pass (s.holdLacks k)).cascade [.judge k])
  else .next (s.cascade [.judge k])

/-- The lift sequence after the CLOSED phase of a pulse (R97): the next pulse, the first pulse of the next
MIXPROOF valve, or DONE with completion judged. -/
def State.nextPulse (k : Slot) (n pulse : Nat) (s : State) : State :=
  if pulse < ((s.stepOf k).map (·.pulses)).getD 0 then s.startLifted k n (pulse + 1)
  else
    match (s.routeOf k).bind fun r => s.nextMixproof (r.boundary.drop (n + 1)) (n + 1) with
    | some m => s.startLifted k m 1
    | none =>
      (s.updRound k fun r => { r with lift := .done, liftTimer := r.liftTimer.stop }).cascade [.judge k]

/-- The lift timer of a round reaches the lift length (R97). -/
def State.liftElapses (k : Slot) (s : State) : State :=
  match (s.round k).state, (s.round k).lift with
  | .stepTiming, .active n pulse .lifted => s.startClosed k n pulse
  | .stepTiming, .active n pulse .closed => s.nextPulse k n pulse
  | _, _ => s

/-- LIFT_TIMER_EXPIRY (R97). -/
def execLiftTimerExpiry (k : Slot) (s : State) : Host.Outcome State Fault Refusal :=
  .next (s.expire (s.round k).liftTimer (State.liftElapses k))

/-- HOLD_LIMIT_EXPIRY (R102). -/
def execHoldLimitExpiry (k : Slot) (s : State) : Host.Outcome State Fault Refusal :=
  .next (s.expire (s.round k).holdLimit fun s => s.cascade [.fault k .holdTooLong none])

/-- DRAIN_HOLD_ELAPSE (R107). -/
def execDrainHoldElapse (k : Slot) (s : State) : Host.Outcome State Fault Refusal :=
  .next (s.expire (s.round k).drainHold fun s =>
    if (s.round k).state = .ending then s.finishRound k else s)

/-- DRAIN_MAXIMUM_EXPIRY (R107). -/
def execDrainMaximumExpiry (k : Slot) (s : State) : Host.Outcome State Fault Refusal :=
  .next (s.expire (s.round k).drainMax fun s =>
    s.cascade [.fault k .drainOvertime ((s.headerLoadOf k).map fun l => .point l.flow)])

/-! ### Headers and the scan -/

/-- INTERFACE_OUT_HOLD_ELAPSE (R133). -/
def execInterfaceOutHoldElapse (h : HeaderId) (s : State) : Host.Outcome State Fault Refusal :=
  if (s.header h).interface = .interfaceOut then .next (s.expire (s.header h).hold (State.takePending h))
  else .next s

/-- INTERFACE_IN_HOLD_ELAPSE (R135). -/
def execInterfaceInHoldElapse (h : HeaderId) (s : State) : Host.Outcome State Fault Refusal :=
  if (s.header h).interface = .interfaceIn then .next (s.expire (s.header h).hold (State.finishIn h))
  else .next s

/-- INTERFACE_MAXIMUM_EXPIRY (R136). -/
def execInterfaceMaximumExpiry (h : HeaderId) (s : State) : Host.Outcome State Fault Refusal :=
  .next (s.expire (s.header h).maximum (State.interfaceLong h))

/-- VISIT_TIMER_EXPIRY (R169). What an earlier visit has handed over arrives before it at the latest (log 42). -/
def execVisitTimerExpiry (s : State) : Host.Outcome State Fault Refusal :=
  .next (s.takeHanded.expire s.visitTimer State.scan)

/-! ### The tick (log 3) -/

/-- A command, when its timer is due. -/
def whenDue (t : Timer) (c : Instr) : List Instr := if t.due then [c] else []

/-- The node silence expiries that have come due. -/
def State.dueNodes (s : State) : List Instr :=
  s.nodes.filterMap fun x =>
    if h : x.1 < 64 then if x.2.silence.due then some (.nodeSilenceExpiry ⟨x.1, h⟩) else none else none

/-- The expiries of a round that have come due; HOLD_TIME_REACHED when its step is complete (R95). -/
def State.dueRound (s : State) (k : Slot) : List Instr :=
  let r := s.round k
  whenDue r.travel (.travelTimerExpiry k) ++ whenDue r.ageing (.ageingTimerExpiry k)
    ++ whenDue r.fill (.fillTimerExpiry k) ++ whenDue r.wall (.wallTimerExpiry k)
    ++ (if s.stepComplete k then [.holdTimeReached k] else [])
    ++ whenDue r.liftTimer (.liftTimerExpiry k) ++ whenDue r.holdLimit (.holdLimitExpiry k)
    ++ whenDue r.drainHold (.drainHoldElapse k) ++ whenDue r.drainMax (.drainMaximumExpiry k)

/-- The expiries of a header that have come due. -/
def State.dueHeader (s : State) (h : HeaderId) : List Instr :=
  let x := s.header h
  (match x.interface with
    | .interfaceOut => whenDue x.hold (.interfaceOutHoldElapse h)
    | .interfaceIn => whenDue x.hold (.interfaceInHoldElapse h)
    | .steady => [])
    ++ whenDue x.maximum (.interfaceMaximumExpiry h)

/-- Every expiry that has come due. -/
def State.dueCommands (s : State) : List Instr :=
  whenDue s.linkTimer .linkSilenceExpiry ++ s.dueNodes ++ allSlots.flatMap s.dueRound
    ++ allHeaders.flatMap s.dueHeader ++ whenDue s.visitTimer .visitTimerExpiry

/-- The command of least rank among some commands, the earliest among equals. -/
def leastRanked (rank : Instr → Nat) (c : Instr) : List Instr → Instr
  | [] => c
  | d :: t => leastRanked rank (if rank d < rank c then d else c) t

/-- What the engine does with no command waiting (log 3). What the scan has handed over arrives first (log 42). When expiries have come due, one of them joins the
queue, in an order that is free (log 5); the others are looked at again after it has been taken. When none
is due, one millisecond passes. -/
def State.tick (s : State) : State :=
  match s.handed, s.dueCommands with
  | _ :: _, _ => s.takeHanded
  | [], [] => s.pass 1
  | [], c :: t =>
    { s with
      pending := s.pending ++ [leastRanked (Config.raceRank s.freeCount) c t]
      freeCount := s.freeCount + 1 }

end Sys2Proof.Machine
end

