-- ==== Sys2Proof/Machine/Dispatch.lean ====
section
/-!
DEFINITION. One arm per command: the meaning of each constructor of `Instr`.
-/

namespace Sys2Proof.Machine

open Sys2Proof

/-- The effect of a command on everything but the queue of waiting commands. -/
def exec (i : Instr) (s : State) : Host.Outcome State Fault Refusal :=
  match i with
  | .powerOn => Sys2Proof.Machine.execPowerOn s
  | .imageHeaderRead octets => Sys2Proof.Machine.execImageHeaderRead octets s
  | .imageFirstPassEnd octets => Sys2Proof.Machine.execImageFirstPassEnd octets s
  | .imageRecordApply octets => Sys2Proof.Machine.execImageRecordApply octets s
  | .frameArrivalU octets => Sys2Proof.Machine.execFrameArrivalU octets s
  | .frameArrivalF octets => Sys2Proof.Machine.execFrameArrivalF octets s
  | .linkSilenceExpiry => Sys2Proof.Machine.execLinkSilenceExpiry s
  | .nodeSilenceExpiry node => Sys2Proof.Machine.execNodeSilenceExpiry node s
  | .answerSent => Sys2Proof.Machine.execAnswerSent s
  | .configWrite ask record => Sys2Proof.Machine.execConfigWrite ask record s
  | .configRead ask => Sys2Proof.Machine.execConfigRead ask s
  | .tableWrite ask write => Sys2Proof.Machine.execTableWrite ask write s
  | .recipeFirstPart ask index count steps => Sys2Proof.Machine.execRecipeFirstPart ask index count steps s
  | .recipeSecondPart ask index steps => Sys2Proof.Machine.execRecipeSecondPart ask index steps s
  | .tableRead ask table index part => Sys2Proof.Machine.execTableRead ask table index part s
  | .roundStart ask slot recipe route cls => Sys2Proof.Machine.execRoundStart ask slot recipe route cls s
  | .pause ask slot => Sys2Proof.Machine.execPause ask slot s
  | .resume ask slot => Sys2Proof.Machine.execResume ask slot s
  | .abort ask slot => Sys2Proof.Machine.execAbort ask slot s
  | .release ask slot => Sys2Proof.Machine.execRelease ask slot s
  | .clear ask slot => Sys2Proof.Machine.execClear ask slot s
  | .roundRead ask slot => Sys2Proof.Machine.execRoundRead ask slot s
  | .segmentMarkProduct ask segment => Sys2Proof.Machine.execSegmentMarkProduct ask segment s
  | .segmentMarkFree ask segment => Sys2Proof.Machine.execSegmentMarkFree ask segment s
  | .suspectClear ask segment => Sys2Proof.Machine.execSuspectClear ask segment s
  | .eventFetchTake ask count => Sys2Proof.Machine.execEventFetchTake ask count s
  | .eventFetchRepeat ask count => Sys2Proof.Machine.execEventFetchRepeat ask count s
  | .restart ask => Sys2Proof.Machine.execRestart ask s
  | .travelTimerExpiry slot => Sys2Proof.Machine.execTravelTimerExpiry slot s
  | .ageingTimerExpiry slot => Sys2Proof.Machine.execAgeingTimerExpiry slot s
  | .fillTimerExpiry slot => Sys2Proof.Machine.execFillTimerExpiry slot s
  | .wallTimerExpiry slot => Sys2Proof.Machine.execWallTimerExpiry slot s
  | .holdTimeReached slot => Sys2Proof.Machine.execHoldTimeReached slot s
  | .liftTimerExpiry slot => Sys2Proof.Machine.execLiftTimerExpiry slot s
  | .holdLimitExpiry slot => Sys2Proof.Machine.execHoldLimitExpiry slot s
  | .drainHoldElapse slot => Sys2Proof.Machine.execDrainHoldElapse slot s
  | .drainMaximumExpiry slot => Sys2Proof.Machine.execDrainMaximumExpiry slot s
  | .interfaceOutHoldElapse header => Sys2Proof.Machine.execInterfaceOutHoldElapse header s
  | .interfaceInHoldElapse header => Sys2Proof.Machine.execInterfaceInHoldElapse header s
  | .interfaceMaximumExpiry header => Sys2Proof.Machine.execInterfaceMaximumExpiry header s
  | .visitTimerExpiry => Sys2Proof.Machine.execVisitTimerExpiry s

end Sys2Proof.Machine
end

