-- ==== Sys2Proof/Machine/Step.lean ====
section
/-!
DEFINITION. One step of the engine: the command at the front of the queue, or a tick when none waits (log 3).
-/

namespace Sys2Proof.Machine

open Sys2Proof

/-- One step: the front command is taken from the queue and carried out; with no command waiting the engine
ticks. -/
def step (s : State) : Host.Outcome State Fault Refusal :=
  match s.pending with
  | c :: rest => exec c { s with pending := rest }
  | [] => .next s.tick

/-- The state with the command that a word spells put at the front of its queue; unchanged when the word
spells none. -/
def State.withFetchWord (s : State) (nbits w : Nat) : State :=
  match decodeTableWord nbits w with
  | some c => { s with pending := c :: s.pending }
  | none => s

end Sys2Proof.Machine
end

