-- ==== Sys2Proof/Safety.lean ====
section
/-!
DEFINITION. The vocabulary of the statements: what a taken request leaves beside its own effect, what the
work of the sequencer leaves alone, what a reply carries, what a return from HOLDING does, the power-on values of a
round record, and the invariants.
-/

namespace Sys2Proof.Machine

open Sys2Proof

/-! ### Requests -/

/-- A request that arrives now is taken (R182), and no link silence stands (R165). -/
def State.listens (s : State) : Prop := s.loader = .ready ∧ s.bufferHeld = false ∧ s.linkSilent = false

/-- A request is taken: the port has received its frame whole, and the buffer is held (R182). -/
def State.opened (s : State) : State := { s with rxU := [], bufferHeld := true }

/-- The answer of a taken request is placed on port U (R182), and its frame, a good frame on U, restarts the
link silence timer (R164). -/
def State.closing (a : Ask) (r : Reply) (s : State) : State :=
  { s with
    txU := s.txU ++ [.answer true a.source s.config.ownAddress a.tag r]
    linkTimer := ⟨.running, 0, s.config.linkSilence.toNat⟩ }

/-- The answer to a request that is not taken (R182): the buffer is left as it is. -/
def State.turnedAway (a : Ask) (code : AnswerCode) (s : State) : State :=
  { s with
    rxU := []
    txU := s.txU ++ [.answer false a.source s.config.ownAddress a.tag ⟨code, none, none, []⟩]
    linkTimer := ⟨.running, 0, s.config.linkSilence.toNat⟩ }

/-- A recipe step as it is stored and read back: the pump speed of an AIR step is 0 (R29), and criterion slots
beyond the count are zero (R208). -/
def storedStep (f : StepFields) : StepFields :=
  let zero : CriterionFields := ⟨0, 0, 0, 0, 0⟩
  { f with
    pump := if f.medium = 0x05 then 0 else f.pump
    crit1 := if 1 ≤ f.count.toNat then f.crit1 else zero
    crit2 := if 2 ≤ f.count.toNat then f.crit2 else zero
    crit3 := if 3 ≤ f.count.toNat then f.crit3 else zero }

/-- An entry as it is stored and read back. -/
def storedContent : Content → Content
  | .recipe steps => .recipe (steps.map storedStep)
  | content => content

/-! ### The image -/

/-- The octets of an image record (R209). -/
def recordOctets : ImageRecord → List Octet
  | .config c => 0x00 :: configOctets c
  | .table w => (requestOctets (.tableWrite w)).drop 1

/-- The record has a form R209 gives: a table code that names a table, and lists that a count octet can
introduce. -/
def ImageRecord.wf : ImageRecord → Bool
  | .config _ => true
  | .table (.unknown _) => false
  | .table (.empty _ _) => true
  | .table (.full _ (.route f)) =>
    listFits f.segments && listFits f.setting && listFits f.boundary && listFits f.stations
  | .table (.full _ (.recipe steps)) => listFits steps
  | .table (.full _ _) => true

/-- A record with kind and time alone (R190). -/
def bareEvent (k : EventKind) (time : PartTime) : Event := ⟨k, time, none, none, none, none, none⟩

/-- The ROUND_STATE of a round that enters a state (R112): DONE carries the result. -/
def roundStateEvent (k : Slot) (st : RoundState) (result : Option RoundResult) (time : PartTime) : Event :=
  { bareEvent .roundState time with
    slot := some k, cause := result.map .result, value := some (.state st) }

/-! ### Frames -/

/-- A valve entry without the fields a round writes: owner, commanded position, time of last change. -/
def ValveEntry.untouched (v : ValveEntry) : ValveEntry :=
  { v with owner := none, commanded := none, changed := none }

/-- A drive entry without the fields a round writes: owner and commanded value. -/
def DriveEntry.untouched (d : DriveEntry) : DriveEntry := { d with owner := none, commanded := none }

/-- The work of the sequencer, the station arbiter and the header controller leaves alone everything but the
round records, the grant state of stations, the dynamic fields of headers, the owners and commanded
positions and values of actuators, and the event queue. -/
def sequencerFrame (s t : State) : Prop :=
  t = { s with
    valves := t.valves, drives := t.drives, stations := t.stations, headers := t.headers
    rounds := t.rounds, events := t.events, overflow := t.overflow }
  ∧ t.valves.map (fun x => (x.1, x.2.untouched)) = s.valves.map (fun x => (x.1, x.2.untouched))
  ∧ t.drives.map (fun x => (x.1, x.2.untouched)) = s.drives.map (fun x => (x.1, x.2.untouched))
  ∧ (∀ st, (t.station st).load = (s.station st).load)
  ∧ ∀ h, (t.header h).load = (s.header h).load

/-- With the claim arbiter at work too, the segment states and the route claim queue may change. -/
def arbiterFrame (s t : State) : Prop :=
  sequencerFrame { s with segments := t.segments, claimQueue := t.claimQueue } t
  ∧ t.segments.map (fun x => (x.1, { x.2 with state := SegmentState.free }))
    = s.segments.map (fun x => (x.1, { x.2 with state := SegmentState.free }))

/-! ### Replies -/

/-- The reply of an instrument head carries a point, and leaves its entry as `p` (R157, R159); `t` is the state after
the reply. -/
def State.carriesPoint (t : State) (e : NodeEntry) (l : List (Nat × Quality × Nat)) (n : Nat) (p : PointEntry) :
    Prop :=
  Table.entry t.points n = some p ∧ p.node = e.address ∧ p.channel ∈ l.map (·.1)

/-- The reply carries a GOOD sample of a round's fill point at or above the route's fill flow minimum (R92). -/
def State.completesFill (s t : State) (e : NodeEntry) (l : List (Nat × Quality × Nat)) (k : Slot) : Prop :=
  ∃ r n p v, s.routeOf k = some r ∧ s.fillPoint k = some n ∧ t.carriesPoint e l n p
    ∧ p.quality = .good ∧ p.value = some v ∧ r.fillFlow ≤ v

/-- Every valve that SETTING judges shows its position (R88). -/
def State.showsSettled (t : State) (r : Route) : Prop :=
  (∀ i ∈ r.setting, (Table.entry t.valves i.valve).map (·.feedback) = some (if i.opened then .open else .closed))
  ∧ ∀ b ∈ r.boundary, (Table.entry t.valves b.valve).map (·.feedback) = some .closed

/-! ### The return from HOLDING (R101) -/

/-- Parts 1 and 2 of R91, from `s` to `t`: the medium valves of the held station, the entry valve, the pump and the
heater, each where no diverter valve of the round's header is concerned. -/
def State.supplied (k : Slot) (st : StationId) (l : StationLoad) (step : RecipeStep) (s t : State) : Prop :=
  let commanded := fun (n : Nat) (x : Position) =>
    (∀ h y, (s.round k).header = some h → (s.header h).load = some y → n ∉ y.diverters) →
      ∀ v, Table.entry s.valves n = some v → (Table.entry t.valves n).map (·.commanded) = some (some x)
  (∀ n, l.valveFor step.medium = some n → commanded n .open)
  ∧ (∀ n ∈ l.mediumValves, l.valveFor step.medium ≠ some n → commanded n .close)
  ∧ (∀ n, s.entryValveOf k st = some n → n ∉ l.mediumValves → commanded n .open)
  ∧ (∀ d, Table.entry s.drives l.pump = some d → l.heater ≠ some l.pump →
    Table.entry t.drives l.pump = some { d with commanded := some step.pump })
  ∧ ∀ n d, l.heater = some n → Table.entry s.drives n = some d →
    Table.entry t.drives n = some { d with commanded := some (step.heater.getD 0) }

/-- A round that returns to STEP_TIMING, or to STEP_FILL in an AIR step, with its step complete already (R95). -/
def State.completesOnReturn (s : State) (k : Slot) : Prop :=
  ((s.round k).resume = some .stepTiming
    ∨ (s.round k).resume = some .stepFill ∧ ∃ step, s.stepOf k = some step ∧ step.medium = .air)
  ∧ s.holdTime k ≤ (s.round k).holdAcc ∧ (s.round k).lift = .done

/-- STEP_TIMING entered again by a round (R95, R98, R101), from `s` to `t`: windows cleared, wall timer running on,
and the lift sequence at its current valve, pulse 1, LIFTED. -/
def State.timedAgain (k : Slot) (s t : State) : Prop :=
  let r := s.round k
  let x := t.round k
  x.state = .stepTiming ∧ x.resume = none ∧ x.causes = ⟨false, []⟩ ∧ x.holdLimit.mode = .stopped
  ∧ x.holdAcc = r.holdAcc ∧ x.held = r.held ∧ x.step = r.step
  ∧ x.criteria = r.criteria.map (fun c => { c with window := [] })
  ∧ (r.lift = .done → x.lift = .done)
  ∧ ∀ n p ph, r.lift = .active n p ph → x.lift = .active n 1 .lifted
    ∧ (∀ step, s.stepOf k = some step → x.liftTimer = ⟨.running, 0, 100 * step.liftLength⟩)
    ∧ ∀ route b v, s.routeOf k = some route → route.boundary[n]? = some b → Table.entry s.valves b.valve = some v →
      (Table.entry t.valves b.valve).map (·.commanded)
        = some (some (match b.outer with | .a => .liftB | .b => .liftA))

/-- R101's table: what a round in HOLDING whose last cause is gone returns to, from `s` to `t`. -/
def State.returned (k : Slot) (s t : State) : Prop :=
  let r := s.round k
  let base : Round :=
    { r with resume := none, causes := ⟨false, []⟩, holdLimit := { r.holdLimit with mode := .stopped } }
  (r.resume = some .setting → t.round k = { base with state := .setting, travel := r.travel.runOn })
  ∧ (r.resume = some .ending →
    t.round k = { base with state := .ending, drainHold := r.drainHold.runOn, drainMax := r.drainMax.runOn })
  ∧ (r.resume = some .stepTiming → s.timedAgain k t ∧ (t.round k).wall = r.wall.runOn
    ∧ (t.round k).fill = { r.fill with mode := .stopped })
  ∧ ∀ st l step, r.resume = some .stepFill → r.held = some st → (s.station st).load = some l →
    s.stepOf k = some step →
    (step.medium ≠ .air → s.supplied k st l step t
      ∧ (r.supplyBegun = true → t.round k = { base with
        state := .stepFill, wall := r.wall.runOn, fill := ⟨.running, r.fill.elapsed, 1000 * step.fillLimit⟩ })
      ∧ (r.supplyBegun = false → (t.station st).linked = false ∧ t.round k = { base with
        state := .stepFill, wet := true, supplyBegun := true, linked := false
        wall := ⟨.running, 0, 1000 * step.wallLimit⟩
        fill := ⟨.running, r.fill.elapsed, 1000 * step.fillLimit⟩ }))
    ∧ (step.medium = .air → s.timedAgain k t ∧ (t.round k).fill = ⟨.stopped, 0, 1000 * step.fillLimit⟩
      ∧ (t.round k).supplyBegun = true ∧ (r.lift = .done → s.supplied k st l step t))

/-! ### Rounds -/

/-- A record holds the values R82 names: IDLE, optional fields absent, flags clear, timers stopped at 0.0, no
hold cause, no window. -/
def Round.asAtPowerOn (r : Round) : Prop :=
  r.state = .idle ∧ r.startTime = none ∧ r.endTime = none ∧ r.result = none ∧ r.fault = none
  ∧ r.held = none ∧ r.resume = none ∧ r.override = false ∧ r.wet = false ∧ r.supplyBegun = false
  ∧ r.linked = false ∧ r.travel = Timer.off ∧ r.fill = Timer.off ∧ r.wall = Timer.off ∧ r.holdAcc = 0
  ∧ r.holdLimit = Timer.off ∧ r.drainHold = Timer.off ∧ r.drainMax = Timer.off ∧ r.liftTimer = Timer.off
  ∧ r.causes = ⟨false, []⟩ ∧ r.criteria = []

/-- A round stands in no queue. -/
def State.unqueued (s : State) (k : Slot) : Prop :=
  k ∉ s.claimQueue ∧ ∀ st, k ∉ (s.station st).queue

/-- A round is FAULTED with a fault record, and holds what R83 and R108 leave it: no station, no hold cause, no
resume state, no criterion state, no running timer. -/
def Round.faultedWith (r : Round) (f : FaultRecord) : Prop :=
  r.state = .faulted ∧ r.fault = some f ∧ r.held = none ∧ r.linked = false ∧ r.causes = ⟨false, []⟩
  ∧ r.resume = none ∧ r.criteria = [] ∧ r.travel.mode = .stopped ∧ r.fill.mode = .stopped
  ∧ r.wall.mode = .stopped ∧ r.liftTimer.mode = .stopped ∧ r.holdLimit.mode = .stopped
  ∧ r.drainHold.mode = .stopped ∧ r.drainMax.mode = .stopped ∧ r.ageing.mode = .stopped

/-! ### Invariants -/

/-- The entries of a table stand at rising indexes within its range. -/
def tableFits {α : Type} (size : Nat) (t : Table α) : Prop := Table.wf t = true ∧ ∀ x ∈ t, x.1 < size

/-- Two entries of a table that answer alike are one entry (DUPLICATE, R3). -/
def distinctBy {α β : Type} (f : α → β) (t : Table α) : Prop :=
  ∀ x ∈ t, ∀ y ∈ t, f x.2 = f y.2 → x.1 = y.1

/-- Every loaded table is in its canonical form and within its index range (chapters 1 and 2), and no two
entries of one table hold the same node address, node and slot, or node and channel (R9, R14, R17, R19). -/
def State.tablesCanonical (s : State) : Prop :=
  tableFits 64 s.nodes ∧ tableFits 192 s.segments ∧ tableFits 512 s.valves ∧ tableFits 32 s.drives
  ∧ tableFits 128 s.points ∧ tableFits 48 s.routes ∧ tableFits 24 s.recipes
  ∧ distinctBy NodeEntry.address s.nodes
  ∧ distinctBy (fun v => (ValveEntry.node v, v.slot)) s.valves
  ∧ distinctBy (fun d => (DriveEntry.node d, d.channel)) s.drives
  ∧ distinctBy (fun p => (PointEntry.node p, p.channel)) s.points

/-- A header's timers and pending target agree with its interface state (R129, R23): the maximum runs, and a
target is pending, exactly while an interface runs; a STEADY header's hold does not run. -/
def Header.sound (x : Header) : Prop :=
  (x.pending.isSome = true ↔ x.interface ≠ .steady)
  ∧ (x.maximum.mode = .running ↔ x.interface ≠ .steady)
  ∧ (x.interface = .steady → x.hold.mode ≠ .running)

/-- Every header is sound. -/
def State.headersSound (s : State) : Prop := ∀ h, (s.header h).sound

/-- A valve with PRODUCT on one side and CLAIMED on the other is MIXPROOF (R56). -/
def State.productApart (s : State) : Prop :=
  ∀ x ∈ s.valves,
    (s.sideState x.2.sideA = some .product ∧ (claimSlot (s.sideState x.2.sideB)).isSome = true
      ∨ s.sideState x.2.sideB = some .product ∧ (claimSlot (s.sideState x.2.sideA)).isSome = true) →
    x.2.kind = .mixproof

/-- The bounds the manual gives: 64 event records (R193), miss counts below 2 between events (R173), every
drive's minimum not above its maximum (R17), the configuration record within R6. -/
def State.bounded (s : State) : Prop :=
  s.events.length ≤ 64 ∧ (∀ x ∈ s.valves, x.2.misses ≤ 1) ∧ (∀ x ∈ s.drives, x.2.minimum ≤ x.2.maximum)
  ∧ configFailure s.config = none

end Sys2Proof.Machine
end

