-- ==== Sys2Proof/Certificates/Slice0/Obligations.lean ====
section
/-!
DEFINITION. The statements for the provers, in the order of OBLIGATIONS.json: the step, power-on and the
encodings; the image load; the frame path; the management requests; the timers; the invariants and the laws of
the queues.
-/

open Sys2Proof Sys2Proof.Machine

/-! ### The step, power-on and the encodings -/

/-- A step with a command waiting is that command's meaning, on the state with the queue's rest. -/
def Obligations.StepTakesFront : Prop :=
  ∀ (c : Instr) (rest : List Instr) (s : State), s.pending = c :: rest →
    step s = exec c { s with pending := rest }

/-- MODEL'S CHOICE (log 3, log 5, log 42). With no command waiting: what the proof scan has handed over and is still
on its way arrives; with nothing on its way, while an expiry is due, one of the due ones joins the queue and no time
passes; otherwise one millisecond passes (R1), every running timer counts it, and nothing else happens. -/
def Obligations.IdleStepIsATick : Prop :=
  ∀ s : State, s.pending = [] →
    (s.handed ≠ [] → step s = .next s.takeHanded)
    ∧ (s.handed = [] → s.dueCommands ≠ [] → ∃ c ∈ s.dueCommands,
      step s = .next { s with pending := [c], freeCount := s.freeCount + 1 })
    ∧ (s.handed = [] → s.dueCommands = [] → ∃ t : State, step s = .next t
      ∧ t = { s with
          partTime := s.partTime + 1
          linkTimer := s.linkTimer.count 1
          visitTimer := s.visitTimer.count 1
          nodes := Table.each (fun _ e => { e with silence := e.silence.count 1 }) s.nodes
          headers := t.headers
          rounds := t.rounds }
      ∧ (∀ h, t.header h = { s.header h with
          hold := (s.header h).hold.count 1
          maximum := (s.header h).maximum.count 1 })
      ∧ ∀ k, t.round k = { (s.round k).count 1 with
          holdAcc := if s.inSpec k then max (s.round k).holdAcc (min ((s.round k).holdAcc + 1) (s.holdTime k))
            else (s.round k).holdAcc })

/-- The state right after power-on (R199 and the rules its table names). MODEL'S CHOICE (log 42): nothing is on its way
from the proof scan. -/
def Obligations.ResetState : Prop :=
  State.reset.partTime = 0
  ∧ State.reset.config = ⟨250, 500, 300, 50, 50, 600, 900, 500, 300, 30, 120, 200, 100, 300, 0⟩
  ∧ State.reset.nodes = [] ∧ State.reset.segments = [] ∧ State.reset.valves = [] ∧ State.reset.drives = []
  ∧ State.reset.points = [] ∧ State.reset.routes = [] ∧ State.reset.recipes = []
  ∧ (∀ st, State.reset.station st = ⟨none, none, false, []⟩)
  ∧ (∀ h, State.reset.header h = ⟨none, .drain, none, .steady, ⟨.stopped, 0, 0⟩, ⟨.stopped, 0, 0⟩⟩)
  ∧ (∀ k, (State.reset.round k).asAtPowerOn) ∧ State.reset.claimQueue = []
  ∧ State.reset.linkTimer.mode = .stopped ∧ State.reset.linkSilent = false ∧ State.reset.rxU = []
  ∧ State.reset.rxF = [] ∧ State.reset.scanPointer = none ∧ State.reset.visitTimer = ⟨.running, 0, 50⟩
  ∧ State.reset.handed = []
  ∧ State.reset.bufferHeld = false ∧ State.reset.staging = none ∧ State.reset.events = []
  ∧ State.reset.overflow = false ∧ State.reset.lastFetch = none ∧ State.reset.loader = .awaitHeader

/-- POWER_ON gives every block its power-on values (R199), whatever the state; the waiting commands and the
counter of free values, the model's own fields, stay. -/
def Obligations.PowerOnResets : Prop :=
  ∀ s : State, exec .powerOn s = .next { State.reset with pending := s.pending, freeCount := s.freeCount }

/-- A frame is good exactly when it is some fields of at most 240 payload octets sealed (R144, R206). -/
def Obligations.GoodFramesAreSealedFields : Prop :=
  ∀ (l : List Octet) (f : Frame), readFrame l = some f ↔ f.payload.length ≤ 240 ∧ l = f.seal

/-- Every request of a form R208 gives is read back from its octets, with every operand at every value. -/
def Obligations.RequestsReadBack : Prop :=
  ∀ (tag : Octet) (r : Request), r.wf = true → parseRequest (tag :: requestOctets r) = some r

/-- A management request that arrives on port U as a good frame to the own address is the request's command
(R145, R182, R183), for every well-formed request of the table. That the row is the frame's arrival is the MODEL'S
reading of the table (log 6, DEDUCED). -/
def Obligations.RequestFrameIsItsCommand : Prop :=
  ∀ (i : Instr) (a : Ask) (r : Request) (s : State) (octets : List Octet),
    i.request? = some (a, r) → i.wf = true →
    s.rxU ++ octets = (requestFrame s.config.ownAddress a r).seal →
    exec (.frameArrivalU octets) s = exec i s

/-- R6's judgement of a configuration record: it passes exactly when every field lies in its range and the mask
names none of FAULT, SEGREGATION_BREACH, IMAGE_BAD and RESTARTED, the kinds at positions 3, 10, 19 and 20. A
record whose fields pass and whose mask does not is UNMASKABLE. -/
def Obligations.ConfigRecordJudgement : Prop :=
  ∀ c : ConfigRecord,
    let ranges :=
      240 ≤ c.ownAddress.toNat ∧ c.ownAddress.toNat ≤ 254
      ∧ 100 ≤ c.linkSilence.toNat ∧ c.linkSilence.toNat ≤ 5000
      ∧ 50 ≤ c.nodeSilence.toNat ∧ c.nodeSilence.toNat ≤ 5000
      ∧ (c.visitPeriod = 25 ∨ c.visitPeriod = 50 ∨ c.visitPeriod = 100 ∨ c.visitPeriod = 200)
      ∧ 1 ≤ c.lockTravel.toNat ∧ c.lockTravel.toNat ≤ 600
      ∧ 1 ≤ c.ageB.toNat ∧ c.ageB.toNat ≤ 3600 ∧ 1 ≤ c.ageC.toNat ∧ c.ageC.toNat ≤ 3600
      ∧ 1 ≤ c.causticLimit.toNat ∧ c.causticLimit.toNat ≤ 20000
      ∧ 1 ≤ c.acidLimit.toNat ∧ c.acidLimit.toNat ≤ 20000
      ∧ 1 ≤ c.interfaceHold.toNat ∧ c.interfaceHold.toNat ≤ 600
      ∧ 1 ≤ c.interfaceMax.toNat ∧ c.interfaceMax.toNat ≤ 3600
      ∧ c.drainFlow.toNat ≤ 60000
      ∧ 1 ≤ c.drainHold.toNat ∧ c.drainHold.toNat ≤ 600
      ∧ 1 ≤ c.drainMax.toNat ∧ c.drainMax.toNat ≤ 3600
      ∧ c.eventMask.toNat < 2 ^ 20
    let unmaskable := c.eventMask.getLsbD 2 || c.eventMask.getLsbD 9 || c.eventMask.getLsbD 18
      || c.eventMask.getLsbD 19
    (configFailure c = none ↔ ranges ∧ unmaskable = false)
    ∧ (ranges → unmaskable = true → ∃ n, configFailure c = some ⟨.unmaskable, n⟩)
    ∧ (¬ranges → ∃ n, configFailure c = some ⟨.range, n⟩)

/-! ### The image load -/

/-- IMAGE_HEADER_READ and IMAGE_FIRST_PASS_END (R200, R201). Fewer than the five octets of the header is NO_ANSWER;
otherwise the marker decides, and IMAGE_SKIPPED is not masked while the mask is the default. A memory that stops
acknowledging in the first pass is NO_ANSWER, a CRC that differs is BAD_CRC, and in both nothing has been applied; a
record area that passes is read again, and one of length 0, whose CRC is FFFFh, loads no record. -/
def Obligations.ImageHeaderAndFirstPass : Prop :=
  (∀ (s : State) (octets : List Octet), s.loader = .awaitHeader →
    (octets.length < 5 → exec (.imageHeaderRead octets) s = .next
      { s.offer { bareEvent .imageBad s.partTime with cause := some (.image .noAnswer) } with loader := .ready })
    ∧ (∀ marker l0 l1 c0 c1, octets = [marker, l0, l1, c0, c1] →
      (marker = 0xA5 → exec (.imageHeaderRead octets) s = .next
        { s with loader := .firstPass (l0.toNat + 256 * l1.toNat) (c1 ++ c0) })
      ∧ (marker = 0xFF → exec (.imageHeaderRead octets) s = .next
        { s.offer (bareEvent .imageSkipped s.partTime) with loader := .ready })
      ∧ (marker ≠ 0xA5 → marker ≠ 0xFF → exec (.imageHeaderRead octets) s = .next
        { s.offer { bareEvent .imageBad s.partTime with cause := some (.image .badMarker) } with
          loader := .ready }))
    ∧ (s.config.eventMask = 0 → s.masked .imageSkipped = false))
  ∧ ∀ (s : State) (octets : List Octet) (length : Nat) (check : Word16), s.loader = .firstPass length check →
    (octets.length < length → exec (.imageFirstPassEnd octets) s = .next
      { s.offer { bareEvent .imageBad s.partTime with cause := some (.image .noAnswer) } with loader := .ready })
    ∧ (octets.length = length → crc octets ≠ check → exec (.imageFirstPassEnd octets) s = .next
      { s.offer { bareEvent .imageBad s.partTime with cause := some (.image .badCrc) } with loader := .ready })
    ∧ (octets.length = length → crc octets = check → length ≠ 0 →
      exec (.imageFirstPassEnd octets) s = .next { s with loader := .secondPass length 0 0 })
    ∧ (length = 0 → check = 0xFFFF → octets = [] → exec (.imageFirstPassEnd octets) s = .next
      { s.offer { bareEvent .imageLoaded s.partTime with value := some (.number 0) } with loader := .ready })

/-- IMAGE_RECORD_APPLY (R202, R209). A record read whole and taken by its judgement replaces its entry or the
configuration record, and after the last record of the length IMAGE_LOADED is offered. A record that is refused,
whose end lies beyond the length, or whose read fails empties every table, sets the configuration back to its
defaults and offers IMAGE_BAD with the record's number. -/
def Obligations.ImageRecordApply : Prop :=
  ∀ (s : State) (r : ImageRecord) (more octets : List Octet) (length position applied : Nat),
    s.loader = .secondPass length position applied → r.wf = true →
    let n := (recordOctets r).length
    let refused := match r with
      | .config c => (s.refuseConfig c).isSome
      | .table w => (s.refuseWrite w).isSome
    let taken := match r with
      | .config c => { s with config := c }
      | .table w => s.takeWrite w
    let failed := fun (cause : ImageCause) =>
      let u := { s with
        config := ⟨250, 500, 300, 50, 50, 600, 900, 500, 300, 30, 120, 200, 100, 300, 0⟩
        nodes := [], segments := [], valves := [], drives := [], points := [], routes := [], recipes := []
        stations := Vector.replicate 3 Station.empty, headers := Vector.replicate 4 Header.empty }
      { u.offer { bareEvent .imageBad s.partTime with
          cause := some (.image cause), value := some (.number (applied + 1)) } with loader := .ready }
    (octets = recordOctets r ++ more → position + n < length → refused = false →
      exec (.imageRecordApply octets) s = .next
        { taken with loader := .secondPass length (position + n) (applied + 1) })
    ∧ (octets = recordOctets r ++ more → position + n = length → refused = false →
      exec (.imageRecordApply octets) s = .next
        { taken.offer { bareEvent .imageLoaded taken.partTime with value := some (.number (applied + 1)) } with
          loader := .ready })
    ∧ (octets = recordOctets r ++ more → position + n ≤ length → refused = true →
      exec (.imageRecordApply octets) s = .next (failed .badRecord))
    ∧ (octets = recordOctets r ++ more → length < position + n →
      exec (.imageRecordApply octets) s = .next (failed .badRecord))
    ∧ (octets <+: recordOctets r → octets.length < n → position + n ≤ length →
      exec (.imageRecordApply octets) s = .next (failed .noAnswer))

/-! ### The frame path -/

/-- Frames that neither concern the engine nor can harm the hall are forwarded octet for octet (R145, R146,
R156): on F a bad frame to a node that needs no guarding, a good frame that is no command for a mapped cluster or
drive node, and a command of wrong form to a node that needs no guarding; on U a frame from F that is not tapped.
A bad frame, and a frame on F, leave the link silence timer as it is; a good frame on U restarts it. -/
def Obligations.FramesForwardedUnchanged : Prop :=
  ∀ (s : State) (octets : List Octet),
    (readFrame (s.rxU ++ octets) = none →
      (∀ dest rest, s.rxU ++ octets = dest :: rest → s.needsGuarding dest = false) →
      exec (.frameArrivalU octets) s = .next { s with rxU := [], txF := s.txF ++ [s.rxU ++ octets] })
    ∧ (∀ f, readFrame (s.rxU ++ octets) = some f → f.dest ≠ s.config.ownAddress → s.linkSilent = false →
      (f.kind ≠ kindCmd ∨ s.kindAt f.dest = none ∨ s.kindAt f.dest = some .instrument
        ∨ s.needsGuarding f.dest = false
          ∧ (s.kindAt f.dest = some .valveCluster ∧ valveCommands f.payload = none
            ∨ s.kindAt f.dest = some .drive ∧ driveCommands f.payload = none)) →
      exec (.frameArrivalU octets) s = .next
        { s with
          rxU := []
          txF := s.txF ++ [s.rxU ++ octets]
          linkTimer := ⟨.running, 0, s.config.linkSilence.toNat⟩ })
    ∧ ((readFrame (s.rxF ++ octets)).bind s.tapped = none →
      exec (.frameArrivalF octets) s = .next { s with rxF := [], txU := s.txU ++ [.relayed (s.rxF ++ octets)] })

/-- A good command frame to a mapped valve cluster is settled slot by slot and sealed again (R145, R148 to
R152). An owned valve is forwarded its commanded position, CLOSE when that is NONE; a locked one the lift position
of the one claiming round that lifts it, else CLOSE; any other what the supervisor sent; an untracked slot as it
arrived. A locked valve between PRODUCT and CLAIMED is forwarded nothing but CLOSE and the lift toward the claimed
side (R56); MODEL'S CHOICE (log 35): any other lift goes out to it as CLOSE. The forwarded position, unless KEEP, is
the commanded position afterwards, and a change records the part time. A request other than KEEP is stored, and one
that differs from what an owned valve is forwarded sets the owner's override flag. -/
def Obligations.ClusterFrameSettled : Prop :=
  ∀ (s : State) (octets : List Octet) (f : Frame) (asked : List (Option Position)),
    s.tablesCanonical → readFrame (s.rxU ++ octets) = some f → f.dest ≠ s.config.ownAddress →
    f.kind = kindCmd → s.kindAt f.dest = some .valveCluster → valveCommands f.payload = some asked →
    s.linkSilent = false →
    let allowed := fun (v : ValveEntry) (x : Position) =>
      match s.sideState v.sideA, s.sideState v.sideB with
      | some .product, some (.claimed _) => if x = .liftB then Position.liftB else .close
      | some (.claimed _), some .product => if x = .liftA then .liftA else .close
      | _, _ => x
    ∃ (t : State) (sent : List (Option Position)), exec (.frameArrivalU octets) s = .next t
      ∧ t.txF = s.txF ++ [Frame.seal { f with payload := sent.map positionOctet }]
      ∧ sent.length = 16
      ∧ t = { s with
          rxU := [], txF := t.txF, valves := t.valves, rounds := t.rounds, events := t.events
          overflow := t.overflow, linkTimer := ⟨.running, 0, s.config.linkSilence.toNat⟩ }
      ∧ (∀ k, t.round k = { s.round k with override := (t.round k).override })
      ∧ (∀ n v, Table.entry s.valves n = some v → v.node ≠ f.dest → Table.entry t.valves n = some v)
      ∧ ∀ (slot : Nat) (p q : Option Position), asked[slot]? = some p → sent[slot]? = some q →
        (s.valveAt f.dest slot = none → q = p)
        ∧ ∀ n v, s.valveAt f.dest slot = some n → Table.entry s.valves n = some v →
          (∀ k, v.owner = some k → q = some (v.commanded.getD .close)
            ∧ ((∃ x, p = some x ∧ p ≠ q) → (t.round k).override = true))
          ∧ (s.locked v = true →
            ((∀ k ∈ s.claimSlots v, s.lifting k n = none) → q = some .close)
            ∧ (∀ k x, k ∈ s.claimSlots v → s.lifting k n = some x →
              (∀ j ∈ s.claimSlots v, s.lifting j n ≠ none → j = k) → q = some (allowed v x))
            ∧ (∀ j k, j ∈ s.claimSlots v → k ∈ s.claimSlots v → j ≠ k → s.lifting j n ≠ none →
              s.lifting k n ≠ none → q = some .close))
          ∧ (v.owner = none → s.locked v = false → q = p)
          ∧ Table.entry t.valves n = some { v with
              requested := p.or v.requested
              commanded := q.or v.commanded
              changed := if q = none ∨ q = v.commanded then v.changed else some s.partTime }

/-- A good command frame to a mapped drive node is settled channel by channel (R148, R153). No value forwarded
for a tracked drive lies outside its minimum and maximum; an unowned drive is forwarded the supervisor's value
clamped, an owned one its commanded value clamped; the forwarded value, unless KEEP, is the commanded value
afterwards. A value that differs from what an owned drive is forwarded sets the owner's override flag. MODEL'S CHOICE
(log 20): so does any value for an owned drive that has no commanded value and is forwarded KEEP. -/
def Obligations.DriveFrameSettled : Prop :=
  ∀ (s : State) (octets : List Octet) (f : Frame) (asked : List (Option Nat)),
    s.tablesCanonical → s.bounded → readFrame (s.rxU ++ octets) = some f → f.dest ≠ s.config.ownAddress →
    f.kind = kindCmd → s.kindAt f.dest = some .drive → driveCommands f.payload = some asked →
    s.linkSilent = false →
    ∃ (t : State) (sent : List (Option Nat)), exec (.frameArrivalU octets) s = .next t
      ∧ t.txF = s.txF ++ [Frame.seal { f with payload := sent.flatMap optOctets2 }]
      ∧ sent.length = 4
      ∧ t = { s with
          rxU := [], txF := t.txF, drives := t.drives, rounds := t.rounds, events := t.events
          overflow := t.overflow, linkTimer := ⟨.running, 0, s.config.linkSilence.toNat⟩ }
      ∧ (∀ k, t.round k = { s.round k with override := (t.round k).override })
      ∧ (∀ n d, Table.entry s.drives n = some d → d.node ≠ f.dest → Table.entry t.drives n = some d)
      ∧ ∀ (channel : Nat) (p q : Option Nat), asked[channel]? = some p → sent[channel]? = some q →
        (s.driveAt f.dest channel = none → q = p)
        ∧ ∀ n d, s.driveAt f.dest channel = some n → Table.entry s.drives n = some d →
          (∀ x, q = some x → d.minimum ≤ x ∧ x ≤ d.maximum)
          ∧ (d.owner = none → q = p.map fun x => max d.minimum (min d.maximum x))
          ∧ (∀ k, d.owner = some k → q = d.commanded.map (fun x => max d.minimum (min d.maximum x))
            ∧ ((∃ x, p = some x ∧ p ≠ q) → (t.round k).override = true))
          ∧ Table.entry t.drives n = some { d with
              requested := p.or d.requested, commanded := q.or d.commanded }

/-- Which nodes need guarding (R155), and what happens to a bad frame for one that does not. -/
def Obligations.NodesThatNeedGuarding : Prop :=
  ∀ (s : State) (a : Octet), s.tablesCanonical →
    (s.needsGuarding a = true ↔
      (∃ x ∈ s.nodes, x.2.address = a ∧ x.2.kind = .valveCluster
        ∧ ∃ v ∈ s.valves, v.2.node = a ∧ (v.2.owner ≠ none
          ∨ ∃ n, (v.2.sideA = some n ∨ v.2.sideB = some n)
            ∧ ((∃ k, s.segState n = .claimed k) ∨ ∃ c, s.segState n = .suspect c)))
      ∨ ∃ x ∈ s.nodes, x.2.address = a ∧ x.2.kind = .drive
        ∧ ∃ d ∈ s.drives, d.2.node = a ∧ d.2.owner ≠ none)
    ∧ ∀ rest, s.rxU = [] → readFrame (a :: rest) = none → s.needsGuarding a = false →
      exec (.frameArrivalU (a :: rest)) s = .next { s with txF := s.txF ++ [a :: rest] }

/-- A frame for a node that needs guarding is dropped, and a rebuilt frame goes out in its place (R156), when it is
bad (BAD_CRC), or is a good command frame of wrong form (BAD_FORM). Source 0; each tracked valve's commanded
position, CLOSE when that is NONE; each tracked drive's commanded value clamped, KEEP when absent; KEEP for
untracked slots and channels. MODEL'S CHOICE (log 35): a locked valve between PRODUCT and CLAIMED is no exception.
What is carried is written as commanded (the clamped value: log 21), and a change of
position records the part time; every other field of the valves and drives, every other entry, and what the
supervisor requested, stay. FRAME_REBUILT is offered. A bad frame leaves the link silence timer as it is; a good one
restarts it. -/
def Obligations.BadFrameRebuilt : Prop :=
  ∀ (s : State) (octets : List Octet) (dest : Octet) (rest : List Octet) (cause : RebuildCause),
    s.tablesCanonical → s.rxU ++ octets = dest :: rest → s.needsGuarding dest = true →
    (cause = .badCrc ∧ readFrame (dest :: rest) = none
      ∨ cause = .badForm ∧ s.linkSilent = false ∧ dest ≠ s.config.ownAddress
        ∧ ∃ f, readFrame (dest :: rest) = some f ∧ f.kind = kindCmd
          ∧ (s.kindAt dest = some .valveCluster → valveCommands f.payload = none)
          ∧ (s.kindAt dest = some .drive → driveCommands f.payload = none)) →
    let carries := fun (v : ValveEntry) => v.commanded.getD .close
    let clamped := fun (d : DriveEntry) => d.commanded.map fun x => max d.minimum (min d.maximum x)
    ∃ (t : State) (payload : List Octet), exec (.frameArrivalU octets) s = .next t
      ∧ t.txF = s.txF ++ [Frame.seal ⟨dest, 0, 0x01, payload⟩]
      ∧ (s.kindAt dest = some .valveCluster → payload = (List.range 16).map fun slot =>
        match (s.valveAt dest slot).bind (Table.entry s.valves) with
        | some v => positionOctet (some (carries v))
        | none => 0x00)
      ∧ (s.kindAt dest = some .drive → payload = (List.range 4).flatMap fun channel =>
        match (s.driveAt dest channel).bind (Table.entry s.drives) with
        | some d => optOctets2 (clamped d)
        | none => [0xFF, 0xFF])
      ∧ t = { s with
          rxU := [], txF := t.txF, valves := t.valves, drives := t.drives, events := t.events
          overflow := t.overflow
          linkTimer := if cause = .badCrc then s.linkTimer else ⟨.running, 0, s.config.linkSilence.toNat⟩ }
      ∧ (∀ n, Table.entry t.valves n = (Table.entry s.valves n).map fun v =>
        if s.kindAt dest = some .valveCluster ∧ v.node = dest ∧ v.slot < 16 then { v with
          commanded := some (carries v)
          changed := if v.commanded = some (carries v) then v.changed else some s.partTime }
        else v)
      ∧ (∀ n, Table.entry t.drives n = (Table.entry s.drives n).map fun d =>
        if s.kindAt dest = some .drive ∧ d.node = dest ∧ d.channel < 4 then { d with commanded := clamped d }
        else d)
      ∧ let w := s.offer { bareEvent .frameRebuilt s.partTime with
          subject := (s.nodeIndex dest).map .node
          cause := some (.rebuilt cause)
          value := some (.number dest.toNat) }
        t.events = w.events ∧ t.overflow = w.overflow

/-- A tapped reply (R146, R157 to R159): forwarded on U unchanged; the node's reply time, silent flag and silence
timer set; each tracked valve's position, drive's status and value limited to its range, and point's value written,
BAD at the end of the range when it lies outside. A node that was silent (R163): NODE_BACK first, unless this is its
first reply; NODE_SILENT for it leaves every round, and one held for it alone returns by R101, before the reply is
written and delivered (R158). SETTING (R88, R90), at a cluster's reply: settled, the round begins its step, and with
a station named that is GRANTED waits behind the queue, its lift progress placed; not settled, no round changes.
STEP_FILL (R92): a completing sample brings STEP_TIMING with this reply as first sample of each window it feeds
(R119), unless the step completes at once; any other reply changes nothing. Windows, conductivity, drain hold and
drive fault: CriterionWindows, InterfaceTimers, DrainHoldElapse, FaultCausesTaken. -/
def Obligations.ReplyTapped : Prop :=
  ∀ (s : State) (octets : List Octet) (f : Frame) (i : Nat) (e : NodeEntry) (r : Reading),
    s.tablesCanonical → readFrame (s.rxF ++ octets) = some f → s.tapped f = some (i, e, r) →
    ∃ t : State, exec (.frameArrivalF octets) s = .next t
      ∧ t = { s with
          rxF := [], txU := s.txU ++ [.relayed (s.rxF ++ octets)], nodes := t.nodes, valves := t.valves
          drives := t.drives, points := t.points, stations := t.stations, headers := t.headers
          rounds := t.rounds, events := t.events, overflow := t.overflow }
      ∧ Table.entry t.nodes i = some { e with
          lastReply := some s.partTime
          silent := false
          silence := ⟨.running, 0, s.config.nodeSilence.toNat⟩ }
      ∧ (∀ l slot fb n, r = .valves l → l[slot]? = some fb → s.valveAt e.address slot = some n →
        (Table.entry t.valves n).map (·.feedback) = some fb)
      ∧ (∀ l channel st value n d, r = .drives l → l[channel]? = some (st, value) →
        s.driveAt e.address channel = some n → Table.entry s.drives n = some d →
        (Table.entry t.drives n).map (fun x => (x.status, x.value)) = some (st, some (min value d.kind.top)))
      ∧ (∀ l channel q value n p, r = .points l → (channel, q, value) ∈ l →
        s.pointAt e.address channel = some n → Table.entry s.points n = some p →
        Table.entry t.points n = some (if p.kind.top < value
          then { p with value := some p.kind.top, quality := .bad, time := some s.partTime }
          else { p with value := some value, quality := q, time := some s.partTime }))
      ∧ (e.silent = true → ∃ u : State,
        let back := s.offer { bareEvent .nodeBack s.partTime with
          subject := some (.node i), value := some (.number e.address.toNat) }
        let b := { (if e.lastReply = none then s else back) with rxF := [], nodes := t.nodes }
        let alone := fun (k : Slot) => (s.round k).state = .holding ∧ (s.round k).causes.link = false
          ∧ e.address ∈ (s.round k).causes.nodes ∧ ∀ x ∈ (s.round k).causes.nodes, x = e.address
        let relieved := fun (k : Slot) => { s.round k with
          causes := ⟨(s.round k).causes.link, (s.round k).causes.nodes.filter (· != e.address)⟩ }
        t = (State.deliver e.address r (State.writeReading e.address r u)).sendU (.relayed (s.rxF ++ octets))
        ∧ ((∀ k, ¬alone k) → u = { b with rounds := u.rounds } ∧ ∀ k, u.round k = relieved k)
        ∧ ∀ k, alone k → (∀ j, alone j → j = k) → ¬s.completesOnReturn k →
          sequencerFrame b u ∧ (∀ j, j ≠ k → u.round j = relieved j) ∧ s.returned k u)
      ∧ (∀ l k route step, r = .valves l → e.silent = false → (s.round k).state = .setting →
        (∀ st, k ∉ (s.station st).queue) → (∀ j, j ≠ k → (s.round j).state ≠ .setting) →
        (s.round k).linked = false → s.routeOf k = some route → s.stepOf k = some step →
        (¬t.showsSettled route → t.rounds = s.rounds)
        ∧ ∀ j, t.showsSettled route → step.choice = some j → (s.station j).granted ≠ none →
          (∀ m, m ≠ k → t.round m = s.round m)
          ∧ (t.station j).queue = (s.station j).queue ++ [k]
          ∧ t.round k = { s.round k with
            state := .waitStation
            travel := { (s.round k).travel with mode := .stopped }
            holdAcc := 0, fill := ⟨.stopped, 0, 0⟩, wall := ⟨.stopped, 0, 0⟩, liftTimer := ⟨.stopped, 0, 0⟩
            supplyBegun := false, criteria := [], lift := (t.round k).lift
            effective := (s.round k).given, requestTime := some s.partTime
            ageing := match (s.round k).given with
              | .a => ⟨.stopped, 0, 0⟩
              | .b => ⟨.running, 0, 1000 * s.config.ageB.toNat⟩
              | .c => ⟨.running, 0, 1000 * s.config.ageC.toNat⟩ }
          ∧ (∀ n b v, step.pulses ≠ 0 → route.boundary[n]? = some b → Table.entry s.valves b.valve = some v →
            v.kind = .mixproof → (∀ m c w, m < n → route.boundary[m]? = some c →
              Table.entry s.valves c.valve = some w → w.kind = .singleSeat) →
            (t.round k).lift = .active n 1 .lifted)
          ∧ ((step.pulses = 0 ∨ ∀ b ∈ route.boundary, ∀ v, Table.entry s.valves b.valve = some v →
            v.kind = .singleSeat) → (t.round k).lift = .done)
          ∧ t.events = (s.offer (roundStateEvent k .waitStation none s.partTime)).events)
      ∧ ∀ l k, r = .points l → e.silent = false → (s.round k).state = .stepFill →
        (∀ st, k ∉ (s.station st).queue) →
        (¬s.completesFill t e l k → t.round k = s.round k)
        ∧ ∀ step, s.completesFill t e l k → s.stepOf k = some step →
          ¬(1000 * step.holdTime ≤ (s.round k).holdAcc ∧ (s.round k).lift = .done) →
          (t.round k).state = .stepTiming ∧ (t.round k).held = (s.round k).held
          ∧ (t.round k).fill = { (s.round k).fill with mode := .stopped }
          ∧ (t.round k).wall = (s.round k).wall.runOn ∧ (t.round k).holdAcc = (s.round k).holdAcc
          ∧ ((s.round k).lift = .done → (t.round k).lift = .done)
          ∧ (∀ n p ph, (s.round k).lift = .active n p ph → (t.round k).lift = .active n 1 .lifted
            ∧ (t.round k).liftTimer = ⟨.running, 0, 100 * step.liftLength⟩)
          ∧ ∀ (n : Nat) (c : Criterion) (x : CriterionState), step.criteria[n]? = some c →
            (s.round k).criteria[n]? = some x →
            (∀ m p, x.point = some m → t.carriesPoint e l m p →
              (t.round k).criteria[n]? = some { x with window := [c.passes p] })
            ∧ ((∀ m p, x.point = some m → ¬t.carriesPoint e l m p) →
              (t.round k).criteria[n]? = some { x with window := [] })

/-- LINK_SILENCE_EXPIRY (R164): flag, time and timer; LINK_SILENT joins the causes of every round in a recording
state; a round in SETTING, STEP_FILL, STEP_TIMING or ENDING enters HOLDING with that state to resume; LINK_SILENT
is offered last. MODEL'S CHOICES: the part time the timer lacks passes first (log 4), and a timer that does not run
changes nothing (log 7). -/
def Obligations.LinkSilenceExpiry : Prop :=
  ∀ s : State,
    (s.linkTimer.mode ≠ .running → exec .linkSilenceExpiry s = .next s)
    ∧ (s.linkTimer.mode = .running → ∃ t u : State, exec .linkSilenceExpiry s = .next t
      ∧ t.partTime = s.partTime + BitVec.ofNat 32 (s.linkTimer.limit - s.linkTimer.elapsed)
      ∧ t.linkSilent = true ∧ t.linkExpiry = some t.partTime ∧ t.linkTimer.mode = .stopped
      ∧ t = u.offer (bareEvent .linkSilent t.partTime)
      ∧ sequencerFrame { s.pass (s.linkTimer.limit - s.linkTimer.elapsed) with
          linkSilent := true, linkExpiry := t.linkExpiry, linkTimer := t.linkTimer } t
      ∧ ∀ k, ((s.round k).state.records = true → (t.round k).causes = { (s.round k).causes with link := true })
        ∧ ((s.round k).state.records = false → (t.round k).causes = (s.round k).causes)
        ∧ (∀ res, (s.round k).state.held = some res → (t.round k).state = .holding
          ∧ (t.round k).resume = some res)
        ∧ ((s.round k).state.held = none → (t.round k).state = (s.round k).state))

/-- A good frame on U ends a link silence after it has been handled (R165): here a read of the configuration, which
changes nothing itself and is answered. The flag clears, the timer restarts, LINK_SILENT leaves every cause set, and
LINK_BACK carries the length of the silence. The rounds held for the link alone return by R101: in the first part any
number of them, in SETTING and ENDING; in the second part one, in any of its four resume states, unless its return
completes its step. -/
def Obligations.LinkBack : Prop :=
  ∀ (s : State) (a : Ask) (since : PartTime), s.loader = .ready → s.bufferHeld = false →
    s.linkSilent = true → s.linkExpiry = some since →
    let answered := s.txU
      ++ [.answer true a.source s.config.ownAddress a.tag ⟨.ok, none, none, configOctets s.config⟩]
    let alone := fun (k : Slot) => (s.round k).state = .holding ∧ (s.round k).causes = ⟨true, []⟩
    ((∀ k, alone k → (s.round k).resume = some .setting ∨ (s.round k).resume = some .ending) →
      ∃ t u : State, exec (.configRead a) s = .next t
        ∧ t.linkSilent = false ∧ t.linkTimer = ⟨.running, 0, s.config.linkSilence.toNat⟩
        ∧ t.txU = answered
        ∧ t = u.offer { bareEvent .linkBack s.partTime with
            value := some (.number (s.partTime - since).toNat) }
        ∧ t = { s with
            rxU := [], bufferHeld := true, linkSilent := false, linkTimer := t.linkTimer, txU := t.txU
            rounds := t.rounds, events := t.events, overflow := t.overflow }
        ∧ ∀ k, (t.round k).causes = { (s.round k).causes with link := false }
          ∧ (∀ res, (s.round k).state = .holding → (s.round k).causes = ⟨true, []⟩ →
            (s.round k).resume = some res →
            (t.round k).resume = none ∧ (t.round k).holdLimit.mode ≠ .running
            ∧ (res = .setting → (t.round k).state = .setting ∧ (t.round k).travel = (s.round k).travel.runOn)
            ∧ (res = .ending → (t.round k).state = .ending
              ∧ (t.round k).drainHold = (s.round k).drainHold.runOn))
          ∧ (¬((s.round k).state = .holding ∧ (s.round k).causes = ⟨true, []⟩) →
            (t.round k).state = (s.round k).state))
    ∧ ∀ k, alone k → (∀ j, alone j → j = k) → ¬s.completesOnReturn k →
      ∃ t u : State, exec (.configRead a) s = .next t
        ∧ t.linkTimer = ⟨.running, 0, s.config.linkSilence.toNat⟩ ∧ t.txU = answered
        ∧ t = u.offer { bareEvent .linkBack s.partTime with
            value := some (.number (s.partTime - since).toNat) }
        ∧ sequencerFrame { s with
            rxU := [], bufferHeld := true, linkSilent := false, linkTimer := t.linkTimer, txU := t.txU } t
        ∧ (∀ j, j ≠ k → t.round j = { s.round j with causes := { (s.round j).causes with link := false } })
        ∧ s.returned k t

/-- NODE_SILENCE_EXPIRY (R162): the silent flag, the images and the qualities of what the node carries, NODE_SILENT
in every round that depends on the node, an interface hold set to 0.0 and stopped where the header's conductivity
point is on the node, and NODE_SILENT offered last. MODEL'S CHOICE (log 4): the part time the timer lacks passes
first. -/
def Obligations.NodeSilenceExpiry : Prop :=
  ∀ (s : State) (i : NodeId) (e : NodeEntry), Table.entry s.nodes i.val = some e → e.silence.mode = .running →
    ∃ t u : State, exec (.nodeSilenceExpiry i) s = .next t
      ∧ t.partTime = s.partTime + BitVec.ofNat 32 (e.silence.limit - e.silence.elapsed)
      ∧ (Table.entry t.nodes i.val).map (fun x => (x.silent, x.silence.mode)) = some (true, .stopped)
      ∧ (∀ x ∈ t.valves, x.2.node = e.address → x.2.feedback = .unknown)
      ∧ (∀ x ∈ t.drives, x.2.node = e.address → x.2.status = .unknown ∧ x.2.value = none)
      ∧ t.points = s.points.map (fun x =>
        (x.1, if x.2.node = e.address then { x.2 with quality := .none } else x.2))
      ∧ t = u.offer { bareEvent .nodeSilent t.partTime with
          subject := some (.node i.val), value := some (.number e.address.toNat) }
      ∧ (∀ h, s.condOn e.address h = true → (s.header h).interface ≠ .steady →
        (t.header h).hold.mode = .stopped ∧ (t.header h).hold.elapsed = 0
        ∧ (t.header h).interface = (s.header h).interface)
      ∧ (∀ k, e.address ∈ s.dependencies k → e.address ∈ (t.round k).causes.nodes
        ∧ ((s.round k).state.held = none → (t.round k).state = (s.round k).state)
        ∧ ∀ res, (s.round k).state.held = some res →
          (t.round k).state = .holding ∧ (t.round k).resume = some res)
      ∧ (∀ k, e.address ∉ s.dependencies k →
        t.round k = (s.pass (e.silence.limit - e.silence.elapsed)).round k)
      ∧ t.segments = s.segments ∧ t.claimQueue = s.claimQueue ∧ t.stations = s.stations

/-- ANSWER_SENT (R181, R147): the frames before the first answer on port U have left with it, and the answer to the
taken request frees the buffer. MODEL'S CHOICES: a BUSY or LOADING answer does not free it (log 33), and with no
answer on the port the relayed frames leave and the buffer is free (log 7). -/
def Obligations.AnswerSent : Prop :=
  ∀ (s : State) (before : List (List Octet)) (after : List SentU),
    (∀ frees dest source tag reply,
      s.txU = before.map .relayed ++ .answer frees dest source tag reply :: after →
      exec .answerSent s = .next { s with
        txU := after, bufferHeld := if frees = true then false else s.bufferHeld })
    ∧ (s.txU = before.map .relayed → exec .answerSent s = .next { s with txU := [], bufferHeld := false })

/-! ### Management requests: configuration and tables -/

/-- A request is answered LOADING while the image is being loaded, and BUSY while the buffer is held (R182): nothing
is performed, and the buffer is left as it is. The rows of R183's table, every one. -/
def Obligations.BusyAndLoading : Prop :=
  ∀ (i : Instr) (a : Ask) (r : Request) (s : State), i.request? = some (a, r) → s.linkSilent = false →
    (s.loader ≠ .ready → exec i s = .next (s.turnedAway a .loading))
    ∧ (s.loader = .ready → s.bufferHeld = true → exec i s = .next (s.turnedAway a .busy))

/-- CONFIG_WRITE and CONFIG_READ (R6, R8, R185). A record is judged by R6 first; one that changes the own address is
refused with ROUNDS_ACTIVE while any round is outside IDLE and DONE, with the lowest such slot as subject. The
record that passes replaces the one held, and the answer's source is the own address then in force. MODEL'S CHOICE
(log 31): the link silence timer restarts with the limit of the new record. -/
def Obligations.ConfigRequests : Prop :=
  ∀ (a : Ask) (c : ConfigRecord) (s : State), s.listens →
    (configFailure c = none → (c.ownAddress = s.config.ownAddress ∨ ∀ k, s.active k = false) →
      exec (.configWrite a c) s = .next ({ s.opened with config := c }.closing a ⟨.ok, none, none, []⟩))
    ∧ (∀ code subject, configFailure c = some ⟨code, subject⟩ →
      exec (.configWrite a c) s = .next (s.opened.closing a ⟨.badContent, some code.code, some subject, []⟩))
    ∧ (∀ k, configFailure c = none → c.ownAddress ≠ s.config.ownAddress → s.active k = true →
      (∀ j, j < k → s.active j = false) →
      exec (.configWrite a c) s = .next (s.opened.closing a ⟨.roundsActive, none, some k.val, []⟩))
    ∧ exec (.configRead a) s = .next (s.opened.closing a ⟨.ok, none, none, configOctets s.config⟩)

/-- A table write that no judgement of R2 refuses replaces the entry and is answered OK; a write to the segment,
valve or header table is followed by an examination of the route claim queue (R47); a write to the recipe the
staging record names drops that record (R186). -/
def Obligations.TableWriteTaken : Prop :=
  ∀ (a : Ask) (w : TableWrite) (s : State), s.listens → s.refuseWrite w = none →
    let names := fun (index : Word16) => s.staging.map (·.index) = some index.toNat
    let staging := match w with
      | .empty .recipe index => if names index then none else s.staging
      | .full index (.recipe _) => if names index then none else s.staging
      | _ => s.staging
    let t := State.applyWrite w { s.opened with staging := staging }
    let walks := match w with
      | .empty .segment _ => true
      | .empty .valve _ => true
      | .empty .header _ => true
      | .full _ (.segment _) => true
      | .full _ (.valve _) => true
      | .full _ (.header _) => true
      | _ => false
    exec (.tableWrite a w) s
      = .next ((if walks = true then t.walk else t).closing a ⟨.ok, none, none, []⟩)

/-- After a taken write the entry reads as it was written, an AIR step's pump speed and the criterion slots beyond the
count as zero (R29, R208), or as empty; every other entry of every table reads as before. The dynamic fields are kept
where the rules keep them and fresh otherwise (R10, R13, R15, R18, R19, R21, R23). -/
def Obligations.WrittenEntry : Prop :=
  (∀ (s : State),
    (∀ index content, s.refuseWrite (.full index content) = none →
      (s.applyWrite (.full index content)).contentAt (Content.table content) index.toNat
        = some (storedContent content)
      ∧ ∀ t n, (t ≠ Content.table content ∨ n ≠ index.toNat) →
        (s.applyWrite (.full index content)).contentAt t n = s.contentAt t n)
    ∧ ∀ table index, s.refuseWrite (.empty table index) = none →
      (s.applyWrite (.empty table index)).contentAt table index.toNat = none
      ∧ ∀ t n, (t ≠ table ∨ n ≠ index.toNat) →
        (s.applyWrite (.empty table index)).contentAt t n = s.contentAt t n)
  ∧ ∀ (s : State) (index : Word16) (n : Nat), n = index.toNat →
    (∀ f e, s.refuseWrite (.full index (.nodeMap f)) = none →
      Table.entry (s.applyWrite (.full index (.nodeMap f))).nodes n = some e →
      (∀ old, Table.entry s.nodes n = some old → old.address = e.address → old.kind = e.kind → e = old)
      ∧ ((∀ old, Table.entry s.nodes n = some old → ¬(old.address = e.address ∧ old.kind = e.kind)) →
        e.lastReply = none ∧ e.silent = true ∧ e.silence.mode = .stopped))
    ∧ (∀ f, s.refuseWrite (.full index (.segment f)) = none →
      s.segState n = .free ∧ (s.applyWrite (.full index (.segment f))).segState n = .free)
    ∧ (∀ f v, s.refuseWrite (.full index (.valve f)) = none →
      Table.entry (s.applyWrite (.full index (.valve f))).valves n = some v → v.owner = none
      ∧ (∀ old, Table.entry s.valves n = some old → old.node = v.node → old.slot = v.slot →
        v = { v with
          commanded := old.commanded, requested := old.requested, feedback := old.feedback
          changed := old.changed, misses := old.misses })
      ∧ ((∀ old, Table.entry s.valves n = some old → ¬(old.node = v.node ∧ old.slot = v.slot)) →
        v.commanded = none ∧ v.requested = none ∧ v.feedback = .unknown ∧ v.changed = none ∧ v.misses = 0))
    ∧ (∀ f d, s.refuseWrite (.full index (.drive f)) = none →
      Table.entry (s.applyWrite (.full index (.drive f))).drives n = some d → d.owner = none
      ∧ (∀ old, Table.entry s.drives n = some old → old.node = d.node → old.channel = d.channel →
        d.status = old.status
        ∧ (old.kind = d.kind → d.commanded = old.commanded ∧ d.requested = old.requested ∧ d.value = old.value)
        ∧ (old.kind ≠ d.kind → d.commanded = none ∧ d.requested = none ∧ d.value = none))
      ∧ ((∀ old, Table.entry s.drives n = some old → ¬(old.node = d.node ∧ old.channel = d.channel)) →
        d.commanded = none ∧ d.requested = none ∧ d.status = .unknown ∧ d.value = none))
    ∧ (∀ f p, s.refuseWrite (.full index (.point f)) = none →
      Table.entry (s.applyWrite (.full index (.point f))).points n = some p →
      (∀ old, Table.entry s.points n = some old → old.node = p.node → old.channel = p.channel →
        old.kind = p.kind → p = old)
      ∧ ((∀ old, Table.entry s.points n = some old →
          ¬(old.node = p.node ∧ old.channel = p.channel ∧ old.kind = p.kind)) →
        p.value = none ∧ p.quality = .none ∧ p.time = none))
    ∧ (∀ f st, s.refuseWrite (.full index (.station f)) = none → st.val = n →
      ∃ l, (s.applyWrite (.full index (.station f))).station st = ⟨some l, none, false, []⟩)
    ∧ ∀ f h, s.refuseWrite (.full index (.header f)) = none → h.val = n →
      ∃ l, (s.applyWrite (.full index (.header f))).header h
        = ⟨some l, .drain, none, .steady, ⟨.stopped, 0, 0⟩, ⟨.stopped, 0, 0⟩⟩

/-- A table write that is refused changes no table (R2): BAD_TABLE for a code that names none, BAD_INDEX outside the
table, ROUNDS_ACTIVE for the node map while a round is outside IDLE and DONE (R11), IN_USE by R13, R16, R17, R19, R21,
R23 and R26 before the content is looked at, and then BAD_CONTENT with the first failing check and its subject. -/
def Obligations.TableWriteRefused : Prop :=
  ∀ (a : Ask) (w : TableWrite) (s : State), s.listens →
    let answers := fun (r : Reply) => exec (.tableWrite a w) s = .next (s.opened.closing a r)
    let inUse := answers ⟨.inUse, none, none, []⟩
    (∀ code, w = .unknown code → answers ⟨.badTable, none, none, []⟩)
    ∧ ∀ t index content, (w = .empty t index ∧ content = none
        ∨ ∃ x, w = .full index x ∧ t = Content.table x ∧ content = some x) →
      (t.size ≤ index.toNat → answers ⟨.badIndex, none, none, []⟩)
      ∧ (index.toNat < t.size →
        (∀ k, t = .nodeMap → s.active k = true → (∀ j, j < k → s.active j = false) →
          answers ⟨.roundsActive, none, some k.val, []⟩)
        ∧ (t = .segment → s.segState index.toNat ≠ .free → inUse)
        ∧ (∀ v side n, t = .valve → Table.entry s.valves index.toNat = some v →
          (v.owner ≠ none ∨ (v.sideA = side ∨ v.sideB = side) ∧ side = some n ∧ s.segState n ≠ .free) → inUse)
        ∧ (∀ f side, t = .valve → content = some (.valve f) → (f.sideA = side ∨ f.sideB = side) →
          side ≠ 0xFF → s.segState side.toNat ≠ .free → inUse)
        ∧ (∀ st l, t = .drive → (s.station st).load = some l → (s.station st).granted ≠ none →
          (l.pump = index.toNat ∨ l.heater = some index.toNat) → inUse)
        ∧ (∀ k r h l, t = .point → s.active k = true → (s.round k).state ≠ .waitRoute →
          s.routeOf k = some r → s.routeHeader r = some h → (s.header h).load = some l →
          (l.cond = some index.toNat ∨ l.temp = some index.toNat ∨ l.flow = index.toNat) → inUse)
        ∧ (∀ k r x l, t = .point → s.active k = true → (s.round k).state ≠ .waitRoute →
          s.routeOf k = some r → x ∈ r.stations → (s.station x.station).load = some l →
          l.temp = some index.toNat → inUse)
        ∧ (∀ st, t = .station → st.val = index.toNat →
          ((s.station st).granted ≠ none ∨ (s.station st).queue ≠ []) → inUse)
        ∧ (∀ f medium v, t = .station → content = some (.station f) →
          medium ∈ [f.rinse, f.recovered, f.caustic, f.acid, f.sanitiser, f.air] → medium ≠ 0xFFFF →
          Table.entry s.valves medium.toNat = some v →
          (v.owner ≠ none ∨ ∃ n, (v.sideA = some n ∨ v.sideB = some n) ∧ s.segState n ≠ .free) → inUse)
        ∧ (∀ h l k, t = .header → h.val = index.toNat → (s.header h).load = some l →
          s.segState l.segment = .claimed k → inUse)
        ∧ (∀ k, t = .route → s.active k = true → (s.round k).route = index.toNat → inUse)
        ∧ (∀ k, t = .recipe → s.active k = true → (s.round k).recipe = index.toNat → inUse)
        ∧ (s.inUse t index.toNat content = none → ∀ code subject,
          firstFailure (match content with
            | some x => s.contentChecks index.toNat x
            | none => s.emptyChecks t index.toNat) = some ⟨code, subject⟩ →
          answers ⟨.badContent, some code.code, some subject, []⟩))

/-- A recipe of 7 to 12 steps is written in two parts (R186). A first part that passes replaces any staging record and
leaves the recipe as it is. A second part without a staging record of its index and count is WRONG_STATE and keeps the
record; otherwise the assembled recipe is written or refused, and the record is cleared. A first part of another
count of carried steps has no form of R208. -/
def Obligations.RecipeParts : Prop :=
  ∀ (a : Ask) (index : Word16) (count : Octet) (steps : List StepFields) (s : State), s.listens →
    (steps.length = 6 → index.toNat < 24 →
      (∀ k, s.active k = true → (s.round k).recipe ≠ index.toNat) →
      (7 ≤ count.toNat → count.toNat ≤ 12 → firstFailure (stepsContentChecks 0 steps) = none →
        exec (.recipeFirstPart a index count steps) s = .next
          ({ s.opened with staging := some ⟨index.toNat, count.toNat, steps⟩ }.closing a ⟨.ok, none, none, []⟩))
      ∧ (¬(7 ≤ count.toNat ∧ count.toNat ≤ 12) → exec (.recipeFirstPart a index count steps) s = .next
          (s.opened.closing a ⟨.badContent, some 1, some 0, []⟩)))
    ∧ (steps.length = 6 → 24 ≤ index.toNat → exec (.recipeFirstPart a index count steps) s = .next
        (s.opened.closing a ⟨.badIndex, none, none, []⟩))
    ∧ (∀ k, steps.length = 6 → index.toNat < 24 → s.active k = true → (s.round k).recipe = index.toNat →
        exec (.recipeFirstPart a index count steps) s = .next (s.opened.closing a ⟨.inUse, none, none, []⟩))
    ∧ (steps.length ≠ 6 → exec (.recipeFirstPart a index count steps) s = .next
        (s.opened.closing a ⟨.badRequest, none, none, []⟩))
    ∧ (index.toNat < 24 →
      (∀ x, s.staging = some x → x.index = index.toNat → x.count - 6 ≠ steps.length) →
        exec (.recipeSecondPart a index steps) s = .next (s.opened.closing a ⟨.wrongState, none, none, []⟩))
    ∧ ∀ x, index.toNat < 24 → s.staging = some x → x.index = index.toNat → x.count - 6 = steps.length →
      let whole := TableWrite.full index (.recipe (x.steps ++ steps))
      (s.refuseWrite whole = none → exec (.recipeSecondPart a index steps) s = .next
        ((State.applyWrite whole { s.opened with staging := none }).closing a ⟨.ok, none, none, []⟩))
      ∧ ∀ r, s.refuseWrite whole = some r → exec (.recipeSecondPart a index steps) s = .next
        ({ s.opened with staging := none }.closing a r)

/-- TABLE_READ (R185, R186) returns table, index, form and the loaded fields, then the entry's dynamic fields, and
changes nothing. MODEL'S CHOICES: the layout of the dynamic fields (log 22), and an index of two octets for every
table (log 41). -/
def Obligations.TableRead : Prop :=
  ∀ (a : Ask) (index : Word16) (t : TableId) (s : State), s.listens → index.toNat < t.size →
    let n := index.toNat
    let reads := fun (part : Option Octet) (loaded : Option (List Octet)) =>
      exec (.tableRead a (tableCode t) index part) s = .next (s.opened.closing a ⟨.ok, none, none,
        tableCode t :: octet n :: octet (n / 256)
          :: (match loaded with | some l => 0x01 :: l | none => [0x00]) ++ s.dynamicAt t n⟩)
    (t ≠ .recipe → reads none ((s.contentAt t n).map contentOctets))
    ∧ (t = .recipe → ∀ steps, Table.entry s.recipes n = some steps →
      reads (some 0x01) (some (0x01 :: octet steps.length
        :: (steps.take 6).flatMap fun x => stepOctets (RecipeStep.fields x)))
      ∧ reads (some 0x02) (some (0x02 :: octet (steps.length - 6)
        :: (steps.drop 6).flatMap fun x => stepOctets (RecipeStep.fields x))))
    ∧ (t = .recipe → Table.entry s.recipes n = none → reads (some 0x01) none ∧ reads (some 0x02) none)
    ∧ (t = .recipe → ∀ part, part ≠ 0x01 → part ≠ 0x02 →
      exec (.tableRead a (tableCode t) index (some part)) s
        = .next (s.opened.closing a ⟨.badRequest, none, none, []⟩))
    ∧ (t ≠ .recipe → ∀ index, t.size ≤ BitVec.toNat index → exec (.tableRead a (tableCode t) index none) s
        = .next (s.opened.closing a ⟨.badIndex, none, none, []⟩))
    ∧ ∀ code, tableOfCode code = none → exec (.tableRead a code index none) s
        = .next (s.opened.closing a ⟨.badTable, none, none, []⟩)

/-! ### Management requests: rounds -/

/-- ROUND_START taken into an IDLE slot (R84, R187). In every case the record holds the request's class, recipe and
route and the part time as start time. With no other round waiting: when the route is not claimable, the round waits
alone in the queue with the silent nodes of its setting and boundary valves as causes; when it is claimable, the claim
is granted (R50, R87): segments CLAIMED, setting and diverter valves owned and commanded, the header on DRAIN, the
travel timer running in SETTING, or paused in HOLDING when a node of the SETTING dependencies is silent. -/
def Obligations.RoundStart : Prop :=
  ∀ (a : Ask) (slot recipe route cls : Octet) (k : Slot) (g : RoundClass) (r : Route) (s : State),
    s.listens → slot.toNat = k.val → recipe.toNat < 24 → route.toNat < 48 → RoundClass.ofCode cls = some g →
    (s.round k).asAtPowerOn → s.invalid recipe.toNat route.toNat = none →
    Table.entry s.routes route.toNat = some r →
    let silentNode := fun (valves : List Nat) (x : Octet) =>
      (∃ n ∈ valves, s.valveNode n = some x) ∧ s.nodeSilent x = true
    let listed := r.setting.map (·.valve) ++ r.boundary.map (·.valve)
    ∃ u : State, exec (.roundStart a slot recipe route cls) s = .next (u.closing a ⟨.ok, none, none, []⟩)
      ∧ (u.round k).given = g ∧ (u.round k).recipe = recipe.toNat ∧ (u.round k).route = route.toNat
      ∧ (u.round k).startTime = some s.partTime
      ∧ (s.claimQueue = [] → s.claimable r = false →
        u = { s.opened with
          rounds := u.rounds, claimQueue := [k], events := u.events, overflow := u.overflow }
        ∧ (∀ j, j ≠ k → u.round j = s.round j)
        ∧ u.round k = { s.round k with
          state := .waitRoute, given := g, effective := g, recipe := recipe.toNat, route := route.toNat, step := 0
          startTime := some s.partTime, causes := ⟨false, (u.round k).causes.nodes⟩ }
        ∧ (∀ x, x ∈ (u.round k).causes.nodes ↔ silentNode listed x)
        ∧ u.events = (s.offer (roundStateEvent k .waitRoute none s.partTime)).events)
      ∧ ∀ h l, s.claimQueue = [] → s.claimable r = true → s.routeHeader r = some h →
        (s.header h).load = some l → (r.setting.map (·.valve)).Nodup →
        let depends := fun x => silentNode (listed ++ l.diverters) x
          ∨ s.pointNode l.flow = some x ∧ s.nodeSilent x = true
        arbiterFrame s.opened u ∧ u.claimQueue = [] ∧ u.stations = s.stations ∧ u.drives = s.drives
        ∧ (∀ j, j ≠ k → u.round j = s.round j) ∧ (∀ j, j ≠ h → u.header j = s.header j)
        ∧ u.header h = { s.header h with current := .drain }
        ∧ (∀ n, u.segState n = if n ∈ r.segments then .claimed k else s.segState n)
        ∧ (∀ n v, Table.entry s.valves n = some v → ∃ w, Table.entry u.valves n = some w
          ∧ w.owner = (if n ∈ r.setting.map (·.valve) ∨ n ∈ l.diverters then some k else v.owner)
          ∧ (∀ i ∈ r.setting, i.valve = n → w.commanded = some (if i.opened then .open else .close))
          ∧ (n = l.drain → w.commanded = some .open)
          ∧ (n ∈ l.diverters → n ≠ l.drain → w.commanded = some .close)
          ∧ (n ∉ r.setting.map (·.valve) → n ∉ l.diverters → w = v)
          ∧ (w.commanded = v.commanded → w.changed = v.changed)
          ∧ (w.commanded ≠ v.commanded → w.changed = some s.partTime))
        ∧ (∀ x, x ∈ (u.round k).causes.nodes ↔ depends x)
        ∧ (u.round k).header = some h ∧ (u.round k).held = none
        ∧ ((∀ x, ¬depends x) → (u.round k).state = .setting ∧ (u.round k).resume = none
          ∧ (u.round k).travel = ⟨.running, 0, 100 * r.travel⟩
          ∧ u.events = ((s.offer (roundStateEvent k .waitRoute none s.partTime)).offer
              (roundStateEvent k .setting none s.partTime)).events)
        ∧ ((∃ x, depends x) → (u.round k).state = .holding ∧ (u.round k).resume = some .setting
          ∧ (u.round k).travel = ⟨.paused, 0, 100 * r.travel⟩
          ∧ (u.round k).holdLimit = ⟨.running, 0, 1000 * r.holdLimit⟩
          ∧ u.events = ((s.offer (roundStateEvent k .waitRoute none s.partTime)).offer
              (roundStateEvent k .holding none s.partTime)).events)

/-- ROUND_START refused (R187): the slot, recipe and route index, the class, the slot's state, and then the first
failing check of R33 with its subject; an empty route entry is check 1 and an empty recipe entry check 2. The table
and round states are left as they are. -/
def Obligations.RoundStartRefused : Prop :=
  ∀ (a : Ask) (slot recipe route cls : Octet) (s : State), s.listens →
    let answers := fun (r : Reply) =>
      exec (.roundStart a slot recipe route cls) s = .next (s.opened.closing a r)
    ((16 ≤ slot.toNat ∨ 24 ≤ recipe.toNat ∨ 48 ≤ route.toNat) → answers ⟨.badIndex, none, none, []⟩)
    ∧ ∀ k : Slot, slot.toNat = k.val → recipe.toNat < 24 → route.toNat < 48 →
      (2 < cls.toNat → answers ⟨.badRequest, none, none, []⟩)
      ∧ (cls.toNat ≤ 2 →
        ((s.round k).state ≠ .idle → answers ⟨.slotBusy, some (s.round k).state.code, none, []⟩)
        ∧ ((s.round k).state = .idle →
          (Table.entry s.routes route.toNat = none →
            answers ⟨.routeInvalid, some 1, some route.toNat, []⟩)
          ∧ (Table.entry s.routes route.toNat ≠ none → Table.entry s.recipes recipe.toNat = none →
            answers ⟨.routeInvalid, some 2, some recipe.toNat, []⟩)
          ∧ ∀ r steps f, Table.entry s.routes route.toNat = some r →
            Table.entry s.recipes recipe.toNat = some steps →
            (s.routeChecks r ++ s.recipeChecks r 0 steps).findSome? id = some f →
            answers ⟨.routeInvalid, some f.check, some f.subject, []⟩))

/-- PAUSE in STEP_FILL and STEP_TIMING (R103): PAUSED with resume state STEP_FILL, the pump and heater commanded 0
and the step's medium valve CLOSE, a LIFTED valve CLOSE (R98), the timers paused, the hold-limit timer from 0.0, and
the station kept. MODEL'S CHOICE (log 15): the lift progress of a valve closed so keeps its place with its phase
CLOSED. -/
def Obligations.Pause : Prop :=
  ∀ (a : Ask) (slot : Octet) (k : Slot) (st : StationId) (l : StationLoad) (step : RecipeStep) (r : Route)
    (s : State),
    s.listens → slot.toNat = k.val → (s.round k).state = .stepFill ∨ (s.round k).state = .stepTiming →
    (s.round k).held = some st → (s.station st).load = some l → s.stepOf k = some step →
    s.routeOf k = some r →
    ∃ u : State, exec (.pause a slot) s = .next (u.closing a ⟨.ok, none, none, []⟩)
      ∧ sequencerFrame s.opened u ∧ u.stations = s.stations ∧ u.headers = s.headers
      ∧ (∀ j, j ≠ k → u.round j = s.round j)
      ∧ u.round k = { s.round k with
          state := .paused
          resume := some .stepFill
          travel := (s.round k).travel.pause
          fill := (s.round k).fill.pause
          wall := (s.round k).wall.pause
          liftTimer := (s.round k).liftTimer.pause
          drainHold := (s.round k).drainHold.pause
          drainMax := (s.round k).drainMax.pause
          holdLimit := ⟨.running, 0, 1000 * r.holdLimit⟩
          lift := (u.round k).lift }
      ∧ (∀ n p, (s.round k).state = .stepTiming → (s.round k).lift = .active n p .lifted →
        n < r.boundary.length → (u.round k).lift = .active n p .closed)
      ∧ ((s.round k).lift = .done → (u.round k).lift = .done)
      ∧ (∀ n d, Table.entry s.drives n = some d → Table.entry u.drives n
          = some (if n = l.pump ∨ l.heater = some n then { d with commanded := some 0 } else d))
      ∧ (∀ n v, Table.entry s.valves n = some v → ∃ w, Table.entry u.valves n = some w
        ∧ w.owner = v.owner
        ∧ (l.valveFor step.medium = some n → w.commanded = some .close)
        ∧ (∀ b p q, (s.round k).state = .stepTiming → (s.round k).lift = .active p q .lifted →
          r.boundary[p]? = some b → b.valve = n → w.commanded = some .close)
        ∧ (l.valveFor step.medium ≠ some n → (s.round k).state = .stepFill → w = v))
      ∧ u.events = (s.offer (roundStateEvent k .paused none s.partTime)).events

/-- RESUME in PAUSED (R104). With causes the round enters HOLDING, its fill timer paused at 0.0 and its hold-limit
timer running on. Without, the supply is commanded again (R91) and the fill timer runs from 0.0; an AIR step passes at
once to STEP_TIMING. -/
def Obligations.Resume : Prop :=
  ∀ (a : Ask) (slot : Octet) (k : Slot) (s : State),
    s.listens → slot.toNat = k.val → (s.round k).state = .paused →
    ∃ u : State, exec (.resume a slot) s = .next (u.closing a ⟨.ok, none, none, []⟩)
      ∧ ((s.round k).causes ≠ ⟨false, []⟩ →
        u = { s.opened with rounds := u.rounds, events := u.events, overflow := u.overflow }
        ∧ (∀ j, j ≠ k → u.round j = s.round j)
        ∧ (u.round k).state = .holding ∧ (u.round k).resume = some .stepFill
        ∧ (u.round k).fill = ⟨.paused, 0, (s.round k).fill.limit⟩
        ∧ (u.round k).holdLimit = (s.round k).holdLimit ∧ (u.round k).holdAcc = (s.round k).holdAcc
        ∧ (u.round k).held = (s.round k).held ∧ (u.round k).causes = (s.round k).causes
        ∧ (u.round k).criteria = (s.round k).criteria.map (fun c => { c with window := [] })
        ∧ u.events = (s.offer (roundStateEvent k .holding none s.partTime)).events)
      ∧ ∀ st l step, (s.round k).causes = ⟨false, []⟩ → (s.round k).held = some st →
        (s.station st).load = some l → s.stepOf k = some step → (s.round k).supplyBegun = true →
        (step.medium ≠ .air →
          sequencerFrame s.opened u ∧ u.stations = s.stations ∧ u.headers = s.headers
          ∧ (∀ j, j ≠ k → u.round j = s.round j)
          ∧ u.round k = { s.round k with
            state := .stepFill
            resume := none
            fill := ⟨.running, 0, 1000 * step.fillLimit⟩
            wall := (s.round k).wall.runOn
            holdLimit := { (s.round k).holdLimit with mode := .stopped }
            criteria := (s.round k).criteria.map (fun c => { c with window := [] }) }
          ∧ (∀ d, Table.entry s.drives l.pump = some d → l.heater ≠ some l.pump →
            Table.entry u.drives l.pump = some { d with commanded := some step.pump })
          ∧ (∀ n d, l.heater = some n → Table.entry s.drives n = some d →
            Table.entry u.drives n = some { d with commanded := some (step.heater.getD 0) })
          ∧ (∀ n v, l.valveFor step.medium = some n → Table.entry s.valves n = some v →
            (Table.entry u.valves n).map (·.commanded) = some (some .open))
          ∧ (∀ n v, n ∈ l.mediumValves → l.valveFor step.medium ≠ some n → Table.entry s.valves n = some v →
            (Table.entry u.valves n).map (·.commanded) = some (some .close))
          ∧ (∀ n v, s.entryValveOf k st = some n → n ∉ l.mediumValves → Table.entry s.valves n = some v →
            (Table.entry u.valves n).map (·.commanded) = some (some .open))
          ∧ u.events = (s.offer (roundStateEvent k .stepFill none s.partTime)).events)
        ∧ (step.medium = .air → ¬(s.holdTime k ≤ (s.round k).holdAcc ∧ (s.round k).lift = .done) →
          (u.round k).state = .stepTiming ∧ (u.round k).fill.mode = .stopped ∧ (u.round k).fill.elapsed = 0
          ∧ (u.round k).resume = none ∧ (u.round k).holdAcc = (s.round k).holdAcc
          ∧ (∀ n p ph, (s.round k).lift = .active n p ph → (u.round k).lift = .active n 1 .lifted))

/-- ABORT (R105, R106). In ENDING and in HOLDING with resume state ENDING it changes nothing. In WAIT_ROUTE the
round leaves the queue and is DONE with result ABORTED. In every other state that takes it, the round enters ENDING,
or HOLDING with resume state ENDING and its drain timers paused at 0.0 when causes stand or it was in HOLDING; it
holds no station and no queue place, and a released drive is commanded 0 and a released medium valve CLOSE. -/
def Obligations.Abort : Prop :=
  ∀ (a : Ask) (slot : Octet) (k : Slot) (s : State), s.listens → slot.toNat = k.val →
    let r := s.round k
    let ends := r.state = .setting ∨ r.state = .waitStation ∨ r.state = .stepFill ∨ r.state = .stepTiming
      ∨ r.state = .paused ∨ r.state = .holding ∧ r.resume ≠ some .ending
    ((r.state = .ending ∨ r.state = .holding ∧ r.resume = some .ending) →
      exec (.abort a slot) s = .next (s.opened.closing a ⟨.ok, none, none, []⟩))
    ∧ (r.state = .waitRoute → ∃ u : State,
      exec (.abort a slot) s = .next (u.closing a ⟨.ok, none, none, []⟩)
      ∧ k ∉ u.claimQueue ∧ (u.round k).state = .done ∧ (u.round k).result = some .aborted
      ∧ (u.round k).endTime = some s.partTime ∧ (u.round k).causes = ⟨false, []⟩ ∧ (u.round k).resume = none
      ∧ (s.claimQueue = [k] →
        u = { s.opened with rounds := u.rounds, claimQueue := [], events := u.events, overflow := u.overflow }
        ∧ (∀ j, j ≠ k → u.round j = s.round j)
        ∧ u.events = (s.offer (roundStateEvent k .done (some .aborted) s.partTime)).events))
    ∧ (ends → (∀ st, k ∈ (s.station st).queue → r.state = .waitStation) → ∃ u : State,
      exec (.abort a slot) s = .next (u.closing a ⟨.ok, none, none, []⟩)
      ∧ sequencerFrame s.opened u
      ∧ (u.round k).result = some (r.result.getD .aborted)
      ∧ (u.round k).held = none ∧ (u.round k).linked = false ∧ (u.round k).criteria = []
      ∧ (u.round k).travel.mode = .stopped ∧ (u.round k).fill.mode = .stopped
      ∧ (u.round k).wall.mode = .stopped ∧ (u.round k).liftTimer.mode = .stopped
      ∧ (r.state = .waitStation → (u.round k).effective = r.given)
      ∧ (∀ st, k ∉ (u.station st).queue) ∧ (∀ st, r.held = some st → (u.station st).granted ≠ some k)
      ∧ (r.state ≠ .holding → (u.round k).causes = ⟨false, []⟩ →
        (u.round k).state = .ending ∧ (u.round k).resume = none
        ∧ (u.round k).drainHold = ⟨.running, 0, 100 * s.config.drainHold.toNat⟩
        ∧ (u.round k).drainMax = ⟨.running, 0, 1000 * s.config.drainMax.toNat⟩)
      ∧ ((r.state = .holding ∨ (u.round k).causes ≠ ⟨false, []⟩) →
        (u.round k).state = .holding ∧ (u.round k).resume = some .ending
        ∧ (u.round k).drainHold = ⟨.paused, 0, 100 * s.config.drainHold.toNat⟩
        ∧ (u.round k).drainMax = ⟨.paused, 0, 1000 * s.config.drainMax.toNat⟩)
      ∧ ∀ st l, r.held = some st → (s.station st).load = some l → (s.station st).queue = [] →
        (∀ n d, (n = l.pump ∨ l.heater = some n) → Table.entry s.drives n = some d → d.owner = some k →
          Table.entry u.drives n = some { d with owner := none, commanded := some 0 })
        ∧ ∀ n v, n ∈ l.mediumValves → Table.entry s.valves n = some v → v.owner = some k →
          (∀ h x, r.header = some h → (s.header h).load = some x → n ∉ x.diverters) →
          (Table.entry u.valves n).map (fun w => (w.owner, w.commanded)) = some (none, some .close))

/-- RELEASE in FAULTED (R110, R53). After SEGREGATION_BREACH the route's segments become SUSPECT, the owners clear and
the round is DONE, with no walk; after any other cause the round enters ENDING, or HOLDING with resume state ENDING
when a node of its dependencies is silent, with result FAULT_RELEASED and its fault record kept. -/
def Obligations.Release : Prop :=
  ∀ (a : Ask) (slot : Octet) (k : Slot) (s : State) (f : FaultRecord),
    s.listens → slot.toNat = k.val → (s.round k).state = .faulted → (s.round k).fault = some f →
    ∃ u : State, exec (.release a slot) s = .next (u.closing a ⟨.ok, none, none, []⟩)
      ∧ (∀ r, f.cause = .segregationBreach → s.routeOf k = some r →
        arbiterFrame s.opened u ∧ u.claimQueue = s.claimQueue ∧ u.stations = s.stations ∧ u.drives = s.drives
        ∧ (∀ j, j ≠ k → u.round j = s.round j)
        ∧ (∀ n, u.segState n = if n ∈ r.segments ∧ (Table.entry s.segments n).isSome = true
          then .suspect .breach else s.segState n)
        ∧ (∀ x ∈ u.valves, x.2.owner ≠ some k)
        ∧ (∀ n v j, Table.entry s.valves n = some v → v.owner = some j → j ≠ k →
          (Table.entry u.valves n).bind (·.owner) = some j)
        ∧ (∀ h, (s.round k).header = some h → (u.header h).current = .drain ∧ (u.header h).interface = .steady
          ∧ (u.header h).pending = none)
        ∧ (u.round k).state = .done ∧ (u.round k).result = some .faultReleased
        ∧ (u.round k).endTime = some s.partTime ∧ (u.round k).fault = some f ∧ (u.round k).header = none
        ∧ u.events = (s.offer (roundStateEvent k .done (some .faultReleased) s.partTime)).events)
      ∧ (f.cause ≠ .segregationBreach → (s.round k).held = none →
        sequencerFrame s.opened u ∧ u.stations = s.stations ∧ u.drives = s.drives
        ∧ (∀ j, j ≠ k → u.round j = s.round j)
        ∧ (u.round k).result = some .faultReleased ∧ (u.round k).fault = some f
        ∧ (∀ x, x ∈ (u.round k).causes.nodes ↔ x ∈ (s.round k).causes.nodes
          ∨ x ∈ s.routeNodes k ++ s.headerNodes k ∧ s.nodeSilent x = true)
        ∧ ((u.round k).causes = ⟨false, []⟩ → (u.round k).state = .ending ∧ (u.round k).resume = none
          ∧ (u.round k).drainHold = ⟨.running, 0, 100 * s.config.drainHold.toNat⟩
          ∧ (u.round k).drainMax = ⟨.running, 0, 1000 * s.config.drainMax.toNat⟩)
        ∧ ((u.round k).causes ≠ ⟨false, []⟩ → (u.round k).state = .holding
          ∧ (u.round k).resume = some .ending
          ∧ (u.round k).drainHold = ⟨.paused, 0, 100 * s.config.drainHold.toNat⟩))

/-- CLEAR is taken in DONE and refused with WRONG_STATE in every other state: the record returns to the values R82
names and the slot is IDLE, and no other round and no table changes. -/
def Obligations.ClearReturnsTheSlot : Prop :=
  ∀ (a : Ask) (slot : Octet) (k : Slot) (s : State), s.listens → slot.toNat = k.val →
    ((s.round k).state = .done → ∃ u : State,
      exec (.clear a slot) s = .next (u.closing a ⟨.ok, none, none, []⟩)
      ∧ u = { s.opened with rounds := u.rounds, events := u.events, overflow := u.overflow }
      ∧ (u.round k).asAtPowerOn ∧ (∀ j, j ≠ k → u.round j = s.round j)
      ∧ u.events = (s.offer (roundStateEvent k .idle none s.partTime)).events)
    ∧ ((s.round k).state ≠ .done → exec (.clear a slot) s
      = .next (s.opened.closing a ⟨.wrongState, some (s.round k).state.code, none, []⟩))

/-- The refusals of the round controls (R188, and the table after R111): a slot outside 0 to 15 is BAD_INDEX, and a
state that does not take the action WRONG_STATE with the round's state as check code. No round changes. -/
def Obligations.RoundControlRefused : Prop :=
  ∀ (a : Ask) (slot : Octet) (s : State), s.listens →
    (16 ≤ slot.toNat → ∀ i, i = Instr.pause a slot ∨ i = Instr.resume a slot ∨ i = Instr.abort a slot
        ∨ i = Instr.release a slot ∨ i = Instr.clear a slot →
      exec i s = .next (s.opened.closing a ⟨.badIndex, none, none, []⟩))
    ∧ ∀ k : Slot, slot.toNat = k.val →
      let st := (s.round k).state
      let refused := fun (i : Instr) =>
        exec i s = .next (s.opened.closing a ⟨.wrongState, some st.code, none, []⟩)
      (st ≠ .stepFill → st ≠ .stepTiming → refused (.pause a slot))
      ∧ (st ≠ .paused → refused (.resume a slot))
      ∧ ((st = .idle ∨ st = .done ∨ st = .faulted) → refused (.abort a slot))
      ∧ (st ≠ .faulted → refused (.release a slot))
      ∧ (st ≠ .done → refused (.clear a slot))

/-- ROUND_READ answers OK with the whole round record as it stands (R188): the fields of R81 in their order, the
queue places, the criterion states of R127, the in-spec flag and the drain timers. MODEL'S CHOICES: the layout of
these octets and the bits of a window's results, PASS as a set bit (log 23), and the pulse and phase octets of a
lift progress that is DONE, free values of Config at the counter of free values (log 24), which counts on; nothing
else changes. A slot outside 0 to 15 is BAD_INDEX. -/
def Obligations.RoundRead : Prop :=
  ∀ (a : Ask) (slot : Octet) (s : State), s.listens →
    (16 ≤ slot.toNat → exec (.roundRead a slot) s = .next (s.opened.closing a ⟨.badIndex, none, none, []⟩))
    ∧ ∀ k : Slot, slot.toNat = k.val →
      let r := s.round k
      let flag := fun (b : Bool) => if b then (0x01 : Octet) else 0x00
      let index := fun (o : Option Nat) => (o.map octet).getD 0xFF
      let timer := fun (t : Timer) => octets2 (t.elapsed / 100) ++ [octet t.mode.code]
      let fault := match r.fault with
        | some f => [0x01, octet f.cause.code] ++ optSubject f.subject ++ octet f.step :: octets4 f.time.toNat
        | none => [0, 0, 0, 0, 0, 0, 0, 0, 0, 0]
      let lift := match r.lift with
        | .active n pulse .lifted => [octet n, octet pulse, 0x00]
        | .active n pulse .closed => [octet n, octet pulse, 0x01]
        | .done => [0xFF, Config.liftDonePulse s.freeCount, Config.liftDonePhase s.freeCount]
      let window := fun (x : CriterionState) => [octet x.window.length, octet (x.window.count true)]
        ++ octets4 (bitsValue x.window) ++ octets4 (bitsValue x.window / 2 ^ 32)
      let criterion := fun (n : Nat) (c : Criterion) (x : CriterionState) =>
        [octet (n + 1), index x.point, octet x.window.length, octet (x.window.count true), flag (c.satisfied x)]
      let waits := allStations.find? fun st => (s.station st).queue.contains k
      let place := fun (q : List Slot) => index (q.findIdx? (· == k))
      exec (.roundRead a slot) s = .next ({ s.opened with freeCount := s.freeCount + 1 }.closing a
        ⟨.ok, none, none, [octet r.state.code, octet r.given.code, octet r.effective.code, octet r.recipe,
            octet r.route, octet r.step] ++ optTime r.startTime ++ optTime r.endTime
          ++ [index (r.result.map RoundResult.code)] ++ fault
          ++ [flag r.override, flag r.wet, flag r.supplyBegun, index (r.held.map Fin.val), flag r.linked]
          ++ flag r.causes.link :: octet r.causes.nodes.length :: r.causes.nodes
          ++ [index (r.resume.map ResumeState.code)]
          ++ timer r.travel ++ timer r.fill ++ timer r.wall ++ octets2 (r.holdAcc / 100)
          ++ timer r.holdLimit ++ timer r.drainHold ++ timer r.drainMax ++ lift ++ timer r.liftTimer
          ++ octet r.criteria.length :: r.criteria.flatMap window
          ++ octet r.criteria.length :: r.criteria.map (fun (x : CriterionState) => index x.point)
          ++ [place s.claimQueue, index (waits.map Fin.val),
            match waits with | some st => place (s.station st).queue | none => 0xFF]
          ++ octet r.criteria.length :: ((s.criteriaOf k).zip r.criteria).zipIdx.flatMap
            (fun (x : (Criterion × CriterionState) × Nat) => criterion x.2 x.1.1 x.1.2)
          ++ flag (s.inSpec k) :: timer r.drainHold ++ timer r.drainMax⟩)

/-- SEGMENT_MARK PRODUCT (R57, R58): BAD_INDEX for an index that names no full entry; a FREE segment becomes PRODUCT
unless a valve between it and a CLAIMED segment is SINGLE_SEAT or has a route owner, when the first such valve is the
subject of SEGREGATION; a PRODUCT segment stays so; IN_USE for a CLAIMED one, WRONG_STATE for a SUSPECT one. -/
def Obligations.MarkProduct : Prop :=
  ∀ (a : Ask) (segment : Octet) (s : State), s.listens → s.tablesCanonical →
    let n := segment.toNat
    let answers := fun (r : Reply) => exec (.segmentMarkProduct a segment) s = .next (s.opened.closing a r)
    let claimedSide := fun (side : Option Nat) => ∃ m k, side = some m ∧ s.segState m = .claimed k
    let bars := fun (v : ValveEntry) =>
      (v.sideA = some n ∧ claimedSide v.sideB ∨ v.sideB = some n ∧ claimedSide v.sideA)
      ∧ (v.kind = .singleSeat ∨ v.owner ≠ none)
    (Table.entry s.segments n = none → answers ⟨.badIndex, none, none, []⟩)
    ∧ ∀ e, Table.entry s.segments n = some e →
      (e.state = .free → (∀ x ∈ s.valves, ¬bars x.2) → exec (.segmentMarkProduct a segment) s = .next
        ({ s.opened with segments := s.segments.map fun (x : Nat × SegmentEntry) =>
            if x.1 = n then (x.1, { x.2 with state := .product }) else x }.closing a ⟨.ok, none, none, []⟩))
      ∧ (∀ x ∈ s.valves, e.state = .free → bars x.2 → (∀ y ∈ s.valves, y.1 < x.1 → ¬bars y.2) →
        answers ⟨.segregation, none, some x.1, []⟩)
      ∧ (e.state = .product → answers ⟨.ok, none, none, []⟩)
      ∧ (∀ k, e.state = .claimed k → answers ⟨.inUse, none, some k.val, []⟩)
      ∧ ∀ c, e.state = .suspect c → answers ⟨.wrongState, some 3, none, []⟩

/-- SEGMENT_MARK FREE on a PRODUCT segment sets it to FREE, answers OK and walks the route claim queue (R60); on a
FREE segment it answers OK and changes nothing; IN_USE for a CLAIMED segment, WRONG_STATE for a SUSPECT one (R57).
-/
def Obligations.MarkFree : Prop :=
  ∀ (a : Ask) (segment : Octet) (s : State), s.listens → segment.toNat < 192 →
    let n := segment.toNat
    let answers := fun (r : Reply) => exec (.segmentMarkFree a segment) s = .next (s.opened.closing a r)
    (Table.entry s.segments n = none → answers ⟨.badIndex, none, none, []⟩)
    ∧ ∀ e, Table.entry s.segments n = some e →
      (e.state = .product → exec (.segmentMarkFree a segment) s = .next
        ((State.walk { s.opened with segments := s.segments.map fun (x : Nat × SegmentEntry) =>
            if x.1 = n then (x.1, { x.2 with state := .free }) else x }).closing a ⟨.ok, none, none, []⟩))
      ∧ (e.state = .free → answers ⟨.ok, none, none, []⟩)
      ∧ (∀ k, e.state = .claimed k → answers ⟨.inUse, none, some k.val, []⟩)
      ∧ ∀ c, e.state = .suspect c → answers ⟨.wrongState, some 3, none, []⟩

/-- SUSPECT_CLEAR (R62): BAD_INDEX outside the table and for an empty entry, WRONG_STATE for a segment that is not
SUSPECT; a SUSPECT segment, whatever its cause, becomes FREE, the answer is OK, and the queue is walked. -/
def Obligations.SuspectClear : Prop :=
  ∀ (a : Ask) (segment : Octet) (s : State), s.listens →
    let n := segment.toNat
    let answers := fun (r : Reply) => exec (.suspectClear a segment) s = .next (s.opened.closing a r)
    ((192 ≤ n ∨ Table.entry s.segments n = none) → answers ⟨.badIndex, none, none, []⟩)
    ∧ ∀ e, n < 192 → Table.entry s.segments n = some e →
      (∀ c, e.state = .suspect c → exec (.suspectClear a segment) s = .next
        ((State.walk { s.opened with segments := s.segments.map fun (x : Nat × SegmentEntry) =>
            if x.1 = n then (x.1, { x.2 with state := .free }) else x }).closing a ⟨.ok, none, none, []⟩))
      ∧ ((∀ c, e.state ≠ .suspect c) →
        answers ⟨.wrongState, some (match e.state with | .product => 1 | .claimed _ => 2 | _ => 0), none, []⟩)

/-- EVENT_FETCH (R195, R196). TAKE removes the oldest records, as many as the count asks or as there are, clears the
overflow flag, and keeps the answer's records and flag as the last fetch; REPEAT returns the last fetch and changes
nothing. A count outside 1 to 8 is BAD_REQUEST. -/
def Obligations.EventFetch : Prop :=
  ∀ (a : Ask) (count : Octet) (s : State), s.listens →
    let data := fun (flag : Bool) (left : Nat) (records : List Event) =>
      (if flag then 0x01 else 0x00) :: octet left :: octet records.length :: records.flatMap eventOctets
    (1 ≤ count.toNat → count.toNat ≤ 8 →
      exec (.eventFetchTake a count) s = .next ({ s.opened with
        events := s.events.drop count.toNat
        overflow := false
        lastFetch := some ⟨s.events.take count.toNat, s.overflow⟩ }.closing a
          ⟨.ok, none, none, data s.overflow (s.events.length - count.toNat) (s.events.take count.toNat)⟩)
      ∧ (∀ x, s.lastFetch = some x → exec (.eventFetchRepeat a count) s = .next
        (s.opened.closing a ⟨.ok, none, none, data x.overflow s.events.length x.records⟩))
      ∧ (s.lastFetch = none → exec (.eventFetchRepeat a count) s = .next
        (s.opened.closing a ⟨.ok, none, none, data false s.events.length []⟩)))
    ∧ ((count.toNat = 0 ∨ 8 < count.toNat) → ∀ i, i = Instr.eventFetchTake a count
        ∨ i = Instr.eventFetchRepeat a count →
      exec i s = .next (s.opened.closing a ⟨.badRequest, none, none, []⟩))

/-- RESTART (R204, R205, R197). Refused with ROUNDS_ACTIVE while a round is outside IDLE, DONE and FAULTED, with the
lowest such slot as subject. Taken: the segments of FAULTED rounds become SUSPECT, FAULTED and DONE records return to
the values of R82, every owner clears, stations are FREE and headers STEADY on DRAIN, staging record and last fetch
are cleared, and RESTARTED is the one record of the queue. Everything else is kept. -/
def Obligations.Restart : Prop :=
  ∀ (a : Ask) (s : State), s.listens →
    let busy := fun k => (s.round k).state ≠ .idle ∧ (s.round k).state ≠ .done ∧ (s.round k).state ≠ .faulted
    (∀ k, busy k → (∀ j, j < k → ¬busy j) →
      exec (.restart a) s = .next (s.opened.closing a ⟨.roundsActive, none, some k.val, []⟩))
    ∧ ((∀ k, ¬busy k) → ∃ u : State,
      exec (.restart a) s = .next (u.closing a ⟨.ok, none, none, []⟩)
      ∧ u = { s.opened with
        segments := u.segments, valves := u.valves, drives := u.drives, stations := u.stations
        headers := u.headers, rounds := u.rounds, staging := none, lastFetch := none, events := u.events
        overflow := false }
      ∧ (∀ n e, Table.entry s.segments n = some e → ∃ x, Table.entry u.segments n = some { e with state := x }
        ∧ ((∃ k r, (s.round k).state = .faulted ∧ s.routeOf k = some r ∧ n ∈ r.segments) →
          x = .suspect .restart)
        ∧ ((∀ k r, (s.round k).state = .faulted → s.routeOf k = some r → n ∉ r.segments) → x = e.state))
      ∧ u.valves = s.valves.map (fun x => (x.1, { x.2 with owner := none }))
      ∧ u.drives = s.drives.map (fun x => (x.1, { x.2 with owner := none }))
      ∧ (∀ st, u.station st = { s.station st with granted := none, linked := false })
      ∧ (∀ h, u.header h
        = ⟨(s.header h).load, .drain, none, .steady, ⟨.stopped, 0, 0⟩, ⟨.stopped, 0, 0⟩⟩)
      ∧ (∀ k, ((s.round k).state = .idle → u.round k = s.round k)
        ∧ ((s.round k).state ≠ .idle → (u.round k).asAtPowerOn))
      ∧ u.events = [{ bareEvent .restarted s.partTime with
          cause := if s.overflow then some .overflow else none
          value := some (.number s.events.length) }])

/-! ### The timers -/

/-- The five timers whose expiry faults a round (R89, R93, R94, R102, R107, R108). In a state that takes the cause,
the round is FAULTED with the cause, its subject, its step index and the part time of the expiry; its station is
given up and its header is STEADY on DRAIN; the claim stays; FAULT is offered, and then ROUND_STATE, to the queue as
the examination of the released station leaves it: the queue before, where no round waits for that station. MODEL'S
CHOICES: the part time the timer lacks passes first (log 4), and a timer that does not run changes nothing (log 7).
-/
def Obligations.TimeoutsFault : Prop :=
  ∀ (k : Slot) (s : State), s.unqueued k →
    let r := s.round k
    let faults := fun (i : Instr) (t : Timer) (cause : FaultCause) (subject : Option Subject) =>
      let p := s.pass (t.limit - t.elapsed)
      (t.mode ≠ .running → exec i s = .next s)
      ∧ (t.mode = .running → ∃ (u w : State), exec i s = .next u
        ∧ sequencerFrame p u
        ∧ (u.round k).faultedWith ⟨cause, subject, r.step, s.partTime + BitVec.ofNat 32 (t.limit - t.elapsed)⟩
        ∧ (∀ st, r.held = some st → (u.station st).granted ≠ some k)
        ∧ (∀ h, r.header = some h → (u.header h).current = .drain ∧ (u.header h).interface = .steady)
        ∧ sequencerFrame p w
        ∧ ((∀ st, r.held = some st → (s.station st).queue = []) →
          w.events = s.events ∧ w.overflow = s.overflow ∧ ∀ j, j ≠ k → u.round j = p.round j)
        ∧ let v := (w.offer { bareEvent .fault p.partTime with
            slot := some k, subject := subject, cause := some (.fault cause)
            value := some (.number r.step) }).offer (roundStateEvent k .faulted none p.partTime)
          u.events = v.events ∧ u.overflow = v.overflow)
    (r.state = .setting → faults (.travelTimerExpiry k) r.travel .travelTimeout ((s.unsettled k).map .valve))
    ∧ (r.state = .stepFill → faults (.fillTimerExpiry k) r.fill .fillTimeout ((s.fillPoint k).map .point))
    ∧ (r.state = .stepFill ∨ r.state = .stepTiming →
      faults (.wallTimerExpiry k) r.wall .stepOvertime none)
    ∧ (r.state = .holding ∨ r.state = .paused → faults (.holdLimitExpiry k) r.holdLimit .holdTooLong none)
    ∧ (r.state = .ending → faults (.drainMaximumExpiry k) r.drainMax .drainOvertime
      ((s.headerLoadOf k).map fun l => .point l.flow))

/-- The states in which the sequencer takes each fault cause (R109). HEADER_LOST is taken in SETTING at its entry
(R87): a claim granted on a route whose header entry is empty takes the segments and faults the round at once;
MODEL'S CHOICE (log 12): behind the ROUND_STATE of SETTING. A drive's reply that shows the pump of a round's held
station with FAULT faults the round in STEP_FILL and STEP_TIMING (R99, R160), and changes no round otherwise,
SETTING apart. -/
def Obligations.FaultCausesTaken : Prop :=
  (∀ r : Round,
    (r.takes .headerLost = true ↔ r.state = .setting)
    ∧ (r.takes .travelTimeout = true ↔ r.state = .setting)
    ∧ (r.takes .fillTimeout = true ↔ r.state = .stepFill)
    ∧ (r.takes .stepOvertime = true ↔ r.state = .stepFill ∨ r.state = .stepTiming)
    ∧ (r.takes .driveFault = true ↔ r.state = .stepFill ∨ r.state = .stepTiming)
    ∧ (r.takes .holdTooLong = true ↔ r.state = .holding ∨ r.state = .paused)
    ∧ (r.takes .drainOvertime = true ↔ r.state = .ending)
    ∧ (r.takes .stationUnfit = true ↔ r.state = .waitStation)
    ∧ (r.takes .criterionUnbound = true ↔ r.state = .waitStation)
    ∧ (r.takes .scanMismatch = true ↔ r.state = .stepFill ∨ r.state = .stepTiming ∨ r.state = .ending)
    ∧ (r.takes .segregationBreach = true ↔ r.wet = true
      ∧ (r.state = .setting ∨ r.state = .waitStation ∨ r.state = .stepFill ∨ r.state = .stepTiming
        ∨ r.state = .paused ∨ r.state = .holding ∧ r.resume ≠ some .ending)))
  ∧ (∀ (s : State) (k : Slot) (r : Route), s.routeOf k = some r → s.routeHeader r = none →
    let u := s.grantClaim k
    let subject := r.lastSegment.map Subject.segment
    (u.round k).faultedWith ⟨.headerLost, subject, (s.round k).step, s.partTime⟩
    ∧ k ∉ u.claimQueue
    ∧ (∀ n ∈ r.segments, Table.entry s.segments n ≠ none → u.segState n = .claimed k)
    ∧ ((s.round k).held = none →
      u.events = (((s.offer (roundStateEvent k .setting none s.partTime)).offer { bareEvent .fault s.partTime with
        slot := some k, subject := subject, cause := some (.fault .headerLost)
        value := some (.number (s.round k).step) }).offer (roundStateEvent k .faulted none s.partTime)).events))
  ∧ ∀ (s : State) (octets : List Octet) (f : Frame) (i : Nat) (e : NodeEntry) (replies : List (DriveStatus × Nat))
      (k : Slot) (st : StationId) (l : StationLoad) (d : DriveEntry),
    s.tablesCanonical → readFrame (s.rxF ++ octets) = some f → s.tapped f = some (i, e, .drives replies) →
    e.silent = false → (∀ j, k ∉ (s.station j).queue) → (s.round k).held = some st →
    (s.station st).load = some l → Table.entry s.drives l.pump = some d → d.node = e.address →
    let shows := (replies[d.channel]?).map (·.1) = some .fault
    ∃ t : State, exec (.frameArrivalF octets) s = .next t
      ∧ (shows → (s.round k).state = .stepFill ∨ (s.round k).state = .stepTiming →
        (t.round k).faultedWith ⟨.driveFault, some (.drive l.pump), (s.round k).step, s.partTime⟩)
      ∧ ((s.round k).state ≠ .setting →
        (¬shows ∧ d.channel < replies.length ∨ (s.round k).state ≠ .stepFill ∧ (s.round k).state ≠ .stepTiming) →
        t.round k = s.round k)

/-- AGEING_TIMER_EXPIRY (R71): a waiting round is promoted by one class, C to B with a fresh timer of the limit for
class B, B to A with none; its request time stays, and PRIORITY_AGED names the station it waits for. MODEL'S CHOICE
(log 4): the part time the timer lacks passes first. -/
def Obligations.AgeingPromotes : Prop :=
  ∀ (k : Slot) (s : State) (st : StationId), (s.round k).ageing.mode = .running →
    k ∈ (s.station st).queue → (∀ j, j ≠ st → k ∉ (s.station j).queue) →
    let lacks := (s.round k).ageing.limit - (s.round k).ageing.elapsed
    let p := s.pass lacks
    ∀ (grade : RoundClass) (timer : Timer),
      ((s.round k).effective = .c ∧ grade = .b ∧ timer = ⟨.running, 0, 1000 * s.config.ageB.toNat⟩
        ∨ (s.round k).effective = .b ∧ grade = .a ∧ timer.mode = .stopped ∧ timer.elapsed = 0 ∧ timer.limit = 0) →
      ∃ u : State, exec (.ageingTimerExpiry k) s = .next u
        ∧ u = { p with rounds := u.rounds, events := u.events, overflow := u.overflow }
        ∧ (∀ j, j ≠ k → u.round j = p.round j)
        ∧ u.round k = { p.round k with effective := grade, ageing := timer }
        ∧ u.events = (p.offer { bareEvent .priorityAged p.partTime with
            slot := some k, subject := some (.station st.val), value := some (.cls grade) }).events

/-- HOLD_TIME_REACHED (R123, R95, R96, R74, R75). In an in-spec round hold accumulated reaches the hold time and
stays there while lifts remain. With the lifts done the step completes, and STEP_DONE is offered first (given here
where no round waits for the station and no interface is cut): a linked hold keeps the station and begins the next
step in STEP_FILL; otherwise the station is released, and the round begins the next step, or after the last one
enters ENDING with result COMPLETED. MODEL'S CHOICES: the part time that hold accumulated lacks passes first (log
4), and for a round out of spec that has not reached its hold time the command changes nothing (log 7). -/
def Obligations.HoldTimeReached : Prop :=
  ∀ (k : Slot) (s : State) (step : RecipeStep), s.stepOf k = some step →
    let r := s.round k
    let p := s.pass (1000 * step.holdTime - r.holdAcc)
    (s.inSpec k = false → r.holdAcc < 1000 * step.holdTime → exec (.holdTimeReached k) s = .next s)
    ∧ (s.inSpec k = true → (p.round k).holdAcc = max r.holdAcc (1000 * step.holdTime)
      ∧ (r.lift ≠ .done → exec (.holdTimeReached k) s = .next p)
      ∧ (r.lift = .done → s.unqueued k →
        let done := p.offer { bareEvent .stepDone p.partTime with
          slot := some k, value := some (.number r.step) }
        let uncut := ∀ h, r.header = some h → (s.header h).interface = .steady
        ∃ u : State, exec (.holdTimeReached k) s = .next u
        ∧ sequencerFrame p u
        ∧ (s.nextStep k = none → r.state = .stepTiming →
          (u.round k).result = some (r.result.getD .completed) ∧ (u.round k).held = none
          ∧ (u.round k).step = r.step
          ∧ ((u.round k).causes = ⟨false, []⟩ → (u.round k).state = .ending
            ∧ (u.round k).drainHold = ⟨.running, 0, 100 * s.config.drainHold.toNat⟩)
          ∧ ((u.round k).causes ≠ ⟨false, []⟩ → (u.round k).state = .holding
            ∧ (u.round k).resume = some .ending)
          ∧ (uncut → (∀ st, r.held = some st → (s.station st).queue = []) →
            u.events = (done.offer (roundStateEvent k (u.round k).state none p.partTime)).events))
        ∧ (∀ next st, s.nextStep k = some next → r.held = some st → s.linkedHold k = true →
          r.causes = ⟨false, []⟩ → next.medium ≠ .air →
          (u.round k).step = r.step + 1 ∧ (u.round k).held = some st ∧ (u.round k).holdAcc = 0
          ∧ (u.station st).granted = (s.station st).granted ∧ (u.station st).queue = (s.station st).queue
          ∧ ((u.round k).causes = ⟨false, []⟩ → (u.round k).state = .stepFill ∧ (u.round k).linked = false
            ∧ (u.station st).linked = false ∧ (u.round k).supplyBegun = true
            ∧ (u.round k).wall = ⟨.running, 0, 1000 * next.wallLimit⟩
            ∧ (u.round k).fill = ⟨.running, 0, 1000 * next.fillLimit⟩)
          ∧ ((u.round k).causes ≠ ⟨false, []⟩ → (u.round k).state = .holding
            ∧ (u.round k).resume = some .stepFill ∧ (u.round k).linked = true)
          ∧ (uncut →
            u.events = (done.offer (roundStateEvent k (u.round k).state none p.partTime)).events))
        ∧ (∀ next st j route, s.nextStep k = some next → r.held = some st → s.linkedHold k = false →
          s.routeOf k = some route → next.choice = some j → (s.station st).queue = [] → j ≠ st →
          (s.station j).granted ≠ none →
          (u.round k).step = r.step + 1 ∧ (u.round k).held = none ∧ (u.round k).state = .waitStation
          ∧ (u.round k).requestTime = some p.partTime ∧ (u.round k).effective = r.given
          ∧ (u.station j).queue = (s.station j).queue ++ [k] ∧ (u.station st).granted = none
          ∧ u.events = (done.offer (roundStateEvent k .waitStation none p.partTime)).events)))

/-- LIFT_TIMER_EXPIRY in STEP_TIMING (R97): a LIFTED phase is followed by the CLOSED phase of the same pulse; a
CLOSED phase by the next pulse, by the first pulse of the next MIXPROOF valve of the boundary list, or by DONE.
MODEL'S CHOICE (log 4): the part time the timer lacks passes first. -/
def Obligations.LiftPhases : Prop :=
  ∀ (k : Slot) (s : State) (r : Route) (b : BoundaryItem) (step : RecipeStep) (n pulse : Nat) (v : ValveEntry),
    (s.round k).liftTimer.mode = .running → (s.round k).state = .stepTiming → s.stepOf k = some step →
    s.routeOf k = some r → r.boundary[n]? = some b → Table.entry s.valves b.valve = some v →
    let p := s.pass ((s.round k).liftTimer.limit - (s.round k).liftTimer.elapsed)
    let phase : Timer := ⟨.running, 0, 100 * step.liftLength⟩
    let commands := fun (u : State) (m : Nat) (x : Position) (lift : LiftProgress) =>
      u = { p with valves := u.valves, rounds := u.rounds }
      ∧ (∀ j, j ≠ k → u.round j = p.round j)
      ∧ u.round k = { p.round k with lift := lift, liftTimer := phase }
      ∧ (∀ y, Table.entry s.valves m = some y → (Table.entry u.valves m).map (·.commanded) = some (some x))
      ∧ ∀ i, i ≠ m → Table.entry u.valves i = Table.entry s.valves i
    ∃ u : State, exec (.liftTimerExpiry k) s = .next u
      ∧ ((s.round k).lift = .active n pulse .lifted → commands u b.valve .close (.active n pulse .closed))
      ∧ ((s.round k).lift = .active n pulse .closed → pulse < step.pulses →
        commands u b.valve (match b.outer with | .a => .liftB | .b => .liftA) (.active n (pulse + 1) .lifted))
      ∧ (∀ m c w, (s.round k).lift = .active n pulse .closed → step.pulses ≤ pulse → n < m →
        r.boundary[m]? = some c → Table.entry s.valves c.valve = some w → w.kind = .mixproof →
        (∀ i d x, n < i → i < m → r.boundary[i]? = some d → Table.entry s.valves d.valve = some x →
          x.kind = .singleSeat) →
        commands u c.valve (match c.outer with | .a => .liftB | .b => .liftA) (.active m 1 .lifted))
      ∧ ((s.round k).lift = .active n pulse .closed → step.pulses ≤ pulse →
        (∀ i d x, n < i → r.boundary[i]? = some d → Table.entry s.valves d.valve = some x →
          x.kind = .singleSeat) →
        (p.round k).holdAcc < 1000 * step.holdTime →
        u = { p with rounds := u.rounds } ∧ (∀ j, j ≠ k → u.round j = p.round j)
        ∧ u.round k = { p.round k with
          lift := .done, liftTimer := { (p.round k).liftTimer with mode := .stopped } })

/-- DRAIN_HOLD_ELAPSE in ENDING (R107, R52): the segments become FREE, the owners clear, the header is released to
STEADY on DRAIN, the round is DONE with its result and end time, and the route claim queue is walked. A reply that
carries the header's return flow (R141, R160) lets the drain hold run on when the value is GOOD and not above the
drain flow limit, and sets it back to 0.0 otherwise; a round in HOLDING takes none. MODEL'S CHOICES: the part time
the timer lacks passes first (log 4); a timer that does not run changes nothing (log 7); outside ENDING only that
time passes (log 32). -/
def Obligations.DrainHoldElapse : Prop :=
  (∀ (k : Slot) (s : State), (s.round k).drainHold.mode ≠ .running → exec (.drainHoldElapse k) s = .next s)
  ∧ (∀ (k : Slot) (s : State) (r : Route), (s.round k).drainHold.mode = .running → s.routeOf k = some r →
    let p := s.pass ((s.round k).drainHold.limit - (s.round k).drainHold.elapsed)
    ((s.round k).state ≠ .ending → exec (.drainHoldElapse k) s = .next p)
    ∧ ((s.round k).state = .ending → ∃ u : State, exec (.drainHoldElapse k) s = .next u.walk
      ∧ arbiterFrame p u ∧ u.claimQueue = s.claimQueue ∧ u.stations = s.stations ∧ u.drives = s.drives
      ∧ (∀ j, j ≠ k → u.round j = p.round j)
      ∧ (∀ n, u.segState n = if n ∈ r.segments then .free else s.segState n)
      ∧ (∀ x ∈ u.valves, x.2.owner ≠ some k)
      ∧ (∀ h, (s.round k).header = some h → (u.header h).current = .drain ∧ (u.header h).interface = .steady
        ∧ (u.header h).pending = none)
      ∧ (u.round k).state = .done ∧ (u.round k).endTime = some p.partTime
      ∧ (u.round k).result = (s.round k).result ∧ (u.round k).header = none
      ∧ (u.round k).drainHold.mode = .stopped ∧ (u.round k).drainMax.mode = .stopped
      ∧ (u.round k).causes = ⟨false, []⟩
      ∧ u.events = (p.offer (roundStateEvent k .done (s.round k).result p.partTime)).events))
  ∧ ∀ (s : State) (octets : List Octet) (f : Frame) (i : Nat) (e : NodeEntry) (l : List (Nat × Quality × Nat))
      (k : Slot) (h : HeaderId) (x : HeaderLoad),
    s.tablesCanonical → readFrame (s.rxF ++ octets) = some f → s.tapped f = some (i, e, .points l) →
    e.silent = false → (∀ st, k ∉ (s.station st).queue) → (s.round k).header = some h →
    (s.header h).load = some x →
    ∃ t : State, exec (.frameArrivalF octets) s = .next t
      ∧ (∀ p, (s.round k).state = .ending → t.carriesPoint e l x.flow p →
        let low := p.quality = .good ∧ ∃ v, p.value = some v ∧ v ≤ s.config.drainFlow.toNat
        (low → t.round k = s.round k)
        ∧ (¬low → t.round k
          = { s.round k with drainHold := ⟨.running, 0, 100 * s.config.drainHold.toNat⟩ }))
      ∧ (((s.round k).state = .ending ∧ (∀ p, ¬t.carriesPoint e l x.flow p) ∨ (s.round k).state = .holding) →
        t.round k = s.round k)

/-! ### The headers -/

/-- The interface timers of a header (R133, R135, R136). When the hold elapses in INTERFACE_IN the header switches
to the pending target and is STEADY; in INTERFACE_OUT a pending target that carries no chemical medium is switched
to at once, and one that carries one begins an interface-in on DRAIN with both timers from 0.0, the hold stopped
there while the conductivity point's node is silent (R138; MODEL'S CHOICE, log 36). A switch commands
the serving diverter OPEN and the others CLOSE (R130). When the maximum expires first, INTERFACE_LONG is offered
with the owning round, the header segment, the interface state and the pending target; an INTERFACE_OUT header then
takes the pending target in the same way, and an INTERFACE_IN header gives it up and is STEADY on DRAIN. A reply
that carries the conductivity point (R132, R134, R138) lets a running hold run on when the sample is GOOD and below
the limit of the current target's medium (INTERFACE_OUT), or at or above that of the pending target's
(INTERFACE_IN), and sets it to 0.0, running, otherwise; a STEADY header takes no sample. MODEL'S CHOICES: the
part time a timer lacks passes first (log 4); a timer that does not run, or is the hold of another interface state,
changes nothing (log 7). -/
def Obligations.InterfaceTimers : Prop :=
  ∀ (h : HeaderId) (l : HeaderLoad) (s : State), (s.header h).load = some l →
    let x := s.header h
    let diverted := fun (p u : State) (target : Target) => (∀ j, j ≠ h → u.header j = p.header j)
      ∧ ∀ n v, Table.entry s.valves n = some v → ∃ w, Table.entry u.valves n = some w
        ∧ w.untouched = v.untouched ∧ w.owner = v.owner
        ∧ (n ∉ l.diverters → w = v)
        ∧ (n ∈ l.diverters → w.commanded = some (if l.serving target = some n then .open else .close))
        ∧ (w.commanded = v.commanded → w.changed = v.changed)
        ∧ (w.commanded ≠ v.commanded → w.changed = some p.partTime)
    let steady := fun (u : State) (target : Target) => (u.header h).load = some l
      ∧ (u.header h).current = target ∧ (u.header h).pending = none ∧ (u.header h).interface = .steady
      ∧ (u.header h).hold.mode = .stopped ∧ (u.header h).maximum.mode = .stopped
    let silent := (l.cond.bind s.pointNode).any s.nodeSilent
    let takes := fun (p u : State) (target : Target) =>
      (target.chemical = none → steady u target ∧ diverted p u target)
      ∧ (target.chemical ≠ none → diverted p u .drain
        ∧ u.header h = ⟨some l, .drain, some target, .interfaceIn,
          ⟨if silent then .stopped else .running, 0, 100 * s.config.interfaceHold.toNat⟩,
          ⟨.running, 0, 1000 * s.config.interfaceMax.toNat⟩⟩)
    (∀ target, x.pending = some target → x.hold.mode = .running →
      let p := s.pass (x.hold.limit - x.hold.elapsed)
      (x.interface = .interfaceIn → ∃ u : State, exec (.interfaceInHoldElapse h) s = .next u
        ∧ u = { p with valves := u.valves, headers := u.headers } ∧ steady u target ∧ diverted p u target)
      ∧ (x.interface = .interfaceOut → ∃ u : State, exec (.interfaceOutHoldElapse h) s = .next u
        ∧ u = { p with valves := u.valves, headers := u.headers } ∧ takes p u target))
    ∧ ((x.interface ≠ .interfaceIn ∨ x.hold.mode ≠ .running) → exec (.interfaceInHoldElapse h) s = .next s)
    ∧ ((x.interface ≠ .interfaceOut ∨ x.hold.mode ≠ .running) → exec (.interfaceOutHoldElapse h) s = .next s)
    ∧ (x.maximum.mode ≠ .running → exec (.interfaceMaximumExpiry h) s = .next s)
    ∧ (∀ target, x.pending = some target → x.maximum.mode = .running → x.interface ≠ .steady →
      let p := s.pass (x.maximum.limit - x.maximum.elapsed)
      let long := p.offer { bareEvent .interfaceLong p.partTime with
        slot := (match s.segState l.segment with | .claimed k => some k | _ => none)
        subject := some (.segment l.segment)
        cause := some (.interface x.interface)
        value := some (.target target) }
      ∃ u : State, exec (.interfaceMaximumExpiry h) s = .next u
        ∧ u = { long with valves := u.valves, headers := u.headers }
        ∧ (x.interface = .interfaceOut → takes p u target)
        ∧ (x.interface = .interfaceIn → steady u .drain
          ∧ (x.current = .drain → u.valves = s.valves ∧ ∀ j, j ≠ h → u.header j = p.header j)
          ∧ (x.current ≠ .drain → diverted p u .drain)))
    ∧ ∀ (octets : List Octet) (f : Frame) (i : Nat) (e : NodeEntry) (samples : List (Nat × Quality × Nat)) (n : Nat),
      s.tablesCanonical → readFrame (s.rxF ++ octets) = some f → s.tapped f = some (i, e, .points samples) →
      e.silent = false → l.cond = some n →
      ∃ t : State, exec (.frameArrivalF octets) s = .next t
        ∧ ((∀ k, (s.round k).state ≠ .setting
            ∧ ((s.round k).state = .stepFill → ¬s.completesFill t e samples k)) →
          (∀ p, t.carriesPoint e samples n p → x.interface ≠ .steady →
            let limit := fun (m : Medium) => match m with
              | .acid => s.config.acidLimit.toNat
              | _ => s.config.causticLimit.toNat
            let meets := p.quality = .good ∧ ∃ v m, p.value = some v
              ∧ (x.interface = .interfaceOut ∧ x.current.chemical = some m ∧ v < limit m
                ∨ x.interface = .interfaceIn ∧ x.pending.bind Target.chemical = some m ∧ limit m ≤ v)
            (meets → x.hold.mode = .running → t.header h = x)
            ∧ (¬(meets ∧ x.hold.mode = .running) →
              t.header h = { x with hold := ⟨.running, 0, 100 * s.config.interfaceHold.toNat⟩ }))
          ∧ ((x.interface = .steady ∨ ∀ p, ¬t.carriesPoint e samples n p) → t.header h = x))

/-! ### The proof scan -/

/-- VISIT_TIMER_EXPIRY (R169, R172, R173, R177). The timer restarts with the period as it stands. With no valve that
qualifies the pointer stays and every miss count is 0. Otherwise the first that qualifies after the pointer is
visited and the pointer set to it; those passed over have their miss count set to 0. A visit that passes over, or
matches, sets the miss count to 0; the first mismatch sets it to 1; the second is judged, and with no breach and no
owner in STEP_FILL, STEP_TIMING or ENDING it is a PROOF_MISMATCH. MODEL'S CHOICES: the part time the timer lacks
passes first (log 4); what an earlier visit handed over and is still on its way arrives before that (log 42). -/
def Obligations.ProofScanVisit : Prop :=
  (∀ s : State, exec .visitTimerExpiry s = exec .visitTimerExpiry s.takeHanded) ∧
  ∀ s : State, s.handed = [] → s.visitTimer.mode = .running → s.tablesCanonical → (∀ n, s.scanPointer = some n → n < 512) →
    let p := s.pass (s.visitTimer.limit - s.visitTimer.elapsed)
    let timer : Timer := ⟨.running, 0, s.config.visitPeriod.toNat⟩
    let start := match s.scanPointer with | some n => n + 1 | none => 0
    let rank := fun (n : Nat) => (n + 512 - start) % 512
    ((∀ x ∈ s.valves, s.qualifies x.2 = false) → exec .visitTimerExpiry s = .next { p with
      visitTimer := timer, valves := s.valves.map fun (x : Nat × ValveEntry) => (x.1, { x.2 with misses := 0 }) })
    ∧ ∀ n v, (n, v) ∈ s.valves → s.qualifies v = true →
      (∀ x ∈ s.valves, s.qualifies x.2 = true → rank n ≤ rank x.1) →
      let visited := fun (count : Nat) => { p with
        visitTimer := timer
        scanPointer := some n
        valves := s.valves.map fun (x : Nat × ValveEntry) => (x.1, { x.2 with misses :=
          if x.1 = n then count else if (rank x.1 < rank n) then 0 else x.2.misses }) }
      let passes := expected v = none
        ∨ v.changed = none ∨ ∃ t, v.changed = some t ∧ (p.partTime - t).toNat < s.allowance v
      let miss := ¬passes ∧ expected v ≠ some v.feedback
      ((passes ∨ expected v = some v.feedback) → exec .visitTimerExpiry s = .next (visited 0))
      ∧ (miss → v.misses = 0 → exec .visitTimerExpiry s = .next (visited 1))
      ∧ ∀ want, miss → v.misses ≠ 0 → expected v = some want → s.breachAt v = none →
        (∀ k, v.owner = some k → (s.round k).state ≠ .stepFill ∧ (s.round k).state ≠ .stepTiming
          ∧ (s.round k).state ≠ .ending) →
        exec .visitTimerExpiry s = .next ((visited 0).offer { bareEvent .proofMismatch p.partTime with
          slot := s.mismatchSlot v, subject := some (.valve n), cause := some (.feedback v.feedback)
          value := some (.feedback want) })

/-- VISIT_TIMER_EXPIRY at the second mismatch of a valve (R173 to R176, R61). Between PRODUCT and a wet round's
CLAIMED segment: SEGREGATION_BREACH is offered first, the PRODUCT segment becomes SUSPECT with cause BREACH, and the
round is FAULTED in a state that takes the cause; in any other state it stays. With no breach, the owner in
STEP_FILL, STEP_TIMING or ENDING is FAULTED with SCAN_MISMATCH. FAULT and ROUND_STATE are offered last, to the queue
as the examination of the released station leaves it: the queue before, where no round waits for that station. The
route claim queue is empty here, and the round waits for no station. The scan hands the marking and the report to
their owners: they are taken in the visit, or are on their way when it ends, and `u.takeHanded` is the state once they
have arrived with no event between. Then a marking that finds the segment FREE makes it SUSPECT, one that finds it
CLAIMED or SUSPECT changes nothing, and a report that the round does not take changes nothing (R61, R109, R179).
MODEL'S CHOICES: the part time the timer lacks passes first (log 4); which of the two it is, is free (log 42). -/
def Obligations.ScanJudgement : Prop :=
  (∀ (m : Nat) (s : State), s.handed = [.marking m] →
    (s.segState m = .free → s.takeHanded = { s with
      handed := []
      segments := s.segments.map fun (x : Nat × SegmentEntry) =>
        if x.1 = m then (x.1, { x.2 with state := .suspect .breach }) else x })
    ∧ (s.segState m ≠ .free → s.segState m ≠ .product → s.takeHanded = { s with handed := [] }))
  ∧ (∀ (k : Slot) (n : Nat) (s : State),
    (s.handed = [.breach k n] → (s.round k).takes .segregationBreach = false → s.takeHanded = { s with handed := [] })
    ∧ (s.handed = [.mismatch k n] → (s.round k).takes .scanMismatch = false → s.takeHanded = { s with handed := [] }))
  ∧ ∀ (n : Nat) (v : ValveEntry) (want : Feedback) (time : PartTime) (s : State),
    s.visitTimer.mode = .running → s.tablesCanonical → (∀ m, s.scanPointer = some m → m < 512) →
    s.handed = [] → (n, v) ∈ s.valves → s.qualifies v = true → s.claimQueue = [] →
    let p := s.pass (s.visitTimer.limit - s.visitTimer.elapsed)
    let start := match s.scanPointer with | some m => m + 1 | none => 0
    let rank := fun (m : Nat) => (m + 512 - start) % 512
    (∀ x ∈ s.valves, s.qualifies x.2 = true → rank n ≤ rank x.1) →
    expected v = some want → want ≠ v.feedback → v.changed = some time →
    s.allowance v ≤ (p.partTime - time).toNat → v.misses ≠ 0 →
    let visited := { p with
      visitTimer := ⟨.running, 0, s.config.visitPeriod.toNat⟩
      scanPointer := some n
      valves := s.valves.map fun (x : Nat × ValveEntry) => (x.1, { x.2 with misses :=
        if x.1 = n then 0 else if (rank x.1 < rank n) then 0 else x.2.misses }) }
    let breaches := fun (k : Slot) (product claimed : Nat) =>
      (v.sideA = some product ∧ v.sideB = some claimed ∨ v.sideB = some product ∧ v.sideA = some claimed)
      ∧ s.segState product = .product ∧ s.segState claimed = .claimed k ∧ (s.round k).wet = true
    let faulted := fun (b u : State) (k : Slot) (cause : FaultCause) =>
      sequencerFrame b u
      ∧ (u.round k).faultedWith ⟨cause, some (.valve n), (s.round k).step, p.partTime⟩
      ∧ ∃ w : State, sequencerFrame b w
        ∧ ((∀ st, (s.round k).held = some st → (s.station st).queue = []) →
          w.events = b.events ∧ w.overflow = b.overflow ∧ ∀ j, j ≠ k → u.round j = p.round j)
        ∧ let x := (w.offer { bareEvent .fault p.partTime with
            slot := some k, subject := some (.valve n), cause := some (.fault cause)
            value := some (.number (s.round k).step) }).offer (roundStateEvent k .faulted none p.partTime)
          u.events = x.events ∧ u.overflow = x.overflow
    (∀ k product claimed, breaches k product claimed →
      let b := { visited.offer { bareEvent .segregationBreach p.partTime with
          slot := some k
          subject := some (.valve n)
          second := some (.segment product)
          cause := some (.feedback v.feedback)
          value := some (.number claimed) } with
        freeCount := s.freeCount + 1
        segments := s.segments.map fun (x : Nat × SegmentEntry) =>
          if x.1 = product then (x.1, { x.2 with state := .suspect .breach }) else x }
      ∃ u : State, exec .visitTimerExpiry s = .next u
        ∧ (u.handed = [] ∨ u = { b with segments := s.segments, handed := [.marking product, .breach k n] })
        ∧ ((s.round k).takes .segregationBreach = false → u.takeHanded = b)
        ∧ ((s.round k).takes .segregationBreach = true → (∀ st, k ∉ (s.station st).queue) →
          faulted b u.takeHanded k .segregationBreach))
    ∧ ∀ k, (∀ j product claimed, ¬breaches j product claimed) → v.owner = some k →
      (∀ st, k ∉ (s.station st).queue) →
      ((s.round k).state = .stepFill ∨ (s.round k).state = .stepTiming ∨ (s.round k).state = .ending) →
      let b := { visited with freeCount := s.freeCount + 1 }
      ∃ u : State, exec .visitTimerExpiry s = .next u
        ∧ (u.handed = [] ∨ u = { b with handed := [.mismatch k n] }) ∧ faulted b u.takeHanded k .scanMismatch

/-! ### Invariants that every step keeps -/

/-- The loaded tables stay in canonical form, within their index ranges and without duplicates. -/
def Obligations.StepKeepsTablesCanonical : Prop :=
  ∀ s t : State, s.tablesCanonical → step s = .next t → t.tablesCanonical

/-- Every header's timers and pending target go on agreeing with its interface state. -/
def Obligations.StepKeepsHeadersSound : Prop :=
  ∀ s t : State, s.headersSound → step s = .next t → t.headersSound

/-- A valve between a PRODUCT and a CLAIMED segment stays a MIXPROOF valve (R56). -/
def Obligations.StepKeepsProductApart : Prop :=
  ∀ s t : State, s.productApart → step s = .next t → t.productApart

/-- The event queue, the miss counts, the drive limits and the configuration record stay within their bounds. -/
def Obligations.StepKeepsBounds : Prop :=
  ∀ s t : State, s.bounded → step s = .next t → t.bounded

/-- The four invariants hold after reset. -/
def Obligations.InvariantsAtReset : Prop :=
  State.reset.tablesCanonical ∧ State.reset.headersSound ∧ State.reset.productApart ∧ State.reset.bounded

/-! ### The queues, the windows and the claims -/

/-- A sample passes when it is GOOD and compares (R120), a window takes results at its newest end and holds the most
recent N of them in arrival order (R121), a criterion is satisfied by N results of which M pass (R122), and a reply
that carries the resolved point of a criterion of a round in STEP_TIMING appends one result to its window; a
criterion whose point it does not carry, and everything else in the round, stay (R119). -/
def Obligations.CriterionWindows : Prop :=
  (∀ (c : Criterion) (p : PointEntry), c.passes p = true ↔ p.quality = .good ∧ ∃ v, p.value = some v
    ∧ (c.comparison = .atLeast ∧ c.limit ≤ v ∨ c.comparison = .atMost ∧ v ≤ c.limit))
  ∧ (∀ (n : Nat) (results : List Bool), 1 ≤ n →
    results.foldl (fun w x => appendResult n x w) [] = results.drop (results.length - n))
  ∧ (∀ (c : Criterion) (x : CriterionState), c.satisfied x = true ↔
    x.point ≠ none ∧ x.window.length = c.window ∧ c.required ≤ x.window.count true)
  ∧ ∀ (s : State) (octets : List Octet) (f : Frame) (i : Nat) (e : NodeEntry) (l : List (Nat × Quality × Nat))
      (k : Slot) (step : RecipeStep),
    s.tablesCanonical → readFrame (s.rxF ++ octets) = some f → s.tapped f = some (i, e, .points l) →
    e.silent = false → (∀ st, k ∉ (s.station st).queue) → (s.round k).state = .stepTiming →
    s.stepOf k = some step →
    ∃ t : State, exec (.frameArrivalF octets) s = .next t
      ∧ t.round k = { s.round k with criteria := (t.round k).criteria }
      ∧ (t.round k).criteria.length = (s.round k).criteria.length
      ∧ ∀ (n : Nat) (c : Criterion) (x : CriterionState), step.criteria[n]? = some c →
        (s.round k).criteria[n]? = some x →
        (∀ m p, x.point = some m → t.carriesPoint e l m p →
          (t.round k).criteria[n]? = some { x with window := appendResult c.window (c.passes p) x.window })
        ∧ ((∀ m p, x.point = some m → ¬t.carriesPoint e l m p) → (t.round k).criteria[n]? = some x)

/-- Offering an event (R192, R193): a masked event changes nothing; one that is not is appended, or dropped, or put in
the place of the newest maskable record, with the overflow flag set where the queue is full. -/
def Obligations.EventQueueOffer : Prop :=
  ∀ (s : State) (e : Event),
    (s.masked e.kind = true → s.offer e = s)
    ∧ (s.masked e.kind = false →
      (s.events.length < 64 → s.offer e = { s with events := s.events ++ [e] })
      ∧ (64 ≤ s.events.length → e.kind.maskable = true → s.offer e = { s with overflow := true })
      ∧ (∀ before x after, 64 ≤ s.events.length → e.kind.maskable = false → s.events = before ++ x :: after →
        x.kind.maskable = true → (∀ y ∈ after, y.kind.maskable = false) →
        s.offer e = { s with events := before ++ after ++ [e], overflow := true })
      ∧ (64 ≤ s.events.length → e.kind.maskable = false → (∀ y ∈ s.events, y.kind.maskable = false) →
        s.offer e = { s with overflow := true }))
    ∧ ∀ k : EventKind, k.maskable = false ↔ k = .fault ∨ k = .segregationBreach ∨ k = .imageBad ∨ k = .restarted

/-- What makes a route claimable (R45, R46), and when two routes conflict. -/
def Obligations.ClaimableRoutes : Prop :=
  ∀ (s : State) (r q : Route), s.tablesCanonical →
    let diverters := match s.routeHeader r with
      | some h => ((s.header h).load.map HeaderLoad.diverters).getD []
      | none => []
    let setting := r.setting.map (·.valve)
    let entries := r.stations.map (·.valve)
    let passes := fun (n : Nat) (v : ValveEntry) (outer : Nat) => match s.segState outer with
      | .free => True
      | .claimed _ => True
      | .product => v.kind = .mixproof ∧ n ∉ setting ∧ n ∉ entries ∧ n ∉ diverters
      | .suspect _ => False
    (s.claimable r = true ↔
      (∀ n ∈ r.segments, s.segState n = .free ∧ Table.entry s.segments n ≠ none)
      ∧ (∀ n ∈ setting ++ entries ++ diverters, ∀ v, Table.entry s.valves n = some v → v.owner = none)
      ∧ (∀ n ∈ setting ++ r.boundary.map (·.valve) ++ entries, Table.entry s.valves n ≠ none)
      ∧ ∀ x ∈ s.valves, ∀ inner outer,
        (x.2.sideA = some inner ∧ x.2.sideB = some outer ∨ x.2.sideB = some inner ∧ x.2.sideA = some outer) →
        inner ∈ r.segments → outer ∉ r.segments → passes x.1 x.2 outer)
    ∧ (r.conflicts q = true ↔ (∃ n ∈ r.segments, n ∈ q.segments) ∨ ∃ n ∈ setting, n ∈ q.setting.map (·.valve))

/-- The walk takes the waiting rounds in queue order and passes none that is grantable: it grants the oldest round
whose route is claimable and conflicts with no older one it has passed, and a walk that can grant none changes
nothing (R47, R48). -/
def Obligations.WalkNeverOvertakes : Prop :=
  (∀ s : State, (∀ before k after, s.claimQueue = before ++ k :: after →
      ∀ r, s.routeOf k = some r → s.claimable r = true →
        ∃ j ∈ before, ∃ q, s.routeOf j = some q ∧ r.conflicts q = true) → s.walk = s)
  ∧ ∀ (s : State) (before after : List Slot) (k : Slot) (r : Route), s.claimQueue = before ++ k :: after →
    s.claimQueue.Nodup → s.routeOf k = some r → s.claimable r = true →
    (∀ j ∈ before, ∀ q, s.routeOf j = some q → r.conflicts q = false) →
    (∀ prior j later, before = prior ++ j :: later → ∀ q, s.routeOf j = some q → s.claimable q = true →
      ∃ i ∈ prior, ∃ p, s.routeOf i = some p ∧ q.conflicts p = true) →
    s.walk = State.walkFrom after before (s.grantClaim k)

/-- A FREE station is granted to the waiting round of the highest effective class, and among its class to the earliest
in queue order; an examination of an empty queue, or of a GRANTED station, changes nothing (R69). -/
def Obligations.GrantOrder : Prop :=
  ∀ (s : State) (st : StationId),
    (s.bestWaiting st = none ↔ (s.station st).queue = [])
    ∧ (∀ k, s.bestWaiting st = some k → ∃ before after, (s.station st).queue = before ++ k :: after
      ∧ (∀ j ∈ before, (s.round k).effective.code < (s.round j).effective.code)
      ∧ ∀ j ∈ after, (s.round k).effective.code ≤ (s.round j).effective.code)
    ∧ ((s.station st).granted ≠ none ∨ (s.station st).queue = [] → s.examine st = (s, []))
    ∧ ∀ k, (s.station st).granted = none → s.bestWaiting st = some k →
      ((s.examine st).1.station st).granted = some k ∧ k ∉ ((s.examine st).1.station st).queue
      ∧ ((s.examine st).1.round k).held = some st ∧ ((s.examine st).1.round k).effective = (s.round k).given
end

