-- ==== Sys2Proof/Laws/State.lean ====
section
/-!
SUPPORT. Beside State: for each elementary update, what every field reads after it, by rfl. No later proof
unfolds a record update.
-/

namespace Sys2Proof.Machine.State

open Sys2Proof Sys2Proof.Machine

section updRound

variable (s : State) (k : Slot) (f : Round → Round)

@[simp] theorem updRound_partTime : (s.updRound k f).partTime = s.partTime := rfl
@[simp] theorem updRound_config : (s.updRound k f).config = s.config := rfl
@[simp] theorem updRound_nodes : (s.updRound k f).nodes = s.nodes := rfl
@[simp] theorem updRound_segments : (s.updRound k f).segments = s.segments := rfl
@[simp] theorem updRound_valves : (s.updRound k f).valves = s.valves := rfl
@[simp] theorem updRound_drives : (s.updRound k f).drives = s.drives := rfl
@[simp] theorem updRound_points : (s.updRound k f).points = s.points := rfl
@[simp] theorem updRound_stations : (s.updRound k f).stations = s.stations := rfl
@[simp] theorem updRound_headers : (s.updRound k f).headers = s.headers := rfl
@[simp] theorem updRound_routes : (s.updRound k f).routes = s.routes := rfl
@[simp] theorem updRound_recipes : (s.updRound k f).recipes = s.recipes := rfl
@[simp] theorem updRound_claimQueue : (s.updRound k f).claimQueue = s.claimQueue := rfl
@[simp] theorem updRound_linkTimer : (s.updRound k f).linkTimer = s.linkTimer := rfl
@[simp] theorem updRound_linkSilent : (s.updRound k f).linkSilent = s.linkSilent := rfl
@[simp] theorem updRound_linkExpiry : (s.updRound k f).linkExpiry = s.linkExpiry := rfl
@[simp] theorem updRound_rxU : (s.updRound k f).rxU = s.rxU := rfl
@[simp] theorem updRound_rxF : (s.updRound k f).rxF = s.rxF := rfl
@[simp] theorem updRound_txU : (s.updRound k f).txU = s.txU := rfl
@[simp] theorem updRound_txF : (s.updRound k f).txF = s.txF := rfl
@[simp] theorem updRound_scanPointer : (s.updRound k f).scanPointer = s.scanPointer := rfl
@[simp] theorem updRound_visitTimer : (s.updRound k f).visitTimer = s.visitTimer := rfl
@[simp] theorem updRound_bufferHeld : (s.updRound k f).bufferHeld = s.bufferHeld := rfl
@[simp] theorem updRound_staging : (s.updRound k f).staging = s.staging := rfl
@[simp] theorem updRound_events : (s.updRound k f).events = s.events := rfl
@[simp] theorem updRound_overflow : (s.updRound k f).overflow = s.overflow := rfl
@[simp] theorem updRound_lastFetch : (s.updRound k f).lastFetch = s.lastFetch := rfl
@[simp] theorem updRound_loader : (s.updRound k f).loader = s.loader := rfl
@[simp] theorem updRound_handed : (s.updRound k f).handed = s.handed := rfl
@[simp] theorem updRound_freeCount : (s.updRound k f).freeCount = s.freeCount := rfl
@[simp] theorem updRound_pending : (s.updRound k f).pending = s.pending := rfl

end updRound

section updStation

variable (s : State) (k : StationId) (f : Station → Station)

@[simp] theorem updStation_partTime : (s.updStation k f).partTime = s.partTime := rfl
@[simp] theorem updStation_config : (s.updStation k f).config = s.config := rfl
@[simp] theorem updStation_nodes : (s.updStation k f).nodes = s.nodes := rfl
@[simp] theorem updStation_segments : (s.updStation k f).segments = s.segments := rfl
@[simp] theorem updStation_valves : (s.updStation k f).valves = s.valves := rfl
@[simp] theorem updStation_drives : (s.updStation k f).drives = s.drives := rfl
@[simp] theorem updStation_points : (s.updStation k f).points = s.points := rfl
@[simp] theorem updStation_headers : (s.updStation k f).headers = s.headers := rfl
@[simp] theorem updStation_routes : (s.updStation k f).routes = s.routes := rfl
@[simp] theorem updStation_recipes : (s.updStation k f).recipes = s.recipes := rfl
@[simp] theorem updStation_rounds : (s.updStation k f).rounds = s.rounds := rfl
@[simp] theorem updStation_claimQueue : (s.updStation k f).claimQueue = s.claimQueue := rfl
@[simp] theorem updStation_linkTimer : (s.updStation k f).linkTimer = s.linkTimer := rfl
@[simp] theorem updStation_linkSilent : (s.updStation k f).linkSilent = s.linkSilent := rfl
@[simp] theorem updStation_linkExpiry : (s.updStation k f).linkExpiry = s.linkExpiry := rfl
@[simp] theorem updStation_rxU : (s.updStation k f).rxU = s.rxU := rfl
@[simp] theorem updStation_rxF : (s.updStation k f).rxF = s.rxF := rfl
@[simp] theorem updStation_txU : (s.updStation k f).txU = s.txU := rfl
@[simp] theorem updStation_txF : (s.updStation k f).txF = s.txF := rfl
@[simp] theorem updStation_scanPointer : (s.updStation k f).scanPointer = s.scanPointer := rfl
@[simp] theorem updStation_visitTimer : (s.updStation k f).visitTimer = s.visitTimer := rfl
@[simp] theorem updStation_bufferHeld : (s.updStation k f).bufferHeld = s.bufferHeld := rfl
@[simp] theorem updStation_staging : (s.updStation k f).staging = s.staging := rfl
@[simp] theorem updStation_events : (s.updStation k f).events = s.events := rfl
@[simp] theorem updStation_overflow : (s.updStation k f).overflow = s.overflow := rfl
@[simp] theorem updStation_lastFetch : (s.updStation k f).lastFetch = s.lastFetch := rfl
@[simp] theorem updStation_loader : (s.updStation k f).loader = s.loader := rfl
@[simp] theorem updStation_handed : (s.updStation k f).handed = s.handed := rfl
@[simp] theorem updStation_freeCount : (s.updStation k f).freeCount = s.freeCount := rfl
@[simp] theorem updStation_pending : (s.updStation k f).pending = s.pending := rfl

end updStation

section updHeader

variable (s : State) (h : HeaderId) (f : Header → Header)

@[simp] theorem updHeader_partTime : (s.updHeader h f).partTime = s.partTime := rfl
@[simp] theorem updHeader_config : (s.updHeader h f).config = s.config := rfl
@[simp] theorem updHeader_nodes : (s.updHeader h f).nodes = s.nodes := rfl
@[simp] theorem updHeader_segments : (s.updHeader h f).segments = s.segments := rfl
@[simp] theorem updHeader_valves : (s.updHeader h f).valves = s.valves := rfl
@[simp] theorem updHeader_drives : (s.updHeader h f).drives = s.drives := rfl
@[simp] theorem updHeader_points : (s.updHeader h f).points = s.points := rfl
@[simp] theorem updHeader_stations : (s.updHeader h f).stations = s.stations := rfl
@[simp] theorem updHeader_routes : (s.updHeader h f).routes = s.routes := rfl
@[simp] theorem updHeader_recipes : (s.updHeader h f).recipes = s.recipes := rfl
@[simp] theorem updHeader_rounds : (s.updHeader h f).rounds = s.rounds := rfl
@[simp] theorem updHeader_claimQueue : (s.updHeader h f).claimQueue = s.claimQueue := rfl
@[simp] theorem updHeader_linkTimer : (s.updHeader h f).linkTimer = s.linkTimer := rfl
@[simp] theorem updHeader_linkSilent : (s.updHeader h f).linkSilent = s.linkSilent := rfl
@[simp] theorem updHeader_linkExpiry : (s.updHeader h f).linkExpiry = s.linkExpiry := rfl
@[simp] theorem updHeader_rxU : (s.updHeader h f).rxU = s.rxU := rfl
@[simp] theorem updHeader_rxF : (s.updHeader h f).rxF = s.rxF := rfl
@[simp] theorem updHeader_txU : (s.updHeader h f).txU = s.txU := rfl
@[simp] theorem updHeader_txF : (s.updHeader h f).txF = s.txF := rfl
@[simp] theorem updHeader_scanPointer : (s.updHeader h f).scanPointer = s.scanPointer := rfl
@[simp] theorem updHeader_visitTimer : (s.updHeader h f).visitTimer = s.visitTimer := rfl
@[simp] theorem updHeader_bufferHeld : (s.updHeader h f).bufferHeld = s.bufferHeld := rfl
@[simp] theorem updHeader_staging : (s.updHeader h f).staging = s.staging := rfl
@[simp] theorem updHeader_events : (s.updHeader h f).events = s.events := rfl
@[simp] theorem updHeader_overflow : (s.updHeader h f).overflow = s.overflow := rfl
@[simp] theorem updHeader_lastFetch : (s.updHeader h f).lastFetch = s.lastFetch := rfl
@[simp] theorem updHeader_loader : (s.updHeader h f).loader = s.loader := rfl
@[simp] theorem updHeader_handed : (s.updHeader h f).handed = s.handed := rfl
@[simp] theorem updHeader_freeCount : (s.updHeader h f).freeCount = s.freeCount := rfl
@[simp] theorem updHeader_pending : (s.updHeader h f).pending = s.pending := rfl

end updHeader

section updValve

variable (s : State) (n : Nat) (f : ValveEntry → ValveEntry)

@[simp] theorem updValve_partTime : (s.updValve n f).partTime = s.partTime := rfl
@[simp] theorem updValve_config : (s.updValve n f).config = s.config := rfl
@[simp] theorem updValve_nodes : (s.updValve n f).nodes = s.nodes := rfl
@[simp] theorem updValve_segments : (s.updValve n f).segments = s.segments := rfl
@[simp] theorem updValve_drives : (s.updValve n f).drives = s.drives := rfl
@[simp] theorem updValve_points : (s.updValve n f).points = s.points := rfl
@[simp] theorem updValve_stations : (s.updValve n f).stations = s.stations := rfl
@[simp] theorem updValve_headers : (s.updValve n f).headers = s.headers := rfl
@[simp] theorem updValve_routes : (s.updValve n f).routes = s.routes := rfl
@[simp] theorem updValve_recipes : (s.updValve n f).recipes = s.recipes := rfl
@[simp] theorem updValve_rounds : (s.updValve n f).rounds = s.rounds := rfl
@[simp] theorem updValve_claimQueue : (s.updValve n f).claimQueue = s.claimQueue := rfl
@[simp] theorem updValve_linkTimer : (s.updValve n f).linkTimer = s.linkTimer := rfl
@[simp] theorem updValve_linkSilent : (s.updValve n f).linkSilent = s.linkSilent := rfl
@[simp] theorem updValve_linkExpiry : (s.updValve n f).linkExpiry = s.linkExpiry := rfl
@[simp] theorem updValve_rxU : (s.updValve n f).rxU = s.rxU := rfl
@[simp] theorem updValve_rxF : (s.updValve n f).rxF = s.rxF := rfl
@[simp] theorem updValve_txU : (s.updValve n f).txU = s.txU := rfl
@[simp] theorem updValve_txF : (s.updValve n f).txF = s.txF := rfl
@[simp] theorem updValve_scanPointer : (s.updValve n f).scanPointer = s.scanPointer := rfl
@[simp] theorem updValve_visitTimer : (s.updValve n f).visitTimer = s.visitTimer := rfl
@[simp] theorem updValve_bufferHeld : (s.updValve n f).bufferHeld = s.bufferHeld := rfl
@[simp] theorem updValve_staging : (s.updValve n f).staging = s.staging := rfl
@[simp] theorem updValve_events : (s.updValve n f).events = s.events := rfl
@[simp] theorem updValve_overflow : (s.updValve n f).overflow = s.overflow := rfl
@[simp] theorem updValve_lastFetch : (s.updValve n f).lastFetch = s.lastFetch := rfl
@[simp] theorem updValve_loader : (s.updValve n f).loader = s.loader := rfl
@[simp] theorem updValve_handed : (s.updValve n f).handed = s.handed := rfl
@[simp] theorem updValve_freeCount : (s.updValve n f).freeCount = s.freeCount := rfl
@[simp] theorem updValve_pending : (s.updValve n f).pending = s.pending := rfl

end updValve

section updDrive

variable (s : State) (n : Nat) (f : DriveEntry → DriveEntry)

@[simp] theorem updDrive_partTime : (s.updDrive n f).partTime = s.partTime := rfl
@[simp] theorem updDrive_config : (s.updDrive n f).config = s.config := rfl
@[simp] theorem updDrive_nodes : (s.updDrive n f).nodes = s.nodes := rfl
@[simp] theorem updDrive_segments : (s.updDrive n f).segments = s.segments := rfl
@[simp] theorem updDrive_valves : (s.updDrive n f).valves = s.valves := rfl
@[simp] theorem updDrive_points : (s.updDrive n f).points = s.points := rfl
@[simp] theorem updDrive_stations : (s.updDrive n f).stations = s.stations := rfl
@[simp] theorem updDrive_headers : (s.updDrive n f).headers = s.headers := rfl
@[simp] theorem updDrive_routes : (s.updDrive n f).routes = s.routes := rfl
@[simp] theorem updDrive_recipes : (s.updDrive n f).recipes = s.recipes := rfl
@[simp] theorem updDrive_rounds : (s.updDrive n f).rounds = s.rounds := rfl
@[simp] theorem updDrive_claimQueue : (s.updDrive n f).claimQueue = s.claimQueue := rfl
@[simp] theorem updDrive_linkTimer : (s.updDrive n f).linkTimer = s.linkTimer := rfl
@[simp] theorem updDrive_linkSilent : (s.updDrive n f).linkSilent = s.linkSilent := rfl
@[simp] theorem updDrive_linkExpiry : (s.updDrive n f).linkExpiry = s.linkExpiry := rfl
@[simp] theorem updDrive_rxU : (s.updDrive n f).rxU = s.rxU := rfl
@[simp] theorem updDrive_rxF : (s.updDrive n f).rxF = s.rxF := rfl
@[simp] theorem updDrive_txU : (s.updDrive n f).txU = s.txU := rfl
@[simp] theorem updDrive_txF : (s.updDrive n f).txF = s.txF := rfl
@[simp] theorem updDrive_scanPointer : (s.updDrive n f).scanPointer = s.scanPointer := rfl
@[simp] theorem updDrive_visitTimer : (s.updDrive n f).visitTimer = s.visitTimer := rfl
@[simp] theorem updDrive_bufferHeld : (s.updDrive n f).bufferHeld = s.bufferHeld := rfl
@[simp] theorem updDrive_staging : (s.updDrive n f).staging = s.staging := rfl
@[simp] theorem updDrive_events : (s.updDrive n f).events = s.events := rfl
@[simp] theorem updDrive_overflow : (s.updDrive n f).overflow = s.overflow := rfl
@[simp] theorem updDrive_lastFetch : (s.updDrive n f).lastFetch = s.lastFetch := rfl
@[simp] theorem updDrive_loader : (s.updDrive n f).loader = s.loader := rfl
@[simp] theorem updDrive_handed : (s.updDrive n f).handed = s.handed := rfl
@[simp] theorem updDrive_freeCount : (s.updDrive n f).freeCount = s.freeCount := rfl
@[simp] theorem updDrive_pending : (s.updDrive n f).pending = s.pending := rfl

end updDrive

section setSegState

variable (s : State) (n : Nat) (st : SegmentState)

@[simp] theorem setSegState_partTime : (s.setSegState n st).partTime = s.partTime := rfl
@[simp] theorem setSegState_config : (s.setSegState n st).config = s.config := rfl
@[simp] theorem setSegState_nodes : (s.setSegState n st).nodes = s.nodes := rfl
@[simp] theorem setSegState_valves : (s.setSegState n st).valves = s.valves := rfl
@[simp] theorem setSegState_drives : (s.setSegState n st).drives = s.drives := rfl
@[simp] theorem setSegState_points : (s.setSegState n st).points = s.points := rfl
@[simp] theorem setSegState_stations : (s.setSegState n st).stations = s.stations := rfl
@[simp] theorem setSegState_headers : (s.setSegState n st).headers = s.headers := rfl
@[simp] theorem setSegState_routes : (s.setSegState n st).routes = s.routes := rfl
@[simp] theorem setSegState_recipes : (s.setSegState n st).recipes = s.recipes := rfl
@[simp] theorem setSegState_rounds : (s.setSegState n st).rounds = s.rounds := rfl
@[simp] theorem setSegState_claimQueue : (s.setSegState n st).claimQueue = s.claimQueue := rfl
@[simp] theorem setSegState_linkTimer : (s.setSegState n st).linkTimer = s.linkTimer := rfl
@[simp] theorem setSegState_linkSilent : (s.setSegState n st).linkSilent = s.linkSilent := rfl
@[simp] theorem setSegState_linkExpiry : (s.setSegState n st).linkExpiry = s.linkExpiry := rfl
@[simp] theorem setSegState_rxU : (s.setSegState n st).rxU = s.rxU := rfl
@[simp] theorem setSegState_rxF : (s.setSegState n st).rxF = s.rxF := rfl
@[simp] theorem setSegState_txU : (s.setSegState n st).txU = s.txU := rfl
@[simp] theorem setSegState_txF : (s.setSegState n st).txF = s.txF := rfl
@[simp] theorem setSegState_scanPointer : (s.setSegState n st).scanPointer = s.scanPointer := rfl
@[simp] theorem setSegState_visitTimer : (s.setSegState n st).visitTimer = s.visitTimer := rfl
@[simp] theorem setSegState_bufferHeld : (s.setSegState n st).bufferHeld = s.bufferHeld := rfl
@[simp] theorem setSegState_staging : (s.setSegState n st).staging = s.staging := rfl
@[simp] theorem setSegState_events : (s.setSegState n st).events = s.events := rfl
@[simp] theorem setSegState_overflow : (s.setSegState n st).overflow = s.overflow := rfl
@[simp] theorem setSegState_lastFetch : (s.setSegState n st).lastFetch = s.lastFetch := rfl
@[simp] theorem setSegState_loader : (s.setSegState n st).loader = s.loader := rfl
@[simp] theorem setSegState_handed : (s.setSegState n st).handed = s.handed := rfl
@[simp] theorem setSegState_freeCount : (s.setSegState n st).freeCount = s.freeCount := rfl
@[simp] theorem setSegState_pending : (s.setSegState n st).pending = s.pending := rfl

end setSegState

/-! ### The changed field -/

@[simp] theorem updValve_valves (s : State) (n : Nat) (f : ValveEntry → ValveEntry) :
    (s.updValve n f).valves = Table.adjust n f s.valves := rfl

@[simp] theorem updDrive_drives (s : State) (n : Nat) (f : DriveEntry → DriveEntry) :
    (s.updDrive n f).drives = Table.adjust n f s.drives := rfl

@[simp] theorem setSegState_segments (s : State) (n : Nat) (st : SegmentState) :
    (s.setSegState n st).segments = Table.adjust n (fun e => { e with state := st }) s.segments := rfl

@[simp] theorem round_updRound (s : State) (k : Slot) (f : Round → Round) :
    (s.updRound k f).round k = f (s.round k) := by
  simp [State.round, State.updRound]

theorem round_updRound_ne (s : State) {j k : Slot} (f : Round → Round) (h : j ≠ k) :
    (s.updRound k f).round j = s.round j := by
  have h' : k.val ≠ j.val := fun e => h (Fin.ext e.symm)
  simp [State.round, State.updRound, Vector.getElem_set_ne, h']

@[simp] theorem station_updStation (s : State) (k : StationId) (f : Station → Station) :
    (s.updStation k f).station k = f (s.station k) := by
  simp [State.station, State.updStation]

theorem station_updStation_ne (s : State) {j k : StationId} (f : Station → Station) (h : j ≠ k) :
    (s.updStation k f).station j = s.station j := by
  have h' : k.val ≠ j.val := fun e => h (Fin.ext e.symm)
  simp [State.station, State.updStation, Vector.getElem_set_ne, h']

@[simp] theorem header_updHeader (s : State) (h : HeaderId) (f : Header → Header) :
    (s.updHeader h f).header h = f (s.header h) := by
  simp [State.header, State.updHeader]

theorem header_updHeader_ne (s : State) {j h : HeaderId} (f : Header → Header) (ne : j ≠ h) :
    (s.updHeader h f).header j = s.header j := by
  have h' : h.val ≠ j.val := fun e => ne (Fin.ext e.symm)
  simp [State.header, State.updHeader, Vector.getElem_set_ne, h']

/-! ### Readers across updates of other fields -/

@[simp] theorem station_updRound (s : State) (k : Slot) (f : Round → Round) (j : StationId) :
    (s.updRound k f).station j = s.station j := rfl

@[simp] theorem header_updRound (s : State) (k : Slot) (f : Round → Round) (j : HeaderId) :
    (s.updRound k f).header j = s.header j := rfl

@[simp] theorem round_updStation (s : State) (k : StationId) (f : Station → Station) (j : Slot) :
    (s.updStation k f).round j = s.round j := rfl

@[simp] theorem header_updStation (s : State) (k : StationId) (f : Station → Station) (j : HeaderId) :
    (s.updStation k f).header j = s.header j := rfl

@[simp] theorem round_updHeader (s : State) (h : HeaderId) (f : Header → Header) (j : Slot) :
    (s.updHeader h f).round j = s.round j := rfl

@[simp] theorem station_updHeader (s : State) (h : HeaderId) (f : Header → Header) (j : StationId) :
    (s.updHeader h f).station j = s.station j := rfl

@[simp] theorem round_updValve (s : State) (n : Nat) (f : ValveEntry → ValveEntry) (j : Slot) :
    (s.updValve n f).round j = s.round j := rfl

@[simp] theorem station_updValve (s : State) (n : Nat) (f : ValveEntry → ValveEntry) (j : StationId) :
    (s.updValve n f).station j = s.station j := rfl

@[simp] theorem header_updValve (s : State) (n : Nat) (f : ValveEntry → ValveEntry) (j : HeaderId) :
    (s.updValve n f).header j = s.header j := rfl

@[simp] theorem round_updDrive (s : State) (n : Nat) (f : DriveEntry → DriveEntry) (j : Slot) :
    (s.updDrive n f).round j = s.round j := rfl

@[simp] theorem station_updDrive (s : State) (n : Nat) (f : DriveEntry → DriveEntry) (j : StationId) :
    (s.updDrive n f).station j = s.station j := rfl

@[simp] theorem header_updDrive (s : State) (n : Nat) (f : DriveEntry → DriveEntry) (j : HeaderId) :
    (s.updDrive n f).header j = s.header j := rfl

@[simp] theorem round_setSegState (s : State) (n : Nat) (st : SegmentState) (j : Slot) :
    (s.setSegState n st).round j = s.round j := rfl

@[simp] theorem station_setSegState (s : State) (n : Nat) (st : SegmentState) (j : StationId) :
    (s.setSegState n st).station j = s.station j := rfl

@[simp] theorem header_setSegState (s : State) (n : Nat) (st : SegmentState) (j : HeaderId) :
    (s.setSegState n st).header j = s.header j := rfl

end Sys2Proof.Machine.State
end

