-- ==== Sys2Proof/Laws/Tables.lean ====
section
/-!
SUPPORT. What the table operations of Machine/Ops.lean do: the entry at an index after a write, and the canonical
form, which every one of them keeps.
-/

namespace Sys2Proof.Machine.Table

open Sys2Proof Sys2Proof.Machine

variable {α : Type}

/-! ### The entry at an index -/

@[simp] theorem entry_nil (n : Nat) : entry ([] : Table α) n = none := rfl

theorem entry_cons (k n : Nat) (v : α) (t : Table α) :
    entry ((k, v) :: t) n = if k = n then some v else entry t n := rfl

theorem entry_put_self (n : Nat) (v : α) (t : Table α) : entry (put n v t) n = some v := by
  induction t with
  | nil => simp [put, entry]
  | cons x t ih =>
    obtain ⟨k, w⟩ := x
    unfold put
    split
    · simp [entry]
    · split
      · simp [entry]
      · rename_i h
        simp [entry, ih, Ne.symm h]

theorem entry_put_ne {m n : Nat} (v : α) (t : Table α) (h : m ≠ n) : entry (put n v t) m = entry t m := by
  induction t with
  | nil => simp [put, entry, Ne.symm h]
  | cons x t ih =>
    obtain ⟨k, w⟩ := x
    unfold put
    split
    · simp [entry, Ne.symm h]
    · split
      · rename_i e
        subst e
        simp [entry, Ne.symm h]
      · simp [entry, ih]

theorem entry_remove_self (n : Nat) (t : Table α) : entry (remove n t) n = none := by
  induction t with
  | nil => rfl
  | cons x t ih =>
    obtain ⟨k, w⟩ := x
    by_cases h : k = n
    · simpa [remove, h] using ih
    · simpa [remove, entry, h] using ih

theorem entry_remove_ne {m n : Nat} (t : Table α) (h : m ≠ n) : entry (remove n t) m = entry t m := by
  induction t with
  | nil => rfl
  | cons x t ih =>
    obtain ⟨k, w⟩ := x
    by_cases e : k = n
    · subst e
      simpa [remove, entry, Ne.symm h] using ih
    · have ih' : entry (t.filter fun kv => kv.1 != n) m = entry t m := ih
      simp [remove, entry, e, ih']

theorem entry_each (f : Nat → α → α) (t : Table α) (n : Nat) : entry (each f t) n = (entry t n).map (f n) := by
  induction t with
  | nil => rfl
  | cons x t ih =>
    obtain ⟨k, w⟩ := x
    by_cases h : k = n
    · subst h
      simp [each, entry]
    · have ih' : entry (t.map fun kv => (kv.1, f kv.1 kv.2)) n = (entry t n).map (f n) := ih
      simp [each, entry, h, ih']

theorem adjust_eq_each (n : Nat) (f : α → α) (t : Table α) :
    adjust n f t = each (fun m v => if m = n then f v else v) t := by
  unfold adjust each
  apply List.map_congr_left
  intro x _
  by_cases h : x.1 = n <;> simp [h]

theorem entry_adjust_self (n : Nat) (f : α → α) (t : Table α) : entry (adjust n f t) n = (entry t n).map f := by
  rw [adjust_eq_each, entry_each]
  simp

theorem entry_adjust_ne {m n : Nat} (f : α → α) (t : Table α) (h : m ≠ n) :
    entry (adjust n f t) m = entry t m := by
  rw [adjust_eq_each, entry_each]
  simp [h]

theorem entry_adjust (m n : Nat) (f : α → α) (t : Table α) :
    entry (adjust n f t) m = if m = n then (entry t m).map f else entry t m := by
  by_cases h : m = n
  · subst h
    simp [entry_adjust_self]
  · simp [h, entry_adjust_ne]

theorem mem_of_entry {n : Nat} {v : α} {t : Table α} (h : entry t n = some v) : (n, v) ∈ t := by
  induction t with
  | nil => simp [entry] at h
  | cons x t ih =>
    obtain ⟨k, w⟩ := x
    by_cases e : k = n
    · simp only [entry, e, if_true, Option.some.injEq] at h
      simp [e, h]
    · simp only [entry, e, if_false] at h
      simp [ih h]

/-! ### The first entry that satisfies a condition -/

theorem first_eq_none {p : Nat → α → Bool} {t : Table α} : first p t = none ↔ ∀ x ∈ t, p x.1 x.2 = false := by
  induction t with
  | nil => simp [first]
  | cons x t ih =>
    obtain ⟨k, v⟩ := x
    by_cases h : p k v
    · simp [first, h]
    · simp [first, h, ih]

theorem first_eq_some {p : Nat → α → Bool} {t : Table α} {n : Nat} (h : first p t = some n) :
    ∃ v, (n, v) ∈ t ∧ p n v = true := by
  induction t with
  | nil => simp [first] at h
  | cons x t ih =>
    obtain ⟨k, v⟩ := x
    by_cases e : p k v
    · simp only [first, e, if_true, Option.some.injEq] at h
      subst h
      exact ⟨v, by simp, e⟩
    · simp only [first, e] at h
      obtain ⟨w, hw, hp⟩ := ih h
      exact ⟨w, by simp [hw], hp⟩

/-! ### The canonical form -/

theorem wf_cons (k : Nat) (v : α) (t : Table α) :
    wf ((k, v) :: t) = true ↔ (∀ x ∈ t, k < x.1) ∧ wf t = true := by
  induction t generalizing k v with
  | nil => simp [wf]
  | cons x t ih =>
    obtain ⟨l, w⟩ := x
    simp only [wf, Bool.and_eq_true, decide_eq_true_eq, List.mem_cons, forall_eq_or_imp]
    constructor
    · rintro ⟨h, hw⟩
      exact ⟨⟨h, fun x hx => Nat.lt_trans h ((ih l w |>.1 hw).1 x hx)⟩, hw⟩
    · rintro ⟨⟨h, _⟩, hw⟩
      exact ⟨h, hw⟩

theorem mem_put {n : Nat} {v : α} {t : Table α} {x : Nat × α} (h : x ∈ put n v t) : x = (n, v) ∨ x ∈ t := by
  induction t with
  | nil => simpa [put] using h
  | cons y t ih =>
    unfold put at h
    split at h
    · rcases List.mem_cons.1 h with rfl | h
      · exact Or.inl rfl
      · exact Or.inr h
    · split at h
      · rcases List.mem_cons.1 h with rfl | h
        · exact Or.inl rfl
        · exact Or.inr (List.mem_cons_of_mem _ h)
      · rcases List.mem_cons.1 h with rfl | h
        · exact Or.inr (by simp)
        · rcases ih h with e | m
          · exact Or.inl e
          · exact Or.inr (List.mem_cons_of_mem _ m)

theorem wf_put (n : Nat) (v : α) (t : Table α) (h : wf t = true) : wf (put n v t) = true := by
  induction t with
  | nil => rfl
  | cons x t ih =>
    obtain ⟨k, w⟩ := x
    obtain ⟨hl, ht⟩ := (wf_cons k w t).1 h
    unfold put
    split
    · rename_i lt
      refine (wf_cons _ _ _).2 ⟨?_, h⟩
      intro x hx
      rcases List.mem_cons.1 hx with rfl | hx
      · exact lt
      · exact Nat.lt_trans lt (hl x hx)
    · split
      · rename_i e
        subst e
        exact (wf_cons _ _ _).2 ⟨hl, ht⟩
      · rename_i h1 h2
        have lt : k < n := by omega
        refine (wf_cons _ _ _).2 ⟨?_, ih ht⟩
        intro x hx
        rcases mem_put hx with rfl | m
        · exact lt
        · exact hl x m

/-- In a canonical table, an entry that a write leaves in place beside the new one has another index. -/
theorem mem_put_ne {n : Nat} {v : α} {t : Table α} {x : Nat × α} (hw : wf t = true) (h : x ∈ put n v t) :
    x = (n, v) ∨ x ∈ t ∧ x.1 ≠ n := by
  induction t with
  | nil => simpa [put] using h
  | cons y t ih =>
    obtain ⟨k, w⟩ := y
    obtain ⟨hl, ht⟩ := (wf_cons k w t).1 hw
    unfold put at h
    split at h
    · rename_i lt
      rcases List.mem_cons.1 h with rfl | h
      · exact Or.inl rfl
      · refine Or.inr ⟨h, ?_⟩
        rcases List.mem_cons.1 h with rfl | h
        · exact (Nat.ne_of_lt lt).symm
        · have := hl x h
          omega
    · split at h
      · rename_i e
        subst e
        rcases List.mem_cons.1 h with rfl | h
        · exact Or.inl rfl
        · have := hl x h
          exact Or.inr ⟨List.mem_cons_of_mem _ h, by omega⟩
      · rename_i h1 h2
        rcases List.mem_cons.1 h with rfl | h
        · exact Or.inr ⟨by simp, fun e => h2 e.symm⟩
        · rcases ih ht h with e | m
          · exact Or.inl e
          · exact Or.inr ⟨List.mem_cons_of_mem _ m.1, m.2⟩

theorem wf_filter (p : Nat × α → Bool) (t : Table α) (h : wf t = true) : wf (t.filter p) = true := by
  induction t with
  | nil => rfl
  | cons x t ih =>
    obtain ⟨k, w⟩ := x
    obtain ⟨hl, ht⟩ := (wf_cons k w t).1 h
    by_cases e : p (k, w)
    · simp only [List.filter_cons, e, if_true]
      exact (wf_cons _ _ _).2 ⟨fun x hx => hl x (List.mem_of_mem_filter hx), ih ht⟩
    · simpa [List.filter_cons, e] using ih ht

theorem wf_remove (n : Nat) (t : Table α) (h : wf t = true) : wf (remove n t) = true := wf_filter _ t h

theorem wf_each (f : Nat → α → α) (t : Table α) (h : wf t = true) : wf (each f t) = true := by
  induction t with
  | nil => rfl
  | cons x t ih =>
    obtain ⟨k, w⟩ := x
    obtain ⟨hl, ht⟩ := (wf_cons k w t).1 h
    refine (wf_cons _ _ _).2 ⟨?_, ih ht⟩
    intro x hx
    obtain ⟨y, hy, rfl⟩ := List.mem_map.1 hx
    exact hl y hy

theorem wf_adjust (n : Nat) (f : α → α) (t : Table α) (h : wf t = true) : wf (adjust n f t) = true := by
  rw [adjust_eq_each]
  exact wf_each _ t h

/-- In a canonical table an entry that stands in the list is the entry at its index. -/
theorem entry_of_mem {n : Nat} {v : α} {t : Table α} (hw : wf t = true) (h : (n, v) ∈ t) :
    entry t n = some v := by
  induction t with
  | nil => simp at h
  | cons x t ih =>
    obtain ⟨k, w⟩ := x
    obtain ⟨hl, ht⟩ := (wf_cons k w t).1 hw
    rcases List.mem_cons.1 h with e | m
    · obtain ⟨rfl, rfl⟩ := Prod.mk.inj e
      simp [entry]
    · have := hl _ m
      have ne : k ≠ n := Nat.ne_of_lt this
      simp [entry, ne, ih ht m]

end Sys2Proof.Machine.Table
end

