-- ==== Sys2Proof/Laws/Events.lean ====
section
/-!
SUPPORT. What an offered event, a state entry and the passing of part time leave alone, field by field, and what they
change: for an offer the event queue alone, for an entry the round's state too, for part time the counting timers.
-/

namespace Sys2Proof.Machine.State

open Sys2Proof Sys2Proof.Machine

/-- Offering an event changes the event queue and its overflow flag alone. -/
theorem offer_eq (s : State) (e : Event) :
    s.offer e = { s with events := (s.offer e).events, overflow := (s.offer e).overflow } := by
  unfold State.offer State.enqueue
  repeat' split
  all_goals rfl

/-- What an offer does to the queue depends on the mask, the queue and the flag alone. -/
theorem offer_congr {s t : State} (e : Event) (h1 : t.config = s.config) (h2 : t.events = s.events)
    (h3 : t.overflow = s.overflow) :
    (t.offer e).events = (s.offer e).events ∧ (t.offer e).overflow = (s.offer e).overflow := by
  unfold State.offer State.enqueue State.masked
  rw [h1, h2]
  repeat' split
  all_goals simp_all

section offer

variable (s : State) (e : Event)

@[simp] theorem offer_partTime : (s.offer e).partTime = s.partTime := by rw [offer_eq]
@[simp] theorem offer_config : (s.offer e).config = s.config := by rw [offer_eq]
@[simp] theorem offer_nodes : (s.offer e).nodes = s.nodes := by rw [offer_eq]
@[simp] theorem offer_segments : (s.offer e).segments = s.segments := by rw [offer_eq]
@[simp] theorem offer_valves : (s.offer e).valves = s.valves := by rw [offer_eq]
@[simp] theorem offer_drives : (s.offer e).drives = s.drives := by rw [offer_eq]
@[simp] theorem offer_points : (s.offer e).points = s.points := by rw [offer_eq]
@[simp] theorem offer_stations : (s.offer e).stations = s.stations := by rw [offer_eq]
@[simp] theorem offer_headers : (s.offer e).headers = s.headers := by rw [offer_eq]
@[simp] theorem offer_routes : (s.offer e).routes = s.routes := by rw [offer_eq]
@[simp] theorem offer_recipes : (s.offer e).recipes = s.recipes := by rw [offer_eq]
@[simp] theorem offer_rounds : (s.offer e).rounds = s.rounds := by rw [offer_eq]
@[simp] theorem offer_claimQueue : (s.offer e).claimQueue = s.claimQueue := by rw [offer_eq]
@[simp] theorem offer_linkTimer : (s.offer e).linkTimer = s.linkTimer := by rw [offer_eq]
@[simp] theorem offer_linkSilent : (s.offer e).linkSilent = s.linkSilent := by rw [offer_eq]
@[simp] theorem offer_linkExpiry : (s.offer e).linkExpiry = s.linkExpiry := by rw [offer_eq]
@[simp] theorem offer_rxU : (s.offer e).rxU = s.rxU := by rw [offer_eq]
@[simp] theorem offer_rxF : (s.offer e).rxF = s.rxF := by rw [offer_eq]
@[simp] theorem offer_txU : (s.offer e).txU = s.txU := by rw [offer_eq]
@[simp] theorem offer_txF : (s.offer e).txF = s.txF := by rw [offer_eq]
@[simp] theorem offer_scanPointer : (s.offer e).scanPointer = s.scanPointer := by rw [offer_eq]
@[simp] theorem offer_visitTimer : (s.offer e).visitTimer = s.visitTimer := by rw [offer_eq]
@[simp] theorem offer_bufferHeld : (s.offer e).bufferHeld = s.bufferHeld := by rw [offer_eq]
@[simp] theorem offer_staging : (s.offer e).staging = s.staging := by rw [offer_eq]
@[simp] theorem offer_lastFetch : (s.offer e).lastFetch = s.lastFetch := by rw [offer_eq]
@[simp] theorem offer_loader : (s.offer e).loader = s.loader := by rw [offer_eq]
@[simp] theorem offer_handed : (s.offer e).handed = s.handed := by rw [offer_eq]
@[simp] theorem offer_freeCount : (s.offer e).freeCount = s.freeCount := by rw [offer_eq]
@[simp] theorem offer_pending : (s.offer e).pending = s.pending := by rw [offer_eq]

@[simp] theorem round_offer (j : Slot) : (s.offer e).round j = s.round j := by rw [offer_eq]; rfl

@[simp] theorem station_offer (j : StationId) : (s.offer e).station j = s.station j := by rw [offer_eq]; rfl

@[simp] theorem header_offer (j : HeaderId) : (s.offer e).header j = s.header j := by rw [offer_eq]; rfl

end offer

theorem event_updRound (s : State) (k : Slot) (f : Round → Round) (x : EventKind) :
    (s.updRound k f).event x = s.event x := rfl

section enter

variable (s : State) (k : Slot) (st : RoundState)

@[simp] theorem enter_partTime : (s.enter k st).partTime = s.partTime := by simp [State.enter]
@[simp] theorem enter_config : (s.enter k st).config = s.config := by simp [State.enter]
@[simp] theorem enter_nodes : (s.enter k st).nodes = s.nodes := by simp [State.enter]
@[simp] theorem enter_segments : (s.enter k st).segments = s.segments := by simp [State.enter]
@[simp] theorem enter_valves : (s.enter k st).valves = s.valves := by simp [State.enter]
@[simp] theorem enter_drives : (s.enter k st).drives = s.drives := by simp [State.enter]
@[simp] theorem enter_points : (s.enter k st).points = s.points := by simp [State.enter]
@[simp] theorem enter_stations : (s.enter k st).stations = s.stations := by simp [State.enter]
@[simp] theorem enter_headers : (s.enter k st).headers = s.headers := by simp [State.enter]
@[simp] theorem enter_routes : (s.enter k st).routes = s.routes := by simp [State.enter]
@[simp] theorem enter_recipes : (s.enter k st).recipes = s.recipes := by simp [State.enter]
@[simp] theorem enter_claimQueue : (s.enter k st).claimQueue = s.claimQueue := by simp [State.enter]
@[simp] theorem enter_linkTimer : (s.enter k st).linkTimer = s.linkTimer := by simp [State.enter]
@[simp] theorem enter_linkSilent : (s.enter k st).linkSilent = s.linkSilent := by simp [State.enter]
@[simp] theorem enter_linkExpiry : (s.enter k st).linkExpiry = s.linkExpiry := by simp [State.enter]
@[simp] theorem enter_rxU : (s.enter k st).rxU = s.rxU := by simp [State.enter]
@[simp] theorem enter_rxF : (s.enter k st).rxF = s.rxF := by simp [State.enter]
@[simp] theorem enter_txU : (s.enter k st).txU = s.txU := by simp [State.enter]
@[simp] theorem enter_txF : (s.enter k st).txF = s.txF := by simp [State.enter]
@[simp] theorem enter_scanPointer : (s.enter k st).scanPointer = s.scanPointer := by simp [State.enter]
@[simp] theorem enter_visitTimer : (s.enter k st).visitTimer = s.visitTimer := by simp [State.enter]
@[simp] theorem enter_bufferHeld : (s.enter k st).bufferHeld = s.bufferHeld := by simp [State.enter]
@[simp] theorem enter_staging : (s.enter k st).staging = s.staging := by simp [State.enter]
@[simp] theorem enter_lastFetch : (s.enter k st).lastFetch = s.lastFetch := by simp [State.enter]
@[simp] theorem enter_loader : (s.enter k st).loader = s.loader := by simp [State.enter]
@[simp] theorem enter_handed : (s.enter k st).handed = s.handed := by simp [State.enter]
@[simp] theorem enter_freeCount : (s.enter k st).freeCount = s.freeCount := by simp [State.enter]
@[simp] theorem enter_pending : (s.enter k st).pending = s.pending := by simp [State.enter]

@[simp] theorem round_enter : (s.enter k st).round k = { s.round k with state := st } := by simp [State.enter]

theorem round_enter_ne {j : Slot} (h : j ≠ k) : (s.enter k st).round j = s.round j := by
  simp [State.enter, State.round_updRound_ne _ _ h]

@[simp] theorem station_enter (j : StationId) : (s.enter k st).station j = s.station j := by simp [State.enter]

@[simp] theorem header_enter (j : HeaderId) : (s.enter k st).header j = s.header j := by simp [State.enter]

/-- The ROUND_STATE that an entry queues (R112). -/
theorem enter_events : (s.enter k st).events = (s.offer { s.event .roundState with
    slot := some k
    cause := if st = .done then (s.round k).result.map .result else none
    value := some (.state st) }).events := by
  unfold State.enter
  simp only [State.round_updRound, event_updRound]
  exact (offer_congr (s := s) (t := s.updRound k fun r => { r with state := st }) _ rfl rfl rfl).1

end enter

/-! ### Part time -/

section pass

variable (s : State) (n : Nat)

theorem accumulate_eq (k : Slot) : s.accumulate n k = { s with rounds := (s.accumulate n k).rounds } := by
  unfold State.accumulate
  split <;> rfl

theorem passRounds_eq : s.passRounds n = { s with rounds := (s.passRounds n).rounds } := by
  have slots : ∀ (l : List Slot) (s : State),
      l.foldl (fun s k => (s.accumulate n k).updRound k (Round.count n)) s
        = { s with rounds := (l.foldl (fun s k => (s.accumulate n k).updRound k (Round.count n)) s).rounds } := by
    intro l
    induction l with
    | nil => exact fun s => rfl
    | cons k l ih =>
      intro s
      rw [List.foldl_cons, ih, accumulate_eq]
      rfl
  exact slots allSlots s

theorem passHeaders_eq : s.passHeaders n = { s with headers := (s.passHeaders n).headers } := rfl

/-- Part time changes the part time itself, the timers and hold accumulated alone. -/
theorem pass_eq : s.pass n = { s with
    partTime := s.partTime + BitVec.ofNat 32 n
    nodes := Table.each (fun _ e => { e with silence := e.silence.count n }) s.nodes
    linkTimer := s.linkTimer.count n
    visitTimer := s.visitTimer.count n
    rounds := (s.pass n).rounds
    headers := (s.pass n).headers } := by
  unfold State.pass
  dsimp only
  rw [passHeaders_eq, passRounds_eq]

@[simp] theorem pass_config : (s.pass n).config = s.config := by rw [pass_eq]
@[simp] theorem pass_segments : (s.pass n).segments = s.segments := by rw [pass_eq]
@[simp] theorem pass_valves : (s.pass n).valves = s.valves := by rw [pass_eq]
@[simp] theorem pass_drives : (s.pass n).drives = s.drives := by rw [pass_eq]
@[simp] theorem pass_points : (s.pass n).points = s.points := by rw [pass_eq]
@[simp] theorem pass_stations : (s.pass n).stations = s.stations := by rw [pass_eq]
@[simp] theorem pass_routes : (s.pass n).routes = s.routes := by rw [pass_eq]
@[simp] theorem pass_recipes : (s.pass n).recipes = s.recipes := by rw [pass_eq]
@[simp] theorem pass_claimQueue : (s.pass n).claimQueue = s.claimQueue := by rw [pass_eq]
@[simp] theorem pass_linkSilent : (s.pass n).linkSilent = s.linkSilent := by rw [pass_eq]
@[simp] theorem pass_linkExpiry : (s.pass n).linkExpiry = s.linkExpiry := by rw [pass_eq]
@[simp] theorem pass_rxU : (s.pass n).rxU = s.rxU := by rw [pass_eq]
@[simp] theorem pass_rxF : (s.pass n).rxF = s.rxF := by rw [pass_eq]
@[simp] theorem pass_txU : (s.pass n).txU = s.txU := by rw [pass_eq]
@[simp] theorem pass_txF : (s.pass n).txF = s.txF := by rw [pass_eq]
@[simp] theorem pass_scanPointer : (s.pass n).scanPointer = s.scanPointer := by rw [pass_eq]
@[simp] theorem pass_bufferHeld : (s.pass n).bufferHeld = s.bufferHeld := by rw [pass_eq]
@[simp] theorem pass_staging : (s.pass n).staging = s.staging := by rw [pass_eq]
@[simp] theorem pass_events : (s.pass n).events = s.events := by rw [pass_eq]
@[simp] theorem pass_overflow : (s.pass n).overflow = s.overflow := by rw [pass_eq]
@[simp] theorem pass_lastFetch : (s.pass n).lastFetch = s.lastFetch := by rw [pass_eq]
@[simp] theorem pass_loader : (s.pass n).loader = s.loader := by rw [pass_eq]
@[simp] theorem pass_handed : (s.pass n).handed = s.handed := by rw [pass_eq]
@[simp] theorem pass_freeCount : (s.pass n).freeCount = s.freeCount := by rw [pass_eq]
@[simp] theorem pass_pending : (s.pass n).pending = s.pending := by rw [pass_eq]

@[simp] theorem pass_partTime : (s.pass n).partTime = s.partTime + BitVec.ofNat 32 n := by rw [pass_eq]

@[simp] theorem pass_linkTimer : (s.pass n).linkTimer = s.linkTimer.count n := by rw [pass_eq]

@[simp] theorem pass_visitTimer : (s.pass n).visitTimer = s.visitTimer.count n := by rw [pass_eq]

@[simp] theorem pass_nodes :
    (s.pass n).nodes = Table.each (fun _ e => { e with silence := e.silence.count n }) s.nodes := by rw [pass_eq]

@[simp] theorem station_pass (j : StationId) : (s.pass n).station j = s.station j := by
  unfold State.station
  simp

/-- Each interface timer of a header counts. -/
theorem header_pass (h : HeaderId) : (s.pass n).header h = { s.header h with
    hold := (s.header h).hold.count n, maximum := (s.header h).maximum.count n } := by
  have e : (s.passRounds n).headers = s.headers := by rw [passRounds_eq]
  unfold State.pass
  dsimp only
  generalize s.passRounds n = u at e
  have e' : s.header h = u.header h := by
    unfold State.header
    rw [e]
  rw [e']
  change (u.passHeaders n).header h = _
  unfold State.passHeaders allHeaders
  simp only [List.foldl_cons, List.foldl_nil]
  fin_cases h <;> simp [State.header_updHeader_ne]

/-- Hold accumulated after part time: it counts while the round is in spec, up to the hold time (R123). -/
def accumulated (s : State) (n : Nat) (k : Slot) : Nat :=
  if s.inSpec k then max (s.round k).holdAcc (min ((s.round k).holdAcc + n) (s.holdTime k)) else (s.round k).holdAcc

/-- What a slot's record and the recipes say alone. -/
theorem specOf_congr {s t : State} {k : Slot} (h : t.round k = s.round k) (hr : t.recipes = s.recipes) :
    t.inSpec k = s.inSpec k ∧ t.holdTime k = s.holdTime k ∧ t.accumulated n k = s.accumulated n k := by
  have h1 : t.stepOf k = s.stepOf k := by
    unfold State.stepOf State.recipeOf
    rw [h, hr]
  have h2 : t.inSpec k = s.inSpec k := by
    unfold State.inSpec
    rw [h, h1]
  have h3 : t.holdTime k = s.holdTime k := by
    unfold State.holdTime
    rw [h1]
  refine ⟨h2, h3, ?_⟩
  unfold accumulated
  rw [h, h2, h3]

/-- Each running timer of a round counts, and hold accumulated as R123 says. -/
theorem round_pass (k : Slot) :
    (s.pass n).round k = { (s.round k).count n with holdAcc := s.accumulated n k } := by
  have step : ∀ (s : State) (j : Slot), (((s.accumulate n j).updRound j (Round.count n)).round k
      = if k = j then { (s.round k).count n with holdAcc := s.accumulated n k } else s.round k) := by
    intro s j
    by_cases e : k = j
    · subst e
      simp only [State.round_updRound, if_true]
      unfold State.accumulate accumulated
      split
      · simp only [State.round_updRound]
        rfl
      · rfl
    · rw [State.round_updRound_ne _ _ e, if_neg e]
      unfold State.accumulate
      split
      · rw [State.round_updRound_ne _ _ e]
      · rfl
  have recipes : ∀ (s : State) (j : Slot), ((s.accumulate n j).updRound j (Round.count n)).recipes = s.recipes := by
    intro s j
    rw [accumulate_eq]
    rfl
  have slots : ∀ (l : List Slot), l.Nodup → ∀ s : State,
      ((l.foldl (fun s k => (s.accumulate n k).updRound k (Round.count n)) s).round k
        = if k ∈ l then { (s.round k).count n with holdAcc := s.accumulated n k } else s.round k) := by
    intro l
    induction l with
    | nil => exact fun _ s => rfl
    | cons j l ih =>
      intro nd s
      obtain ⟨nj, nd⟩ := List.nodup_cons.1 nd
      rw [List.foldl_cons, ih nd, step]
      by_cases e : k = j
      · subst e
        simp [nj]
      · rw [if_neg e]
        have c := specOf_congr (n := n) (s := s) (t := (s.accumulate n j).updRound j (Round.count n)) (k := k)
          (by rw [step, if_neg e]) (recipes s j)
        simp [e, c.2.2]
  have all : ∀ k, k ∈ allSlots := by decide
  have h := slots allSlots (by decide) s
  rw [if_pos (all k)] at h
  rw [← h]
  change _ = (s.passRounds n).round k
  unfold State.pass
  dsimp only
  generalize s.passRounds n = u
  rw [passHeaders_eq]
  rfl

end pass

end Sys2Proof.Machine.State
end

