-- ==== Sys2Proof/Laws/Work.lean ====
section
/-!
SUPPORT. What the work of the sequencer, the station arbiter and the header controller can do, said once: `Work P` is
a chain of small edits, each of which leaves the loaded fields and the identity of a round alone, and changes the
records, and names in station fields and queues, only slots that satisfy `P`. With `P` true of every slot it frames an
event; with `P` true of every slot but one it says that an event leaves that round alone. `Q` says that the chain is quiet: no
step index and no wait queue changes.
-/

namespace Sys2Proof.Machine

open Sys2Proof

/-- One edit of the sequencer's work. -/
inductive WorkEdit (P : Slot → Prop) (Q : Prop) : State → State → Prop where
  | round (s : State) (k : Slot) (f : Round → Round) (p : P k)
      (h : ∀ r, (f r).given = r.given ∧ (f r).recipe = r.recipe ∧ (f r).route = r.route
        ∧ (f r).startTime = r.startTime ∧ (f r).header = r.header ∧ (Q → (f r).step = r.step)) : WorkEdit P Q s (s.updRound k f)
  | station (s : State) (st : StationId) (f : Station → Station)
      (h : ∀ x, (f x).load = x.load)
      (q : ∀ x j, j ∈ (f x).queue → j ∈ x.queue ∨ P j)
      (g : ∀ x j, (f x).granted = some j → x.granted = some j ∨ P j)
      (quiet : Q → ∀ x, (f x).queue = x.queue) : WorkEdit P Q s (s.updStation st f)
  | header (s : State) (h : HeaderId) (f : Header → Header) (l : ∀ x, (f x).load = x.load)
      (sound : (s.header h).sound → (f (s.header h)).sound) : WorkEdit P Q s (s.updHeader h f)
  | valve (s : State) (n : Nat) (f : ValveEntry → ValveEntry) (h : ∀ v, (f v).untouched = v.untouched) :
      WorkEdit P Q s (s.updValve n f)
  | drive (s : State) (n : Nat) (f : DriveEntry → DriveEntry) (h : ∀ d, (f d).untouched = d.untouched) :
      WorkEdit P Q s (s.updDrive n f)
  | offer (s : State) (e : Event) : WorkEdit P Q s (s.offer e)

/-- A chain of edits. -/
abbrev Work (P : Slot → Prop) (Q : Prop) : State → State → Prop := Relation.ReflTransGen (WorkEdit P Q)

namespace Work

variable {P : Slot → Prop} {Q : Prop} {s t u : State}

theorem rfl' : Work P Q s s := Relation.ReflTransGen.refl

theorem one (h : WorkEdit P Q s t) : Work P Q s t := Relation.ReflTransGen.single h

theorem round (k : Slot) (f : Round → Round) (p : P k)
    (h : ∀ r, (f r).given = r.given ∧ (f r).recipe = r.recipe ∧ (f r).route = r.route
      ∧ (f r).startTime = r.startTime ∧ (f r).header = r.header ∧ (Q → (f r).step = r.step)) : Work P Q s (s.updRound k f) :=
  one (.round s k f p h)

theorem header (h : HeaderId) (f : Header → Header) (l : ∀ x, (f x).load = x.load)
    (sound : (s.header h).sound → (f (s.header h)).sound) : Work P Q s (s.updHeader h f) :=
  one (.header s h f l sound)

theorem offer (e : Event) : Work P Q s (s.offer e) := one (.offer s e)

/-- A fold of work is work. -/
theorem foldl {β : Type} (f : State → β → State) (h : ∀ s x, Work P Q s (f s x)) (l : List β) :
    ∀ s, Work P Q s (l.foldl f s) := by
  induction l with
  | nil => exact fun s => rfl'
  | cons x l ih => exact fun s => (h s x).trans (ih _)

/-! ### What a chain of edits leaves alone -/

theorem map_adjust_untouched {α β : Type} (n : Nat) (f : α → α) (g : α → β) (h : ∀ v, g (f v) = g v)
    (t : Table α) : (Table.adjust n f t).map (fun x => (x.1, g x.2)) = t.map (fun x => (x.1, g x.2)) := by
  unfold Table.adjust
  rw [List.map_map]
  apply List.map_congr_left
  intro x _
  by_cases e : x.1 = n <;> simp [e, h]

theorem frame (w : Work P Q s t) : sequencerFrame s t := by
  induction w with
  | refl => exact ⟨rfl, rfl, rfl, fun _ => rfl, fun _ => rfl⟩
  | tail _ e ih =>
    obtain ⟨h1, h2, h3, h4, h5⟩ := ih
    cases e with
    | round k f p h => exact ⟨by rw [h1]; rfl, h2, h3, h4, h5⟩
    | station st f h =>
      refine ⟨by rw [h1]; rfl, h2, h3, fun j => ?_, h5⟩
      by_cases e : j = st
      · subst e
        simp [h, h4]
      · simp [State.station_updStation_ne, e, h4]
    | header k f l =>
      refine ⟨by rw [h1]; rfl, h2, h3, h4, fun j => ?_⟩
      by_cases e : j = k
      · subst e
        simp [l, h5]
      · simp [State.header_updHeader_ne, e, h5]
    | valve n f h =>
      refine ⟨by rw [h1]; rfl, ?_, h3, h4, h5⟩
      rw [← h2]
      exact map_adjust_untouched n f _ h _
    | drive n f h =>
      refine ⟨by rw [h1]; rfl, h2, ?_, h4, h5⟩
      rw [← h3]
      exact map_adjust_untouched n f _ h _
    | offer e =>
      rw [State.offer_eq]
      exact ⟨by rw [h1], h2, h3, h4, h5⟩

/-- A round outside `P` is left as it is, and every round keeps class, recipe, route, start time and header. -/
theorem rounds (w : Work P Q s t) : ∀ j, (¬P j → t.round j = s.round j)
    ∧ (t.round j).given = (s.round j).given ∧ (t.round j).recipe = (s.round j).recipe
    ∧ (t.round j).route = (s.round j).route ∧ (t.round j).startTime = (s.round j).startTime
    ∧ (t.round j).header = (s.round j).header := by
  induction w with
  | refl => simp
  | @tail b _ _ e ih =>
    cases e with
    | round k f p h =>
      intro j
      by_cases e : j = k
      · subst e
        obtain ⟨h1, h2, h3, h4, h5, _⟩ := h (b.round j)
        obtain ⟨_, i1, i2, i3, i4, i5⟩ := ih j
        refine ⟨fun np => absurd p np, ?_⟩
        simp only [State.round_updRound]
        exact ⟨h1.trans i1, h2.trans i2, h3.trans i3, h4.trans i4, h5.trans i5⟩
      · simpa [State.round_updRound_ne _ _ e] using ih j
    | offer e =>
      rw [State.offer_eq]
      exact ih
    | _ => exact ih

/-- A slot outside `P` joins no queue and is granted no station. -/
theorem queues (w : Work P Q s t) {j : Slot} (np : ¬P j) : ∀ st,
    (j ∈ (t.station st).queue → j ∈ (s.station st).queue)
    ∧ ((t.station st).granted = some j → (s.station st).granted = some j) := by
  induction w with
  | refl => simp
  | tail _ e ih =>
    cases e with
    | station st f h q g =>
      intro i
      by_cases e : i = st
      · subst e
        rw [State.station_updStation]
        exact ⟨fun m => (q _ _ m).elim (ih i).1 (absurd · np), fun m => (g _ _ m).elim (ih i).2 (absurd · np)⟩
      · simpa [State.station_updStation_ne _ _ e] using ih i
    | offer e =>
      rw [State.offer_eq]
      exact ih
    | _ => exact ih

/-- A list of waiting rounds within `P` stays so. -/
theorem queuesIn (w : Work P Q s t) (h : ∀ st j, j ∈ (s.station st).queue → P j) :
    ∀ st j, j ∈ (t.station st).queue → P j := by
  intro st j m
  by_contra np
  exact np (h st j ((w.queues np st).1 m))

theorem headersSound (w : Work P Q s t) (h : s.headersSound) : t.headersSound := by
  induction w with
  | refl => exact h
  | tail _ e ih =>
    cases e with
    | header k f l sound =>
      intro j
      by_cases e : j = k
      · subst e
        rw [State.header_updHeader]
        exact sound (ih j)
      · rw [State.header_updHeader_ne _ _ e]
        exact ih j
    | offer e =>
      rw [State.offer_eq]
      exact ih
    | _ => exact ih

theorem mono {R : Slot → Prop} (w : Work P Q s t) (h : ∀ k, P k → R k) : Work R Q s t := by
  induction w with
  | refl => exact rfl'
  | tail _ e ih =>
  refine ih.tail ?_
  cases e with
  | round k f p hf => exact .round _ k f (h k p) hf
  | station st f hl q g quiet =>
    exact .station _ st f hl (fun x j m => (q x j m).imp_right (h j)) (fun x j m => (g x j m).imp_right (h j)) quiet
  | header k f l sound => exact .header _ k f l sound
  | valve n f hf => exact .valve _ n f hf
  | drive n f hf => exact .drive _ n f hf
  | offer e => exact .offer _ e

/-- A quiet chain leaves every step index and every wait queue as it is. -/
theorem quiet (w : Work P True s t) :
    (∀ j, (t.round j).step = (s.round j).step) ∧ ∀ st, (t.station st).queue = (s.station st).queue := by
  induction w with
  | refl => simp
  | @tail b _ _ e ih =>
    cases e with
    | round k f p h =>
      refine ⟨fun j => ?_, ih.2⟩
      by_cases e : j = k
      · subst e
        rw [State.round_updRound]
        exact ((h (b.round j)).2.2.2.2.2 trivial).trans (ih.1 j)
      · rw [State.round_updRound_ne _ _ e]
        exact ih.1 j
    | station st f hl q g quiet =>
      refine ⟨ih.1, fun i => ?_⟩
      by_cases e : i = st
      · subst e
        rw [State.station_updStation]
        exact (quiet trivial _).trans (ih.2 i)
      · rw [State.station_updStation_ne _ _ e]
        exact ih.2 i
    | offer e =>
      rw [State.offer_eq]
      exact ih
    | _ => exact ih

end Work

end Sys2Proof.Machine
end

