-- ==== Sys2Proof/Laws/Sequencer.lean ====
section
/-!
SUPPORT. One lemma per operation of the header controller and the sequencer: what it adds to a chain of work on the
slots it names. At the end, that a task and a cascade are work on their own rounds and on the rounds that wait for a
station.
-/

namespace Sys2Proof.Machine.Work

open Sys2Proof Sys2Proof.Machine

variable {P : Slot → Prop} {Q : Prop} {s t : State} {k : Slot}

/-! ### Elementary edits, at the end of a chain -/

theorem upd {f : Round → Round} (w : Work P Q s t) (p : P k) (h : ∀ r, (f r).given = r.given
    ∧ (f r).recipe = r.recipe ∧ (f r).route = r.route ∧ (f r).startTime = r.startTime
    ∧ (f r).header = r.header ∧ (Q → (f r).step = r.step)) : Work P Q s (t.updRound k f) := w.tail (.round t k f p h)

theorem hdr {h : HeaderId} {f : Header → Header} (w : Work P Q s t) (l : ∀ x, (f x).load = x.load)
    (sound : (t.header h).sound → (f (t.header h)).sound) : Work P Q s (t.updHeader h f) :=
  w.tail (.header t h f l sound)

theorem offered {e : Event} (w : Work P Q s t) : Work P Q s (t.offer e) := w.tail (.offer t e)

theorem folded {β : Type} {f : State → β → State} (h : ∀ s t x, Work P Q s t → Work P Q s (f t x)) (l : List β)
    (w : Work P Q s t) : Work P Q s (l.foldl f t) := by
  induction l generalizing t with
  | nil => exact w
  | cons x l ih => exact ih (h s t x w)

/-! ### Actuators and events -/

theorem commandValve (w : Work P Q s t) (n : Nat) (x : Position) : Work P Q s (t.commandValve n x) := by
  refine w.tail (.valve t n _ fun v => ?_)
  unfold ValveEntry.command
  split <;> rfl

theorem commandValves (w : Work P Q s t) (l : List (Nat × Position)) : Work P Q s (t.commandValves l) :=
  folded (fun _ _ _ w => commandValve w _ _) l w

theorem commandDrive (w : Work P Q s t) (n value : Nat) : Work P Q s (t.commandDrive n value) :=
  w.tail (.drive t n _ fun _ => rfl)

theorem ownValve (w : Work P Q s t) (o : Option Slot) (n : Nat) : Work P Q s (t.ownValve o n) :=
  w.tail (.valve t n _ fun _ => rfl)

theorem ownDrive (w : Work P Q s t) (o : Option Slot) (n : Nat) : Work P Q s (t.ownDrive o n) :=
  w.tail (.drive t n _ fun _ => rfl)

theorem enter (w : Work P Q s t) (p : P k) (st : RoundState) : Work P Q s (t.enter k st) :=
  offered (upd w p (fun _ => by exact ⟨rfl, rfl, rfl, rfl, rfl, fun _ => rfl⟩))

/-! ### Headers -/

theorem switch (w : Work P Q s t) (h : HeaderId) (x : Target) : Work P Q s (t.switch h x) := by
  unfold State.switch
  split
  · exact hdr (commandValves w _) (fun _ => rfl) id
  · exact hdr w (fun _ => rfl) id

theorem steady (w : Work P Q s t) (h : HeaderId) : Work P Q s (t.steady h) :=
  hdr w (fun _ => rfl) fun _ => by simp [Header.sound, Timer.stop]

theorem beginOut (w : Work P Q s t) (h : HeaderId) (x : Target) : Work P Q s (t.beginOut h x) :=
  hdr w (fun _ => rfl) fun _ => by simp [Header.sound, Timer.start]

theorem beginIn (w : Work P Q s t) (h : HeaderId) (x : Target) : Work P Q s (t.beginIn h x) :=
  hdr (switch w h _) (fun _ => rfl) fun _ => by simp [Header.sound, Timer.start]

theorem judgeTarget (w : Work P Q s t) (h : HeaderId) (x : Target) : Work P Q s (t.judgeTarget h x) := by
  unfold State.judgeTarget
  dsimp only
  split
  · exact w
  · split
    · exact beginOut w h x
    · split
      · exact beginIn w h x
      · exact switch w h x

theorem cutInterface (w : Work P Q s t) (h : HeaderId) : Work P Q s (t.cutInterface h k) := by
  unfold State.cutInterface
  dsimp only
  split
  · exact w
  · exact offered (steady w h)

theorem requestTarget (w : Work P Q s t) (h : HeaderId) (x : Target) : Work P Q s (t.requestTarget h k x) :=
  judgeTarget (cutInterface w h) h _

theorem takePending (w : Work P Q s t) (h : HeaderId) : Work P Q s (t.takePending h) := by
  unfold State.takePending
  split
  · split
    · exact beginIn (steady w h) h _
    · exact steady (switch w h _) h
  · exact steady w h

theorem finishIn (w : Work P Q s t) (h : HeaderId) : Work P Q s (t.finishIn h) := by
  unfold State.finishIn
  split
  · exact steady (switch w h _) h
  · exact steady w h

theorem settleOnDrain (w : Work P Q s t) (h : HeaderId) : Work P Q s (t.settleOnDrain h) := by
  unfold State.settleOnDrain
  dsimp only
  split
  · exact steady w h
  · exact switch (steady w h) h _

theorem interfaceLong (w : Work P Q s t) (h : HeaderId) : Work P Q s (t.interfaceLong h) := by
  unfold State.interfaceLong
  dsimp only
  split
  · exact takePending (offered w) h
  · exact settleOnDrain (offered w) h

theorem condSample (w : Work P Q s t) (h : HeaderId) (value : Nat) (q : Quality) :
    Work P Q s (t.condSample h value q) := by
  unfold State.condSample
  dsimp only
  split
  · exact w
  · rename_i ne
    split
    · exact w
    · exact hdr w (fun _ => rfl) fun hs => ⟨hs.1, hs.2.1, fun e => absurd e ne⟩

theorem condSilence (w : Work P Q s t) (h : HeaderId) : Work P Q s (t.condSilence h) := by
  unfold State.condSilence
  split
  · exact w
  · exact hdr w (fun _ => rfl) fun hs => ⟨hs.1, hs.2.1, fun _ => by simp⟩

theorem cancelHeader (w : Work P Q s t) (h : HeaderId) : Work P Q s (t.cancelHeader h) := by
  unfold State.cancelHeader
  dsimp only
  split
  · exact w
  · exact steady (switch w h _) h

theorem releaseHeader (w : Work P Q s t) (h : HeaderId) : Work P Q s (t.releaseHeader h) := settleOnDrain w h

/-! ### Lifts and holding -/

theorem closeLift (w : Work P Q s t) (p : P k) : Work P Q s (t.closeLift k) := by
  unfold State.closeLift
  split
  · exact upd (commandValve w _ _) p (fun _ => by exact ⟨rfl, rfl, rfl, rfl, rfl, fun _ => rfl⟩)
  · exact w

theorem startLifted (w : Work P Q s t) (p : P k) (n pulse : Nat) : Work P Q s (t.startLifted k n pulse) := by
  unfold State.startLifted
  split
  · exact upd (commandValve w _ _) p (fun _ => by exact ⟨rfl, rfl, rfl, rfl, rfl, fun _ => rfl⟩)
  · exact upd w p (fun _ => by exact ⟨rfl, rfl, rfl, rfl, rfl, fun _ => rfl⟩)

theorem startClosed (w : Work P Q s t) (p : P k) (n pulse : Nat) : Work P Q s (t.startClosed k n pulse) := by
  unfold State.startClosed
  split
  · exact upd (commandValve w _ _) p (fun _ => by exact ⟨rfl, rfl, rfl, rfl, rfl, fun _ => rfl⟩)
  · exact upd w p (fun _ => by exact ⟨rfl, rfl, rfl, rfl, rfl, fun _ => rfl⟩)

theorem putOnHold (w : Work P Q s t) (p : P k) (res : ResumeState) : Work P Q s (t.putOnHold k res) :=
  enter (upd w p (fun _ => by exact ⟨rfl, rfl, rfl, rfl, rfl, fun _ => rfl⟩)) p _

theorem enterHolding (w : Work P Q s t) (p : P k) (res : ResumeState) : Work P Q s (t.enterHolding k res) :=
  putOnHold (closeLift w p) p res

theorem noteSilent (w : Work P Q s t) (p : P k) (nodes : List Octet) : Work P Q s (t.noteSilent k nodes) :=
  upd w p (fun _ => by exact ⟨rfl, rfl, rfl, rfl, rfl, fun _ => rfl⟩)

theorem takeCause (w : Work P Q s t) (p : P k) : Work P Q s (t.takeCause k) := by
  unfold State.takeCause
  split
  · exact enterHolding w p _
  · exact w

theorem gainCause (w : Work P Q s t) (p : P k) (f : HoldCauses → HoldCauses) : Work P Q s (t.gainCause k f) := by
  unfold State.gainCause
  split
  · exact takeCause (upd w p (fun _ => by exact ⟨rfl, rfl, rfl, rfl, rfl, fun _ => rfl⟩)) p
  · exact w

/-! ### Stations -/

theorem takeOwnership (w : Work P Q s t) (st : StationId) : Work P Q s (t.takeOwnership k st) :=
  folded (fun _ _ _ w => ownDrive w _ _) _ (folded (fun _ _ _ w => ownValve w _ _) _ w)

theorem giveUpActuators (w : Work P Q s t) (st : StationId) : Work P Q s (t.giveUpActuators k st) := by
  refine folded (fun _ t n w => w.tail (.drive t n _ fun d => ?_)) _
    (folded (fun _ t n w => w.tail (.valve t n _ fun v => ?_)) _ w)
  · unfold DriveEntry.giveUp
    split <;> rfl
  · unfold ValveEntry.giveUp ValveEntry.command
    split
    · split <;> rfl
    · rfl

theorem linkStation (w : Work P Q s t) (st : StationId) (b : Bool) :
    Work P Q s (t.updStation st fun x => { x with linked := b }) :=
  w.tail (.station t st _ (fun _ => rfl) (fun _ _ m => Or.inl m) (fun _ _ m => Or.inl m)
    fun _ _ => rfl)

theorem grantStation (w : Work P Q s t) (p : P k) (st : StationId) :
    Work P Q s (t.updStation st fun x => { x with granted := some k, linked := false }) :=
  w.tail (.station t st _ (fun _ => rfl) (fun _ _ m => Or.inl m)
    (fun _ _ m => Or.inr (by injection m with m; exact m ▸ p)) fun _ _ => rfl)

theorem ungrantStation (w : Work P Q s t) (st : StationId) :
    Work P Q s (t.updStation st fun x => { x with granted := none, linked := false }) :=
  w.tail (.station t st _ (fun _ => rfl) (fun _ _ m => Or.inl m) (fun _ _ m => by simp at m)
    fun _ _ => rfl)

theorem freeStation (w : Work P Q s t) (p : P k) (owned : Bool) : Work P Q s (t.freeStation k owned) := by
  unfold State.freeStation
  split
  · exact upd w p (fun _ => by exact ⟨rfl, rfl, rfl, rfl, rfl, fun _ => rfl⟩)
  · rename_i st _
    cases owned
    · exact upd (ungrantStation w st) p (fun _ => by exact ⟨rfl, rfl, rfl, rfl, rfl, fun _ => rfl⟩)
    · exact upd (ungrantStation (giveUpActuators w st) st) p (fun _ => by exact ⟨rfl, rfl, rfl, rfl, rfl, fun _ => rfl⟩)

theorem leaveQueues (w : Work P False s t) (p : P k) : Work P False s (t.leaveQueues k) := by
  unfold State.leaveQueues
  refine upd (folded (fun _ t st w => ?_) _ w) p (fun _ => by exact ⟨rfl, rfl, rfl, rfl, rfl, fun _ => rfl⟩)
  exact w.tail (.station t st _ (fun _ => rfl) (fun _ _ m => Or.inl (List.mem_of_mem_filter m))
    (fun _ _ m => Or.inl m) False.elim)

theorem joinQueue (w : Work P False s t) (p : P k) (st : StationId) : Work P False s (t.joinQueue k st) := by
  unfold State.joinQueue
  refine upd (w.tail (.station t st _ (fun _ => rfl) (fun x j m => ?_) (fun _ _ m => Or.inl m)
    False.elim)) p (fun _ => by exact ⟨rfl, rfl, rfl, rfl, rfl, fun _ => rfl⟩)
  rcases List.mem_append.1 m with m | m
  · exact Or.inl m
  · exact Or.inr (by rw [List.mem_singleton.1 m]; exact p)

theorem resolve (w : Work P Q s t) (p : P k) (st : StationId) : Work P Q s (t.resolve k st) :=
  upd w p (fun _ => by exact ⟨rfl, rfl, rfl, rfl, rfl, fun _ => rfl⟩)

/-! ### Supply, steps, ending and faults -/

theorem commandDrives (w : Work P Q s t) (st : StationId) (pump heater : Nat) :
    Work P Q s (t.commandDrives st pump heater) := by
  unfold State.commandDrives
  split
  · dsimp only
    split
    · exact commandDrive (commandDrive w _ _) _ _
    · exact commandDrive w _ _
  · exact w

theorem beginSupply (w : Work P Q s t) (p : P k) (st : StationId) (step : RecipeStep) :
    Work P Q s (t.beginSupply k st step) := by
  unfold State.beginSupply
  dsimp only
  split
  · exact requestTarget (upd (linkStation w st _) p (fun _ => by exact ⟨rfl, rfl, rfl, rfl, rfl, fun _ => rfl⟩)) _ _
  · exact upd (linkStation w st _) p (fun _ => by exact ⟨rfl, rfl, rfl, rfl, rfl, fun _ => rfl⟩)

theorem supply (w : Work P Q s t) (p : P k) (st : StationId) (step : RecipeStep) (onReturn : Bool) :
    Work P Q s (t.supply k st step onReturn) := by
  unfold State.supply
  dsimp only
  refine upd ?_ p (fun _ => by exact ⟨rfl, rfl, rfl, rfl, rfl, fun _ => rfl⟩)
  split
  · exact upd (commandDrives (commandValves w _) _ _ _) p (fun _ => by exact ⟨rfl, rfl, rfl, rfl, rfl, fun _ => rfl⟩)
  · exact beginSupply (commandDrives (commandValves w _) _ _ _) p st step

theorem finishStep (w : Work P Q s t) (p : P k) : Work P Q s (t.finishStep k) := by
  unfold State.finishStep
  exact offered (upd (closeLift w p) p (fun _ => by exact ⟨rfl, rfl, rfl, rfl, rfl, fun _ => rfl⟩))

theorem resetStep (w : Work P Q s t) (p : P k) : Work P Q s (t.resetStep k) := by
  unfold State.resetStep
  exact upd w p (fun _ => by exact ⟨rfl, rfl, rfl, rfl, rfl, fun _ => rfl⟩)

theorem beginEnding (w : Work P Q s t) (p : P k) (res : RoundResult) : Work P Q s (t.beginEnding k res) := by
  unfold State.beginEnding
  exact freeStation (upd (closeLift w p) p (fun _ => by exact ⟨rfl, rfl, rfl, rfl, rfl, fun _ => rfl⟩)) p _

theorem endingTail (w : Work P Q s t) (p : P k) : Work P Q s (t.endingTail k) := by
  unfold State.endingTail
  dsimp only
  cases (t.round k).header with
  | none =>
    dsimp only
    have base : ∀ f nodes, (∀ r, (f r).given = r.given ∧ (f r).recipe = r.recipe ∧ (f r).route = r.route
        ∧ (f r).startTime = r.startTime ∧ (f r).header = r.header ∧ (Q → (f r).step = r.step)) →
        Work P Q s ((t.updRound k f).noteSilent k nodes) := fun f nodes h => noteSilent (upd w p h) p nodes
    split
    · exact upd (base _ _ fun _ => by exact ⟨rfl, rfl, rfl, rfl, rfl, fun _ => rfl⟩) p (fun _ => by exact ⟨rfl, rfl, rfl, rfl, rfl, fun _ => rfl⟩)
    · split
      · exact enter (upd (base _ _ fun _ => by exact ⟨rfl, rfl, rfl, rfl, rfl, fun _ => rfl⟩) p (fun _ => by exact ⟨rfl, rfl, rfl, rfl, rfl, fun _ => rfl⟩)) p _
      · exact enterHolding (base _ _ fun _ => by exact ⟨rfl, rfl, rfl, rfl, rfl, fun _ => rfl⟩) p _
  | some h =>
    dsimp only
    have base : ∀ f nodes, (∀ r, (f r).given = r.given ∧ (f r).recipe = r.recipe ∧ (f r).route = r.route
        ∧ (f r).startTime = r.startTime ∧ (f r).header = r.header ∧ (Q → (f r).step = r.step)) →
        Work P Q s (((t.requestTarget h k .drain).updRound k f).noteSilent k nodes) :=
      fun f nodes e => noteSilent (upd (requestTarget w _ _) p e) p nodes
    split
    · exact upd (base _ _ fun _ => by exact ⟨rfl, rfl, rfl, rfl, rfl, fun _ => rfl⟩) p (fun _ => by exact ⟨rfl, rfl, rfl, rfl, rfl, fun _ => rfl⟩)
    · split
      · exact enter (upd (base _ _ fun _ => by exact ⟨rfl, rfl, rfl, rfl, rfl, fun _ => rfl⟩) p (fun _ => by exact ⟨rfl, rfl, rfl, rfl, rfl, fun _ => rfl⟩)) p _
      · exact enterHolding (base _ _ fun _ => by exact ⟨rfl, rfl, rfl, rfl, rfl, fun _ => rfl⟩) p _

theorem faultTail (w : Work P Q s t) (p : P k) (cause : FaultCause) (subject : Option Subject) :
    Work P Q s (t.faultTail k cause subject) := by
  unfold State.faultTail
  dsimp only
  refine enter (offered ?_) p _
  split
  · exact cancelHeader (upd (closeLift w p) p (fun _ => by exact ⟨rfl, rfl, rfl, rfl, rfl, fun _ => rfl⟩)) _
  · exact upd (closeLift w p) p (fun _ => by exact ⟨rfl, rfl, rfl, rfl, rfl, fun _ => rfl⟩)

/-! ### Tasks -/

/-- The slot a task is about satisfies `P`. -/
def onTask (P : Slot → Prop) : Task → Prop
  | .examine _ => True
  | .begin k => P k
  | .fill k _ => P k
  | .timing k => P k
  | .judge k => P k
  | .next k => P k
  | .ending k _ => P k
  | .endingTail k => P k
  | .fault k _ _ => P k
  | .faultTail k _ _ => P k

theorem onTask_examineHeld (held : Option StationId) : ∀ x ∈ examineHeld held, onTask P x := by
  intro x m
  cases held with
  | none => simp [examineHeld] at m
  | some st =>
    simp only [examineHeld, List.mem_singleton] at m
    subst m
    trivial

theorem bestWaiting_mem {st : StationId} (h : t.bestWaiting st = some k) : k ∈ (t.station st).queue := by
  unfold State.bestWaiting at h
  dsimp only at h
  split at h
  · rename_i e
    injection h with h
    exact h ▸ List.mem_of_find?_eq_some e
  · split at h
    · rename_i e
      injection h with h
      exact h ▸ List.mem_of_find?_eq_some e
    · exact List.mem_of_mem_head? h

theorem grant (w : Work P False s t) (p : P k) (st : StationId) :
    Work P False s (t.grant st k).1 ∧ ∀ x ∈ (t.grant st k).2, onTask P x := by
  unfold State.grant
  dsimp only
  have base := upd (grantStation (leaveQueues w p) p st) p (f := fun r =>
    { r with held := some st, linked := false }) (fun _ => by exact ⟨rfl, rfl, rfl, rfl, rfl, fun _ => rfl⟩)
  split
  · split
    · exact ⟨takeOwnership base st, by simpa [onTask] using p⟩
    · exact ⟨noteSilent (resolve (takeOwnership base st) p st) p _, by simpa [onTask] using p⟩
  · exact ⟨base, by simpa [onTask] using p⟩

theorem examine (w : Work P False s t) (q : ∀ st j, j ∈ (t.station st).queue → P j) (st : StationId) :
    Work P False s (t.examine st).1 ∧ ∀ x ∈ (t.examine st).2, onTask P x := by
  unfold State.examine
  split
  · exact ⟨w, by simp⟩
  · split
    · rename_i e
      exact grant w (q st _ (bestWaiting_mem e)) st
    · exact ⟨w, by simp⟩

theorem beginStep (w : Work P False s t) (p : P k) :
    Work P False s (t.beginStep k).1 ∧ ∀ x ∈ (t.beginStep k).2, onTask P x := by
  unfold State.beginStep
  dsimp only
  split
  · exact ⟨noteSilent (resolve (resetStep w p) p _) p _, by simpa [onTask] using p⟩
  · split
    · exact ⟨joinQueue (enter (resetStep w p) p _) p _, by simp [onTask]⟩
    · exact ⟨enter (resetStep w p) p _, by simp⟩

theorem enterFill (w : Work P Q s t) (p : P k) (onReturn : Bool) :
    Work P Q s (t.enterFill k onReturn).1 ∧ ∀ x ∈ (t.enterFill k onReturn).2, onTask P x := by
  unfold State.enterFill
  dsimp only
  have base := enter (upd w p (f := fun r => { r with resume := none, holdLimit := r.holdLimit.stop })
    (fun _ => by exact ⟨rfl, rfl, rfl, rfl, rfl, fun _ => rfl⟩)) p .stepFill
  split
  · split
    · split
      · dsimp only
        exact ⟨upd (supply base p _ _ _) p (fun _ => by exact ⟨rfl, rfl, rfl, rfl, rfl, fun _ => rfl⟩), by simpa [onTask] using p⟩
      · dsimp only
        exact ⟨supply base p _ _ _, by simp⟩
    · dsimp only
      exact ⟨base, by simp⟩
  · dsimp only
    exact ⟨putOnHold w p _, by simp⟩

theorem enterTiming (w : Work P Q s t) (p : P k) :
    Work P Q s (t.enterTiming k).1 ∧ ∀ x ∈ (t.enterTiming k).2, onTask P x := by
  unfold State.enterTiming
  dsimp only
  refine ⟨?_, by simpa [onTask] using p⟩
  split
  · exact startLifted (enter (upd w p (fun _ => by exact ⟨rfl, rfl, rfl, rfl, rfl, fun _ => rfl⟩)) p _) p _ _
  · exact enter (upd w p (fun _ => by exact ⟨rfl, rfl, rfl, rfl, rfl, fun _ => rfl⟩)) p _

theorem judgeStep (w : Work P False s t) (p : P k) :
    Work P False s (t.judgeStep k).1 ∧ ∀ x ∈ (t.judgeStep k).2, onTask P x := by
  unfold State.judgeStep
  dsimp only
  split
  · split
    · dsimp only
      refine ⟨upd ?_ p (fun _ => by exact ⟨rfl, rfl, rfl, rfl, rfl, False.elim⟩), by simpa [onTask] using p⟩
      split
      · exact linkStation (finishStep w p) _ _
      · exact finishStep w p
    · dsimp only
      refine ⟨freeStation (finishStep w p) p _, fun x m => ?_⟩
      rcases List.mem_append.1 m with m | m
      · exact onTask_examineHeld _ x m
      · rw [List.mem_singleton.1 m]
        exact p
  · exact ⟨w, by simp⟩

theorem afterStep (w : Work P False s t) (p : P k) :
    Work P False s (t.afterStep k).1 ∧ ∀ x ∈ (t.afterStep k).2, onTask P x := by
  unfold State.afterStep
  split
  · dsimp only
    exact ⟨upd w p (fun _ => by exact ⟨rfl, rfl, rfl, rfl, rfl, False.elim⟩), by simpa [onTask] using p⟩
  · exact ⟨w, by simpa [onTask] using p⟩

theorem reportFault (w : Work P False s t) (p : P k) (cause : FaultCause) (subject : Option Subject) :
    Work P False s (t.reportFault k cause subject).1 ∧ ∀ x ∈ (t.reportFault k cause subject).2, onTask P x := by
  unfold State.reportFault
  dsimp only
  split
  · dsimp only
    refine ⟨freeStation (leaveQueues (upd w p (fun _ => by exact ⟨rfl, rfl, rfl, rfl, rfl, fun _ => rfl⟩)) p) p _, fun x m => ?_⟩
    rcases List.mem_append.1 m with m | m
    · exact onTask_examineHeld _ x m
    · rw [List.mem_singleton.1 m]
      exact p
  · exact ⟨w, by simp⟩

/-- A task is work on its own round and, for a grant examination, on the rounds that wait for the station. -/
theorem take (w : Work P False s t) (q : ∀ st j, j ∈ (t.station st).queue → P j) (x : Task) (p : onTask P x) :
    Work P False s (t.take x).1 ∧ ∀ y ∈ (t.take x).2, onTask P y := by
  cases x with
  | examine st => exact examine w q st
  | begin k => exact beginStep w p
  | fill k b => exact enterFill w p b
  | timing k => exact enterTiming w p
  | judge k => exact judgeStep w p
  | next k => exact afterStep w p
  | ending k res =>
    refine ⟨beginEnding w p res, fun x m => ?_⟩
    rcases List.mem_append.1 m with m | m
    · exact onTask_examineHeld _ x m
    · rw [List.mem_singleton.1 m]
      exact p
  | endingTail k => exact ⟨endingTail w p, by simp [State.take]⟩
  | fault k c x => exact reportFault w p c x
  | faultTail k c x => exact ⟨faultTail w p c x, by simp [State.take]⟩

theorem runTasks (n : Nat) : ∀ {s t : State} (ts : List Task), Work P False s t →
    (∀ st j, j ∈ (s.station st).queue → P j) → (∀ x ∈ ts, onTask P x) →
    Work P False s (State.runTasks n ts t).1 := by
  induction n with
  | zero => exact fun _ w _ _ => w
  | succ n ih =>
    intro s t ts w q p
    cases ts with
    | nil => exact w
    | cons x ts =>
      have one := take w (w.queuesIn q) x (p x (by simp))
      refine ih _ one.1 q fun y m => ?_
      rcases List.mem_append.1 m with m | m
      · exact one.2 y m
      · exact p y (by simp [m])

/-- A cascade is work on the rounds of its tasks and on the rounds that wait for a station. -/
theorem cascade (w : Work P False s t) (q : ∀ st j, j ∈ (s.station st).queue → P j) (ts : List Task)
    (p : ∀ x ∈ ts, onTask P x) : Work P False s (t.cascade ts) := runTasks _ ts w q p

/-- With every slot allowed, a cascade is work. -/
theorem anyCascade {s t : State} (w : Work (fun _ => True) False s t) (ts : List Task) :
    Work (fun _ => True) False s (t.cascade ts) :=
  cascade w (fun _ _ _ => trivial) ts fun x _ => by cases x <;> trivial

theorem returnFromHolding (w : Work P False s t) (q : ∀ st j, j ∈ (s.station st).queue → P j) (p : P k) :
    Work P False s (t.returnFromHolding k) := by
  unfold State.returnFromHolding
  split
  · exact enter (upd w p (fun _ => by exact ⟨rfl, rfl, rfl, rfl, rfl, fun _ => rfl⟩)) p _
  · exact cascade w q _ (by simpa [onTask] using p)
  · exact cascade w q _ (by simpa [onTask] using p)
  · exact enter (upd w p (fun _ => by exact ⟨rfl, rfl, rfl, rfl, rfl, fun _ => rfl⟩)) p _
  · exact w

theorem loseCause (w : Work P False s t) (q : ∀ st j, j ∈ (s.station st).queue → P j) (p : P k)
    (holds : HoldCauses → Bool) (f : HoldCauses → HoldCauses) : Work P False s (t.loseCause k holds f) := by
  unfold State.loseCause
  dsimp only
  split
  · split
    · exact returnFromHolding (upd w p (fun _ => by exact ⟨rfl, rfl, rfl, rfl, rfl, fun _ => rfl⟩)) q p
    · exact upd w p (fun _ => by exact ⟨rfl, rfl, rfl, rfl, rfl, fun _ => rfl⟩)
  · exact w

end Sys2Proof.Machine.Work
end

