-- ==== Sys2Proof/Laws/Cascade.lean ====
section
/-!
SUPPORT. The budget of a cascade is enough in every state: each task lowers a weight. Three equations follow that say
what a cascade is: nothing for no tasks, the first task and then its successors, and one list after another.
-/

namespace Sys2Proof.Machine

open Sys2Proof

/-- The part of the budget that stands in the state. -/
def State.mass (s : State) : Nat :=
  7 * (allSlots.map s.stepsLeft).sum + 8 * (allStations.map s.queueLength).sum

theorem State.taskBudget_eq (s : State) (ts : List Task) : s.taskBudget ts = tasksWeight ts + s.mass := by
  unfold State.taskBudget State.mass
  omega

namespace Cascade

variable {P : Slot → Prop} {s t : State} {k : Slot}

theorem stepsLeft_eq (hr : t.recipes = s.recipes) (hk : (t.round k).recipe = (s.round k).recipe)
    (h : (t.round k).step = (s.round k).step) : t.stepsLeft k = s.stepsLeft k := by
  unfold State.stepsLeft State.recipeOf
  rw [hr, hk, h]

/-- A quiet chain of work leaves the mass as it is. -/
theorem mass_quiet (w : Work P True s t) : t.mass = s.mass := by
  obtain ⟨h1, h2⟩ := w.quiet
  have hr : t.recipes = s.recipes := by rw [w.frame.1]
  unfold State.mass
  have e1 : t.stepsLeft = s.stepsLeft := funext fun j => stepsLeft_eq hr (w.rounds j).2.2.1 (h1 j)
  have e2 : t.queueLength = s.queueLength := funext fun j => by simp [State.queueLength, h2 j]
  rw [e1, e2]

theorem mass_noteSilent (s : State) (k : Slot) (nodes : List Octet) : (s.noteSilent k nodes).mass = s.mass :=
  mass_quiet (P := fun _ => True) (Work.noteSilent Work.rfl' trivial nodes)

theorem mem_allSlots (k : Slot) : k ∈ allSlots := by revert k; decide

theorem mem_allStations (st : StationId) : st ∈ allStations := by revert st; decide

/-- Queues that only lose slots do not raise the mass; one that loses one lowers it by eight. -/
theorem mass_shrinks (hs : ∀ j, t.stepsLeft j = s.stepsLeft j)
    (hq : ∀ st, t.queueLength st ≤ s.queueLength st) :
    t.mass ≤ s.mass ∧ ((∃ st, t.queueLength st < s.queueLength st) → t.mass + 8 ≤ s.mass) := by
  unfold State.mass
  rw [funext hs]
  have le := List.sum_le_sum (l := allStations) (f := t.queueLength) (g := s.queueLength) fun st _ => hq st
  refine ⟨by omega, fun ⟨st, h⟩ => ?_⟩
  have lt := List.sum_lt_sum (l := allStations) t.queueLength s.queueLength (fun st _ => hq st)
    ⟨st, mem_allStations st, h⟩
  omega

theorem leaveQueues_queue (s : State) (k : Slot) (st : StationId) :
    ((s.leaveQueues k).station st).queue = (s.station st).queue.filter (· != k) := by
  unfold State.leaveQueues allStations
  simp only [List.foldl_cons, List.foldl_nil, State.station_updRound]
  fin_cases st
  · simp [State.station_updStation_ne]
  · simp [State.station_updStation_ne]
  · simp [State.station_updStation_ne]

theorem leaveQueues_step (s : State) (k j : Slot) : (s.leaveQueues k).stepsLeft j = s.stepsLeft j := by
  have w := Work.leaveQueues (P := fun _ => True) (s := s) (k := k) Work.rfl' trivial
  refine stepsLeft_eq (by rw [w.frame.1]) (w.rounds j).2.2.1 ?_
  unfold State.leaveQueues
  by_cases e : j = k
  · subst e
    simp [allStations]
  · rw [State.round_updRound_ne _ _ e]
    rfl

theorem filter_length_lt {α : Type} [DecidableEq α] {x : α} {l : List α} (h : x ∈ l) :
    (l.filter (· != x)).length < l.length := by
  apply List.length_filter_lt_length_iff_exists.2
  exact ⟨x, h, by simp⟩

theorem mass_leaveQueues (s : State) (k : Slot) : (s.leaveQueues k).mass ≤ s.mass
    ∧ ((∃ st, k ∈ (s.station st).queue) → (s.leaveQueues k).mass + 8 ≤ s.mass) := by
  have h := mass_shrinks (t := s.leaveQueues k) (s := s) (leaveQueues_step s k) fun st => by
    simp only [State.queueLength, leaveQueues_queue]
    exact List.length_filter_le _ _
  refine ⟨h.1, fun ⟨st, m⟩ => h.2 ⟨st, ?_⟩⟩
  simp only [State.queueLength, leaveQueues_queue]
  exact filter_length_lt m

theorem mass_joinQueue (s : State) (k : Slot) (st : StationId) : (s.joinQueue k st).mass = s.mass + 8 := by
  have hs : (s.joinQueue k st).stepsLeft = s.stepsLeft := by
    funext j
    unfold State.stepsLeft State.recipeOf State.joinQueue
    by_cases e : j = k
    · subst e
      simp
    · simp [State.round_updRound_ne _ _ e]
  have hq : ∀ i, (s.joinQueue k st).queueLength i = if i = st then s.queueLength i + 1 else s.queueLength i := by
    intro i
    unfold State.queueLength State.joinQueue
    by_cases e : i = st
    · subst e
      simp
    · simp [State.station_updStation_ne _ _ e, e]
  unfold State.mass
  rw [hs]
  have : (allStations.map (s.joinQueue k st).queueLength).sum = (allStations.map s.queueLength).sum + 1 := by
    unfold allStations
    simp only [List.map_cons, List.map_nil, List.sum_cons, List.sum_nil, hq]
    fin_cases st <;> simp <;> omega
  omega

/-- A step index that advances to a step of the recipe lowers the mass by seven. -/
theorem mass_advance (s : State) (k : Slot) (f : Round → Round) (hr : ∀ r, (f r).recipe = r.recipe)
    (hs : ∀ r, (f r).step = r.step + 1) (lt : (s.round k).step < (s.recipeOf k).length) :
    (s.updRound k f).mass + 7 ≤ s.mass := by
  have other : ∀ j, (s.updRound k f).stepsLeft j ≤ s.stepsLeft j := by
    intro j
    unfold State.stepsLeft State.recipeOf
    by_cases e : j = k
    · subst e
      simp only [State.round_updRound, State.updRound_recipes, hr, hs]
      omega
    · simp [State.round_updRound_ne _ _ e]
  have this : (s.updRound k f).stepsLeft k < s.stepsLeft k := by
    unfold State.stepsLeft
    unfold State.recipeOf at lt ⊢
    simp only [State.round_updRound, State.updRound_recipes, hr, hs]
    omega
  have lt := List.sum_lt_sum (l := allSlots) (s.updRound k f).stepsLeft s.stepsLeft (fun j _ => other j)
    ⟨k, mem_allSlots k, this⟩
  have e : (s.updRound k f).queueLength = s.queueLength := rfl
  unfold State.mass
  rw [e]
  omega

theorem weight_examineHeld (held : Option StationId) (ts : List Task) :
    tasksWeight (examineHeld held ++ ts) ≤ 1 + tasksWeight ts := by
  cases held <;> simp [examineHeld, tasksWeight, Task.weight]

/-! ### Each task lowers the weight -/

variable (s)

theorem grant_lowers {st : StationId} (m : k ∈ (s.station st).queue) :
    tasksWeight (s.grant st k).2 + (s.grant st k).1.mass ≤ s.mass := by
  have h := (mass_leaveQueues s k).2 ⟨st, m⟩
  have base : Work (fun _ => True) True (s.leaveQueues k)
      (((s.leaveQueues k).updStation st fun x => { x with granted := some k, linked := false }).updRound k
        fun r => { r with held := some st, linked := false }) :=
    Work.upd (Work.grantStation Work.rfl' trivial st) trivial fun _ => ⟨rfl, rfl, rfl, rfl, rfl, fun _ => rfl⟩
  unfold State.grant
  dsimp only
  split
  · split
    · have e := mass_quiet (Work.takeOwnership (k := k) base st)
      simp only [tasksWeight, Task.weight, List.map_cons, List.map_nil, List.sum_cons, List.sum_nil]
      omega
    · have e := mass_quiet (Work.resolve (k := k) (Work.takeOwnership (k := k) base st) trivial st)
      dsimp only
      rw [mass_noteSilent]
      simp only [tasksWeight, Task.weight, List.map_cons, List.map_nil, List.sum_cons, List.sum_nil]
      omega
  · have e := mass_quiet base
    simp only [tasksWeight, Task.weight, List.map_cons, List.map_nil, List.sum_cons, List.sum_nil]
    omega

theorem judge_lowers : tasksWeight (s.judgeStep k).2 + (s.judgeStep k).1.mass < 6 + s.mass := by
  unfold State.judgeStep
  dsimp only
  split
  · rename_i complete
    have full : (s.stepOf k).isSome = true := by
      unfold State.stepComplete at complete
      simp only [Bool.and_eq_true] at complete
      exact complete.1.1.2
    have fin : Work (fun _ => True) True s (s.finishStep k) := Work.finishStep Work.rfl' trivial
    split
    · have lt : (s.round k).step < (s.recipeOf k).length := by
        unfold State.stepOf at full
        exact (List.getElem?_eq_some_iff.1 (Option.eq_some_of_isSome full)).1
      have advance : ∀ u, Work (fun _ => True) True s u → tasksWeight [.begin k]
          + (u.updRound k fun r => { r with linked := true, step := r.step + 1 }).mass < 6 + s.mass := by
        intro u base
        have lt' : (u.round k).step < (u.recipeOf k).length := by
          unfold State.recipeOf at lt ⊢
          rw [base.quiet.1 k, (base.rounds k).2.2.1, show u.recipes = s.recipes by rw [base.frame.1]]
          exact lt
        have h := mass_advance u k (fun r => { r with linked := true, step := r.step + 1 }) (fun _ => rfl)
          (fun _ => rfl) lt'
        have e := mass_quiet base
        simp only [tasksWeight, Task.weight, List.map_cons, List.map_nil, List.sum_cons, List.sum_nil]
        omega
      cases (s.round k).held with
      | none => exact advance _ fin
      | some st => exact advance _ (Work.linkStation fin st true)
    · have e := mass_quiet (Work.freeStation (k := k) fin trivial true)
      have h := weight_examineHeld (s.round k).held [.next k]
      simp only [tasksWeight, Task.weight, List.map_cons, List.map_nil, List.sum_cons, List.sum_nil] at h ⊢
      omega
  · simp [tasksWeight]

theorem take_lowers (x : Task) : tasksWeight (s.take x).2 + (s.take x).1.mass < x.weight + s.mass := by
  cases x with
  | examine st =>
    unfold State.take State.examine
    dsimp only
    split
    · simp [tasksWeight, Task.weight]
    · split
      · rename_i e
        have := grant_lowers s (Work.bestWaiting_mem e)
        simp only [Task.weight]
        omega
      · simp [tasksWeight, Task.weight]
  | begin k =>
    unfold State.take State.beginStep
    dsimp only
    have base : Work (fun _ => True) True s (s.resetStep k) := Work.resetStep Work.rfl' trivial
    split
    · rename_i st _ _
      have e := mass_quiet (Work.resolve (k := k) base trivial st)
      dsimp only
      rw [mass_noteSilent]
      simp only [tasksWeight, Task.weight, List.map_cons, List.map_nil, List.sum_cons, List.sum_nil]
      omega
    · have e := mass_quiet (Work.enter (k := k) base trivial .waitStation)
      split
      · dsimp only
        rw [mass_joinQueue]
        simp only [tasksWeight, Task.weight, List.map_cons, List.map_nil, List.sum_cons, List.sum_nil]
        omega
      · simp only [tasksWeight, Task.weight, List.map_nil, List.sum_nil]
        omega
  | fill k b =>
    have e := mass_quiet (Work.enterFill (P := fun _ => True) (Q := True) (s := s) (k := k) Work.rfl' trivial b).1
    have h : tasksWeight (s.enterFill k b).2 ≤ 7 := by
      unfold State.enterFill
      dsimp only
      repeat' split
      all_goals simp [tasksWeight, Task.weight]
    show tasksWeight (s.enterFill k b).2 + (s.enterFill k b).1.mass < 8 + s.mass
    omega
  | timing k =>
    have e := mass_quiet (Work.enterTiming (P := fun _ => True) (Q := True) (s := s) (k := k) Work.rfl' trivial).1
    have h : tasksWeight (s.enterTiming k).2 = 6 := rfl
    show tasksWeight (s.enterTiming k).2 + (s.enterTiming k).1.mass < 7 + s.mass
    omega
  | judge k => exact judge_lowers s
  | next k =>
    unfold State.take State.afterStep
    dsimp only
    split
    · rename_i e
      have lt : (s.round k).step < (s.recipeOf k).length := by
        unfold State.nextStep at e
        have := (List.getElem?_eq_some_iff.1 e).1
        omega
      have h := mass_advance s k (fun r => { r with step := r.step + 1 }) (fun _ => rfl) (fun _ => rfl) lt
      simp only [tasksWeight, Task.weight, List.map_cons, List.map_nil, List.sum_cons, List.sum_nil]
      omega
    · simp [tasksWeight, Task.weight]
  | ending k res =>
    have e := mass_quiet (Work.beginEnding (P := fun _ => True) (Q := True) (s := s) (k := k) Work.rfl' trivial res)
    have h := weight_examineHeld (s.round k).held [.endingTail k]
    show tasksWeight (examineHeld (s.round k).held ++ [.endingTail k]) + (s.beginEnding k res).mass < 3 + s.mass
    simp only [tasksWeight, Task.weight, List.map_cons, List.map_nil, List.sum_cons, List.sum_nil] at h ⊢
    omega
  | endingTail k =>
    have e := mass_quiet (Work.endingTail (P := fun _ => True) (Q := True) (s := s) (k := k) Work.rfl' trivial)
    show tasksWeight [] + (s.endingTail k).mass < 1 + s.mass
    simp only [tasksWeight, List.map_nil, List.sum_nil]
    omega
  | fault k c x =>
    show tasksWeight (s.reportFault k c x).2 + (s.reportFault k c x).1.mass < 3 + s.mass
    unfold State.reportFault
    dsimp only
    split
    · have base : Work (fun _ => True) True s (s.updRound k fun r =>
          { r with fault := some ⟨c, x, r.step, s.partTime⟩ }) :=
        Work.upd Work.rfl' trivial fun _ => ⟨rfl, rfl, rfl, rfl, rfl, fun _ => rfl⟩
      have h := (mass_leaveQueues (s.updRound k fun r => { r with fault := some ⟨c, x, r.step, s.partTime⟩ }) k).1
      have e := mass_quiet base
      have e' := mass_quiet (Work.freeStation (P := fun _ => True) (Q := True) (k := k)
        (s := (s.updRound k fun r => { r with fault := some ⟨c, x, r.step, s.partTime⟩ }).leaveQueues k)
        Work.rfl' trivial (c != .stationUnfit))
      have h' := weight_examineHeld (s.round k).held [.faultTail k c x]
      simp only [tasksWeight, Task.weight, List.map_cons, List.map_nil, List.sum_cons, List.sum_nil] at h' ⊢
      omega
    · simp [tasksWeight]
  | faultTail k c x =>
    have e := mass_quiet (Work.faultTail (P := fun _ => True) (Q := True) (s := s) (k := k) Work.rfl' trivial c x)
    show tasksWeight [] + (s.faultTail k c x).mass < 1 + s.mass
    simp only [tasksWeight, List.map_nil, List.sum_nil]
    omega

/-! ### The equations of a cascade -/

theorem tasksWeight_append (xs ys : List Task) : tasksWeight (xs ++ ys) = tasksWeight xs + tasksWeight ys := by
  simp [tasksWeight]

theorem tasksWeight_cons (x : Task) (ys : List Task) : tasksWeight (x :: ys) = x.weight + tasksWeight ys := by
  simp [tasksWeight]

/-- More fuel than the budget makes no difference. -/
theorem runTasks_fuel : ∀ (n m : Nat) (ts : List Task) (s : State), tasksWeight ts + s.mass ≤ n →
    tasksWeight ts + s.mass ≤ m → State.runTasks n ts s = State.runTasks m ts s := by
  have zero : ∀ (ts : List Task) (s : State), tasksWeight ts + s.mass = 0 → ts = [] := by
    intro ts s h
    cases ts with
    | nil => rfl
    | cons x ts =>
      have := take_lowers s x
      rw [tasksWeight_cons] at h
      omega
  intro n
  induction n with
  | zero =>
    intro m ts s h _
    have := zero ts s (by omega)
    subst this
    cases m <;> rfl
  | succ n ih =>
    intro m ts s hn hm
    cases ts with
    | nil => cases m <;> rfl
    | cons x ts =>
      have h := take_lowers s x
      rw [tasksWeight_cons] at hn hm
      cases m with
      | zero => omega
      | succ m =>
        show State.runTasks n ((s.take x).2 ++ ts) (s.take x).1 = State.runTasks m ((s.take x).2 ++ ts) (s.take x).1
        refine ih m _ _ ?_ ?_ <;> rw [tasksWeight_append] <;> omega

@[simp] theorem nil : s.cascade [] = s := by
  unfold State.cascade
  cases s.taskBudget [] <;> rfl

/-- A cascade takes its first task and goes on with the tasks that come in its place. -/
theorem cons (x : Task) (ts : List Task) :
    s.cascade (x :: ts) = (s.take x).1.cascade ((s.take x).2 ++ ts) := by
  unfold State.cascade
  have h := take_lowers s x
  rw [State.taskBudget_eq, State.taskBudget_eq]
  have e : tasksWeight (x :: ts) + s.mass = (tasksWeight (x :: ts) + s.mass - 1) + 1 := by
    rw [tasksWeight_cons]
    omega
  rw [e]
  show (State.runTasks _ ((s.take x).2 ++ ts) (s.take x).1).1 = _
  congr 1
  refine runTasks_fuel _ _ _ _ ?_ ?_
  · rw [tasksWeight_append, tasksWeight_cons]
    omega
  · exact Nat.le_refl _

/-- A cascade of two lists is one cascade after the other. -/
theorem append (ts us : List Task) : s.cascade (ts ++ us) = (s.cascade ts).cascade us := by
  suffices h : ∀ (n : Nat) (ts : List Task) (s : State), tasksWeight ts + s.mass ≤ n →
      s.cascade (ts ++ us) = (s.cascade ts).cascade us from h _ ts s (Nat.le_refl _)
  intro n
  induction n with
  | zero =>
    intro ts s h
    cases ts with
    | nil => simp
    | cons x ts =>
      have := take_lowers s x
      rw [tasksWeight_cons] at h
      omega
  | succ n ih =>
    intro ts s h
    cases ts with
    | nil => simp
    | cons x ts =>
      have := take_lowers s x
      rw [tasksWeight_cons] at h
      rw [List.cons_append, cons, cons, ← List.append_assoc]
      refine ih _ _ ?_
      rw [tasksWeight_append]
      omega

/-- A cascade of one task. -/
theorem one (x : Task) : s.cascade [x] = (s.take x).1.cascade (s.take x).2 := by
  rw [cons, List.append_nil]

end Cascade

end Sys2Proof.Machine
end

