-- ==== Sys2Proof/Laws/Claims.lean ====
section
/-!
SUPPORT. What the claim arbiter's operations can do, said once: `Claimed s t` says that `t` is `s` but for round records,
grant states, header states, actuator owners and commands, segment states, the route claim queue and the event queue, and
that sound headers stay sound. Every operation of chapter 3 is `Claimed`, the walk among them.
-/

namespace Sys2Proof.Machine

open Sys2Proof

/-! ### The two frames compose -/

theorem sequencerFrame_refl (s : State) : sequencerFrame s s := ⟨rfl, rfl, rfl, fun _ => rfl, fun _ => rfl⟩

theorem sequencerFrame_trans {s t u : State} (h : sequencerFrame s t) (g : sequencerFrame t u) :
    sequencerFrame s u := by
  obtain ⟨h1, h2, h3, h4, h5⟩ := h
  obtain ⟨g1, g2, g3, g4, g5⟩ := g
  exact ⟨by rw [g1, h1], g2.trans h2, g3.trans h3, fun st => (g4 st).trans (h4 st), fun x => (g5 x).trans (h5 x)⟩

/-- The work of the sequencer is within the arbiter's frame. -/
theorem arbiterFrame_of_sequencerFrame {s t : State} (h : sequencerFrame s t) : arbiterFrame s t := by
  obtain ⟨h1, h2, h3, h4, h5⟩ := h
  refine ⟨⟨?_, h2, h3, h4, h5⟩, by rw [h1]⟩
  rw [h1]

theorem arbiterFrame_trans {s t u : State} (h : arbiterFrame s t) (g : arbiterFrame t u) : arbiterFrame s u := by
  obtain ⟨⟨h1, h2, h3, h4, h5⟩, h6⟩ := h
  obtain ⟨⟨g1, g2, g3, g4, g5⟩, g6⟩ := g
  refine ⟨⟨?_, g2.trans h2, g3.trans h3, fun st => (g4 st).trans (h4 st), fun x => (g5 x).trans (h5 x)⟩, g6.trans h6⟩
  rw [g1, h1]

/-- Within the arbiter's frame, and sound headers stay sound. -/
structure Claimed (s t : State) : Prop where
  frame : arbiterFrame s t
  headers : s.headersSound → t.headersSound

namespace Claimed

variable {s t u : State} {k : Slot}

theorem rfl' : Claimed s s := ⟨arbiterFrame_of_sequencerFrame (sequencerFrame_refl s), id⟩

theorem trans (h : Claimed s t) (g : Claimed t u) : Claimed s u :=
  ⟨arbiterFrame_trans h.frame g.frame, g.headers ∘ h.headers⟩

/-- A chain of the sequencer's work is within the arbiter's frame. -/
theorem ofWork {P : Slot → Prop} {Q : Prop} (w : Work P Q s t) : Claimed s t :=
  ⟨arbiterFrame_of_sequencerFrame w.frame, w.headersSound⟩

theorem foldl {β : Type} {f : State → β → State} (h : ∀ s x, Claimed s (f s x)) (l : List β) :
    ∀ s, Claimed s (l.foldl f s) := by
  induction l with
  | nil => exact fun _ => rfl'
  | cons x l ih => exact fun s => (h s x).trans (ih _)

/-! ### The arbiter's own edits -/

theorem updRound (s : State) (k : Slot) (f : Round → Round) : Claimed s (s.updRound k f) :=
  ⟨arbiterFrame_of_sequencerFrame ⟨rfl, rfl, rfl, fun _ => rfl, fun _ => rfl⟩, id⟩

theorem claimQueue (s : State) (q : List Slot) : Claimed s { s with claimQueue := q } :=
  ⟨⟨⟨rfl, rfl, rfl, fun _ => rfl, fun _ => rfl⟩, rfl⟩, id⟩

theorem setSegState (s : State) (n : Nat) (st : SegmentState) : Claimed s (s.setSegState n st) := by
  refine ⟨⟨⟨rfl, rfl, rfl, fun _ => rfl, fun _ => rfl⟩, ?_⟩, id⟩
  exact Work.map_adjust_untouched n (fun e : SegmentEntry => { e with state := st })
    (fun e => { e with state := SegmentState.free }) (fun _ => rfl) s.segments

theorem setSegStates (s : State) (l : List Nat) (st : SegmentState) : Claimed s (s.setSegStates l st) :=
  foldl (fun s n => setSegState s n st) l s

theorem clearOwners (s : State) (k : Slot) : Claimed s (s.clearOwners k) := by
  refine ⟨arbiterFrame_of_sequencerFrame ⟨rfl, ?_, rfl, fun _ => rfl, fun _ => rfl⟩, id⟩
  unfold State.clearOwners Table.each
  rw [List.map_map]
  apply List.map_congr_left
  intro x _
  show (x.1, ValveEntry.untouched (if x.2.owner = some k then _ else _)) = (x.1, x.2.untouched)
  split <;> rfl

theorem ownValves (s : State) (o : Option Slot) (l : List Nat) :
    Claimed s (l.foldl (fun s n => s.ownValve o n) s) :=
  ofWork (Work.folded (P := fun _ => True) (Q := True) (fun _ _ n w => Work.ownValve w o n) l Work.rfl')

theorem enter (s : State) (k : Slot) (st : RoundState) : Claimed s (s.enter k st) :=
  ofWork (Work.enter (P := fun _ => True) (Q := True) Work.rfl' trivial st)

theorem noteSilent (s : State) (k : Slot) (nodes : List Octet) : Claimed s (s.noteSilent k nodes) :=
  ofWork (Work.noteSilent (P := fun _ => True) (Q := True) Work.rfl' trivial nodes)

theorem switch (s : State) (h : HeaderId) (x : Target) : Claimed s (s.switch h x) :=
  ofWork (Work.switch (P := fun _ => True) (Q := True) Work.rfl' h x)

/-! ### Grant, walk and start -/

theorem takeClaim (s : State) (k : Slot) (r : Route) : Claimed s (s.takeClaim k r) := by
  unfold State.takeClaim
  exact (((claimQueue s _).trans (setSegStates _ _ _)).trans (ownValves _ _ _)).trans (updRound _ _ _)

theorem grantClaim (s : State) (k : Slot) : Claimed s (s.grantClaim k) := by
  unfold State.grantClaim
  split
  · exact rfl'
  · rename_i r _
    have base : Claimed s ((s.takeClaim k r).commandValves r.positions) := (takeClaim s k r).trans
      (ofWork (Work.commandValves (P := fun _ => True) (Q := True) Work.rfl' _))
    dsimp only
    split
    · exact (base.trans (enter _ _ _)).trans (ofWork (Work.anyCascade Work.rfl' _))
    · split
      · exact (((base.trans (switch _ _ _)).trans (noteSilent _ k _)).trans (updRound _ k _)).trans (enter _ _ _)
      · exact (((base.trans (switch _ _ _)).trans (noteSilent _ k _)).trans (updRound _ k _)).trans
          (ofWork (Work.enterHolding (P := fun _ => True) (Q := True) Work.rfl' trivial _))

theorem walkFrom (l : List Slot) : ∀ (older : List Slot) (s : State), Claimed s (State.walkFrom l older s) := by
  induction l with
  | nil => exact fun _ _ => rfl'
  | cons k l ih =>
    intro older s
    unfold State.walkFrom
    split
    · exact (grantClaim s k).trans (ih _ _)
    · exact ih _ _

/-- The walk of the route claim queue. -/
theorem walk (s : State) : Claimed s s.walk := walkFrom _ _ s

theorem startRound (s : State) (k : Slot) (recipe route : Nat) (grade : RoundClass) :
    Claimed s (s.startRound k recipe route grade) := by
  unfold State.startRound
  exact ((((updRound s k _).trans (noteSilent _ k _)).trans (claimQueue _ _)).trans (enter _ _ _)).trans (walk _)

/-! ### Giving a claim up, and breach marking -/

theorem giveUpClaim (s : State) (k : Slot) (st : SegmentState) : Claimed s (s.giveUpClaim k st) := by
  have given : ∀ t : State, Claimed t (((match t.routeOf k with
      | some r => t.setSegStates r.segments st
      | none => t).clearOwners k).updRound k fun r => { r with header := none }) := by
    intro t
    split
    · exact ((setSegStates _ _ _).trans (clearOwners _ k)).trans (updRound _ _ _)
    · exact (clearOwners _ k).trans (updRound _ _ _)
  unfold State.giveUpClaim
  cases (s.round k).header with
  | none => exact given s
  | some h => exact (ofWork (Work.releaseHeader (P := fun _ => True) (Q := True) Work.rfl' h)).trans (given _)

theorem enterDone (s : State) (k : Slot) : Claimed s (s.enterDone k) := (updRound s k _).trans (enter _ _ _)

theorem finishRound (s : State) (k : Slot) : Claimed s (s.finishRound k) :=
  ((giveUpClaim s k _).trans (enterDone _ k)).trans (walk _)

theorem releaseBreach (s : State) (k : Slot) : Claimed s (s.releaseBreach k) :=
  ((giveUpClaim s k _).trans (updRound _ k _)).trans (enterDone _ k)

theorem abandonWait (s : State) (k : Slot) : Claimed s (s.abandonWait k) :=
  (((claimQueue s _).trans (walk _)).trans (updRound _ k _)).trans (enterDone _ k)

theorem markBreach (s : State) (n : Nat) : Claimed s (s.markBreach n) := by
  unfold State.markBreach
  split
  · exact (setSegState s n _).trans (walk _)
  · exact setSegState s n _
  · exact rfl'

/-- Whatever arrives at its owner (R61, R175, R176). -/
theorem arrive (s : State) (h : Handover) : Claimed s (s.arrive h) := by
  cases h with
  | marking n => exact markBreach s n
  | breach k n => exact ofWork (Work.anyCascade Work.rfl' _)
  | mismatch k n => exact ofWork (Work.anyCascade Work.rfl' _)

theorem arrivals (l : List Handover) (s : State) : Claimed s (l.foldl State.arrive s) := foldl arrive l s

/-- What leaves nothing on its way is within the arbiter's frame but for that. -/
theorem takeHanded (s : State) : Claimed { s with handed := [] } s.takeHanded := arrivals _ _

end Claimed

/-! ### What the scan hands over -/

/-- Nothing is on its way once everything has arrived. -/
@[simp] theorem takeHanded_handed (s : State) : s.takeHanded.handed = [] := by
  rw [(Claimed.takeHanded s).frame.1.1]

/-- The visit timer, which says when the scan searches next, stays. -/
@[simp] theorem takeHanded_visitTimer (s : State) : s.takeHanded.visitTimer = s.visitTimer := by
  rw [(Claimed.takeHanded s).frame.1.1]

/-- With nothing on its way nothing arrives. -/
theorem takeHanded_of_nil {s : State} (h : s.handed = []) : s.takeHanded = s := by
  unfold State.takeHanded
  rw [h]
  exact congrArg (fun l => { s with handed := l }) h.symm

@[simp] theorem takeHanded_takeHanded (s : State) : s.takeHanded.takeHanded = s.takeHanded :=
  takeHanded_of_nil (takeHanded_handed s)

/-- Whether it waits or not, what is handed over leaves the same state once everything has arrived. -/
theorem takeHanded_handOver (waits : Bool) (l : List Handover) (s : State) :
    (s.handOver waits l).takeHanded
      = { s with handed := s.handed ++ l, freeCount := s.freeCount + 1 }.takeHanded := by
  unfold State.handOver
  cases waits
  · exact takeHanded_takeHanded _
  · rfl

end Sys2Proof.Machine
end

