-- ==== Sys2Proof/Laws/FramePath.lean ====
section
/-!
SUPPORT. What the frame path's operations can do, said once. `Settled s t`: settling and rebuilding change the requested
and commanded positions and values of actuators, the override flags, and the event queue, and nothing else. A reply's
images change feedback, status, values and points; its deliveries, and what a link or node silence does to the rounds,
are work of the sequencer.
-/

namespace Sys2Proof.Machine

open Sys2Proof

/-- A valve entry without the fields a settled or rebuilt frame writes. -/
def ValveEntry.unsettledPart (v : ValveEntry) : ValveEntry :=
  { v with requested := none, commanded := none, changed := none }

/-- A drive entry without the fields a settled or rebuilt frame writes. -/
def DriveEntry.unsettledPart (d : DriveEntry) : DriveEntry := { d with requested := none, commanded := none }

/-- What settling and rebuilding command frames can do (R149 to R156). -/
structure Settled (s t : State) : Prop where
  fields : t = { s with
    valves := t.valves, drives := t.drives, rounds := t.rounds, events := t.events, overflow := t.overflow }
  rounds : ∀ k, t.round k = { s.round k with override := (t.round k).override }
  rises : ∀ k, (s.round k).override = true → (t.round k).override = true
  valves : t.valves.map (fun x => (x.1, x.2.unsettledPart)) = s.valves.map (fun x => (x.1, x.2.unsettledPart))
  drives : t.drives.map (fun x => (x.1, x.2.unsettledPart)) = s.drives.map (fun x => (x.1, x.2.unsettledPart))

namespace Settled

variable {s t u : State}

theorem rfl' : Settled s s := ⟨rfl, fun _ => rfl, fun _ h => h, rfl, rfl⟩

theorem trans (h : Settled s t) (g : Settled t u) : Settled s u := by
  refine ⟨by rw [g.fields, h.fields], fun k => ?_, fun k => g.rises k ∘ h.rises k, g.valves.trans h.valves,
    g.drives.trans h.drives⟩
  rw [g.rounds k, h.rounds k]

theorem updValve (s : State) (n : Nat) (f : ValveEntry → ValveEntry)
    (h : ∀ v, (f v).unsettledPart = v.unsettledPart) : Settled s (s.updValve n f) :=
  ⟨rfl, fun _ => rfl, fun _ h => h, Work.map_adjust_untouched n f _ h _, rfl⟩

theorem updDrive (s : State) (n : Nat) (f : DriveEntry → DriveEntry)
    (h : ∀ d, (f d).unsettledPart = d.unsettledPart) : Settled s (s.updDrive n f) :=
  ⟨rfl, fun _ => rfl, fun _ h => h, rfl, Work.map_adjust_untouched n f _ h _⟩

theorem offer (s : State) (e : Event) : Settled s (s.offer e) := by
  rw [State.offer_eq]
  exact ⟨rfl, fun _ => rfl, fun _ h => h, rfl, rfl⟩

theorem commandValve (s : State) (n : Nat) (p : Position) : Settled s (s.commandValve n p) := by
  refine updValve s n _ fun v => ?_
  unfold ValveEntry.command
  split <;> rfl

theorem commandDrive (s : State) (n c : Nat) : Settled s (s.commandDrive n c) := updDrive s n _ fun _ => rfl

theorem override (s : State) (k : Slot) (differs : Bool) (subject : Subject) (value : EventValue) :
    Settled s (s.override k differs subject value) := by
  unfold State.override
  split
  · refine Settled.trans (t := s.updRound k fun r => { r with override := true }) ⟨rfl, fun j => ?_, fun j h => ?_, rfl,
      rfl⟩ (offer _ _)
    · by_cases e : j = k
      · subst e
        simp
      · simp [State.round_updRound_ne _ _ e]
    · by_cases e : j = k
      · subst e
        simp
      · simpa [State.round_updRound_ne _ _ e] using h
  · exact rfl'

theorem storeRequest (s : State) (n : Nat) (p : Option Position) : Settled s (s.storeRequest n p) := by
  unfold State.storeRequest
  split
  · exact updValve s n _ fun _ => rfl
  · exact rfl'

theorem settleOwned (s : State) (n : Nat) (k : Slot) (out : Position) (p : Option Position) :
    Settled s (s.settleOwned n k out p) := by
  unfold State.settleOwned
  dsimp only
  split
  · exact (commandValve s n out).trans (override _ _ _ _ _)
  · exact commandValve s n out

theorem settleLocked (s : State) (n : Nat) (v : ValveEntry) (out : Position) (p : Option Position) :
    Settled s (s.settleLocked n v out p) := by
  unfold State.settleLocked State.block
  dsimp only
  split
  · split
    · exact (commandValve s n out).trans (offer _ _)
    · exact commandValve s n out
  · exact commandValve s n out

/-- Settling a valve. -/
theorem settleValve (s : State) (n : Nat) (p : Option Position) : Settled s (s.settleValve n p).1 := by
  unfold State.settleValve
  split
  · exact rfl'
  · dsimp only
    split
    · exact (storeRequest s n p).trans (settleOwned _ _ _ _ _)
    · split
      · exact (storeRequest s n p).trans (settleLocked _ _ _ _ _)
      · split
        · exact (storeRequest s n _).trans (commandValve _ _ _)
        · exact storeRequest s n none

theorem settleOwnedDrive (s : State) (n : Nat) (k : Slot) (out value : Option Nat) :
    Settled s (s.settleOwnedDrive n k out value) := by
  unfold State.settleOwnedDrive
  cases out <;> cases value
  · exact rfl'
  · exact override _ _ _ _ _
  · exact commandDrive _ _ _
  · exact (commandDrive _ _ _).trans (override _ _ _ _ _)

/-- Settling a drive. -/
theorem settleDrive (s : State) (n : Nat) (value : Option Nat) : Settled s (s.settleDrive n value).1 := by
  unfold State.settleDrive
  split
  · exact rfl'
  · rename_i d _
    cases value with
    | none =>
      dsimp only
      split
      · dsimp only
        exact settleOwnedDrive _ _ _ _ _
      · exact rfl'
    | some v =>
      have stored : Settled s (s.updDrive n fun d => { d with requested := some v }) := updDrive s n _ fun _ => rfl
      dsimp only
      split
      · dsimp only
        exact stored.trans (settleOwnedDrive _ _ _ _ _)
      · dsimp only
        split
        · exact stored.trans (commandDrive _ _ _)
        · exact (stored.trans (commandDrive _ _ _)).trans (offer _ _)

theorem settleValves (a : Octet) (l : List (Option Position)) : ∀ (slot : Nat) (s : State),
    Settled s (s.settleValves a slot l).1 := by
  induction l with
  | nil => exact fun _ _ => rfl'
  | cons p l ih =>
    intro slot s
    unfold State.settleValves
    dsimp only
    split
    · exact (settleValve s _ p).trans (ih _ _)
    · exact ih _ _

theorem settleDrives (a : Octet) (l : List (Option Nat)) : ∀ (channel : Nat) (s : State),
    Settled s (s.settleDrives a channel l).1 := by
  induction l with
  | nil => exact fun _ _ => rfl'
  | cons p l ih =>
    intro channel s
    unfold State.settleDrives
    dsimp only
    split
    · exact (settleDrive s _ p).trans (ih _ _)
    · exact ih _ _

theorem rebuildValves (a : Octet) (n : Nat) : ∀ (slot : Nat) (s : State),
    Settled s (s.rebuildValves a n slot).1 := by
  induction n with
  | zero => exact fun _ _ => rfl'
  | succ n ih =>
    intro slot s
    have one : Settled s (s.rebuildValve a slot).1 := by
      unfold State.rebuildValve
      split
      · exact rfl'
      · split
        · exact rfl'
        · exact commandValve _ _ _
    exact one.trans (ih _ _)

theorem rebuildDrives (a : Octet) (n : Nat) : ∀ (channel : Nat) (s : State),
    Settled s (s.rebuildDrives a n channel).1 := by
  induction n with
  | zero => exact fun _ _ => rfl'
  | succ n ih =>
    intro channel s
    have one : Settled s (s.rebuildDrive a channel).1 := by
      unfold State.rebuildDrive
      split
      · exact rfl'
      · split
        · exact commandDrive _ _ _
        · exact rfl'
    exact one.trans (ih _ _)

end Settled

/-! ### As many entries leave as arrived -/

theorem settleValves_length (a : Octet) (l : List (Option Position)) : ∀ (slot : Nat) (s : State),
    (s.settleValves a slot l).2.length = l.length := by
  induction l with
  | nil => exact fun _ _ => rfl
  | cons p l ih => exact fun slot s => congrArg (· + 1) (ih _ _)

theorem settleDrives_length (a : Octet) (l : List (Option Nat)) : ∀ (channel : Nat) (s : State),
    (s.settleDrives a channel l).2.length = l.length := by
  induction l with
  | nil => exact fun _ _ => rfl
  | cons p l ih => exact fun channel s => congrArg (· + 1) (ih _ _)

/-! ### Replies -/

/-- The images of a reply change valves, drives and points alone. -/
theorem writeReading_frame (s : State) (a : Octet) (r : Reading) : s.writeReading a r = { s with
    valves := (s.writeReading a r).valves, drives := (s.writeReading a r).drives
    points := (s.writeReading a r).points } := by
  have valves : ∀ (l : List Feedback) (slot : Nat) (s : State),
      s.writeValves a slot l = { s with valves := (s.writeValves a slot l).valves } := by
    intro l
    induction l with
    | nil => exact fun _ _ => rfl
    | cons x l ih =>
      intro slot s
      unfold State.writeValves
      dsimp only
      split
      · rw [ih]
        rfl
      · rw [ih]
  have drives : ∀ (l : List (DriveStatus × Nat)) (channel : Nat) (s : State),
      s.writeDrives a channel l = { s with drives := (s.writeDrives a channel l).drives } := by
    intro l
    induction l with
    | nil => exact fun _ _ => rfl
    | cons x l ih =>
      intro channel s
      unfold State.writeDrives
      dsimp only
      split
      · rw [ih]
        rfl
      · rw [ih]
  have points : ∀ (l : List (Nat × Quality × Nat)) (s : State),
      s.writePoints a l = { s with points := (s.writePoints a l).points } := by
    intro l
    induction l with
    | nil => exact fun _ => rfl
    | cons x l ih =>
      intro s
      unfold State.writePoints
      dsimp only
      split <;> rw [ih]
  cases r with
  | valves l =>
    show s.writeValves a 0 l = { s with valves := (s.writeValves a 0 l).valves, drives := (s.writeValves a 0 l).drives, points := (s.writeValves a 0 l).points }
    rw [valves]
  | drives l =>
    show s.writeDrives a 0 l = { s with valves := (s.writeDrives a 0 l).valves, drives := (s.writeDrives a 0 l).drives, points := (s.writeDrives a 0 l).points }
    rw [drives]
  | points l =>
    show s.writePoints a l = { s with valves := (s.writePoints a l).valves, drives := (s.writePoints a l).drives, points := (s.writePoints a l).points }
    rw [points]

/-- The causes that a part of the frame path takes from every round. -/
theorem loseCauses_work (s : State) (holds : HoldCauses → Bool) (f : HoldCauses → HoldCauses) :
    Work (fun _ => True) False s (allSlots.foldl (fun s k => s.loseCause k holds f) s) := by
  refine Work.foldl _ (fun s k => ?_) allSlots s
  exact Work.loseCause Work.rfl' (fun _ _ _ => trivial) trivial holds f

/-- The deliveries of a reply (R160). -/
theorem deliver_work (s : State) (a : Octet) (r : Reading) : Work (fun _ => True) False s (s.deliver a r) := by
  have setting : ∀ (s : State) (k : Slot), Work (fun _ => True) False s (s.deliverSetting k) := by
    intro s k
    unfold State.deliverSetting
    split
    · exact Work.anyCascade (Work.upd Work.rfl' trivial fun _ => by exact ⟨rfl, rfl, rfl, rfl, rfl, fun _ => rfl⟩) _
    · exact Work.rfl'
  have fault : ∀ (s : State) (k : Slot), Work (fun _ => True) False s (s.deliverFault a r k) := by
    intro s k
    unfold State.deliverFault
    split
    · split
      · exact Work.anyCascade Work.rfl' _
      · exact Work.rfl'
    · exact Work.rfl'
  have fill : ∀ (s : State) (k : Slot), Work (fun _ => True) False s (s.deliverFill a r k) := by
    intro s k
    unfold State.deliverFill
    split
    · exact Work.anyCascade Work.rfl' _
    · exact Work.rfl'
  have windows : ∀ (s : State) (k : Slot), Work (fun _ => True) False s (s.deliverWindows a r k) := by
    intro s k
    unfold State.deliverWindows
    split
    · exact Work.upd Work.rfl' trivial fun _ => by exact ⟨rfl, rfl, rfl, rfl, rfl, fun _ => rfl⟩
    · exact Work.rfl'
  have cond : ∀ (s : State) (h : HeaderId), Work (fun _ => True) False s (s.deliverCond a r h) := by
    intro s h
    unfold State.deliverCond
    split
    · exact Work.condSample Work.rfl' h _ _
    · exact Work.rfl'
  have drain : ∀ (s : State) (k : Slot), Work (fun _ => True) False s (s.deliverDrain a r k) := by
    intro s k
    unfold State.deliverDrain
    split
    · split
      · exact Work.upd Work.rfl' trivial fun _ => by exact ⟨rfl, rfl, rfl, rfl, rfl, fun _ => rfl⟩
      · exact Work.rfl'
    · exact Work.rfl'
  unfold State.deliver
  exact (((((Work.foldl _ setting _ _).trans (Work.foldl _ fault _ _)).trans (Work.foldl _ fill _ _)).trans
    (Work.foldl _ windows _ _)).trans (Work.foldl _ cond _ _)).trans (Work.foldl _ drain _ _)

/-- What a heard node does beside its own entry (R163). -/
theorem hearNode_work (s : State) (i : Nat) (e : NodeEntry) : Work (fun _ => True) False
    { s with nodes := Table.adjust i (fun x => { x with
        lastReply := some s.partTime, silent := false, silence := Timer.start s.config.nodeSilence.toNat }) s.nodes }
    (s.hearNode i e) := by
  unfold State.hearNode
  dsimp only
  split
  · split
    · exact (Work.offer _).trans (loseCauses_work _ _ _)
    · exact loseCauses_work _ _ _
  · exact Work.rfl'

/-! ### Forwarded positions and samples -/

/-- Between PRODUCT and CLAIMED only CLOSE and the lift toward the claimed side remain (R56). -/
theorem segregatedPosition_of_lift {s : State} {v : ValveEntry} {lift : Position} (h : s.liftToClaimed v = some lift)
    (p : Position) : s.segregatedPosition v p = .close ∨ s.segregatedPosition v p = lift := by
  unfold State.segregatedPosition
  rw [h]
  dsimp only
  split
  · exact Or.inr rfl
  · exact Or.inl rfl

/-- For any other valve a position remains as it is. -/
theorem segregatedPosition_of_none {s : State} {v : ValveEntry} (h : s.liftToClaimed v = none) (p : Position) :
    s.segregatedPosition v p = p := by
  unfold State.segregatedPosition
  rw [h]

/-- The image forwards the commanded position where there is one (R150, R156). -/
theorem imagePosition_of_some {v : ValveEntry} {p : Position} (h : v.commanded = some p) : v.imagePosition = p := by
  rw [ValveEntry.imagePosition, h, Option.getD_some]

/-- The image forwards CLOSE for the commanded position NONE (R150, R156). -/
theorem imagePosition_of_none {v : ValveEntry} (h : v.commanded = none) : v.imagePosition = .close := by
  rw [ValveEntry.imagePosition, h, Option.getD_none]

/-- What a settled locked valve is forwarded is within R56. -/
theorem lockedPosition_of_lift {s : State} {v : ValveEntry} {lift : Position} (h : s.liftToClaimed v = some lift)
    (n : Nat) : s.lockedPosition n v = .close ∨ s.lockedPosition n v = lift := by
  unfold State.lockedPosition
  split
  · exact segregatedPosition_of_lift h _
  · exact Or.inl rfl

/-- Taking samples keeps the number of criterion states. -/
@[simp] theorem takeSamples_length (s : State) (a : Octet) (r : Reading) (cs : List Criterion)
    (xs : List CriterionState) : (s.takeSamples a r cs xs).length = xs.length := by
  induction cs generalizing xs with
  | nil => cases xs <;> rfl
  | cons c cs ih => cases xs with
    | nil => rfl
    | cons x xs => exact congrArg (· + 1) (ih xs)

/-- A criterion's state after the samples of a reply (R119). -/
theorem takeSamples_getElem? {s : State} {a : Octet} {r : Reading} {cs : List Criterion} {xs : List CriterionState}
    {n : Nat} {c : Criterion} {x : CriterionState} (hc : cs[n]? = some c) (hx : xs[n]? = some x) :
    (s.takeSamples a r cs xs)[n]? = some (s.takeSample a r c x) := by
  induction cs generalizing xs n with
  | nil => cases hc
  | cons d cs ih => cases xs with
    | nil => cases hx
    | cons y xs => cases n with
      | zero => cases hc; cases hx; rfl
      | succ n => exact ih hc hx

/-! ### Silences -/

/-- A link that stays silent (R164): work of the sequencer after its own flag, time and timer. -/
theorem linkExpires_work (s : State) : Work (fun _ => True) False
    { s with linkSilent := true, linkExpiry := some s.partTime, linkTimer := s.linkTimer.stop } s.linkExpires := by
  unfold State.linkExpires
  refine Work.offered (Work.foldl _ (fun s k => ?_) allSlots _)
  exact Work.gainCause Work.rfl' trivial _

/-- A link that is heard again (R165): work of the sequencer after its own flag and timer. -/
theorem linkHeard_work (s : State) (h : s.linkSilent = true) : Work (fun _ => True) False
    (State.restartLink { s with linkSilent := false }) s.linkHeard := by
  unfold State.linkHeard
  rw [if_pos h]
  exact Work.offered (loseCauses_work _ _ _)

/-- A node that falls silent (R162): work of the sequencer after the flag, the images and the qualities. -/
theorem nodeExpires_work (s : State) (i : Nat) (a : Octet) :
    Work (fun _ => True) False (s.blankNode i a) (s.nodeExpires i a) := by
  unfold State.nodeExpires
  refine Work.offered ((Work.foldl _ (fun s k => ?_) allSlots _).trans (Work.foldl _ (fun s h => ?_) allHeaders _))
  · unfold State.holdFor
    split
    · exact Work.gainCause Work.rfl' trivial _
    · exact Work.rfl'
  · split
    · exact Work.condSilence Work.rfl' h
    · exact Work.rfl'

end Sys2Proof.Machine
end

