-- ==== Sys2Proof/Laws/PerInstr.lean ====
section
/-!
SUPPORT. Per command: a command that carries a management request (R183) is well-formed exactly when the request has
a form of R208.
-/

open Sys2Proof

/-- The command is well-formed exactly when the request it carries is. -/
def Sys2Proof.Laws.RequestForm.Statement (i : Instr) : Prop :=
  ∀ a r, i.request? = some (a, r) → i.wf = r.wf

theorem Sys2Proof.Laws.RequestForm.powerOn :
    Sys2Proof.Laws.RequestForm.Statement .powerOn := by
  intro a r h; cases h

theorem Sys2Proof.Laws.RequestForm.imageHeaderRead (octets : List Octet) :
    Sys2Proof.Laws.RequestForm.Statement (.imageHeaderRead octets) := by
  intro a r h; cases h

theorem Sys2Proof.Laws.RequestForm.imageFirstPassEnd (octets : List Octet) :
    Sys2Proof.Laws.RequestForm.Statement (.imageFirstPassEnd octets) := by
  intro a r h; cases h

theorem Sys2Proof.Laws.RequestForm.imageRecordApply (octets : List Octet) :
    Sys2Proof.Laws.RequestForm.Statement (.imageRecordApply octets) := by
  intro a r h; cases h

theorem Sys2Proof.Laws.RequestForm.frameArrivalU (octets : List Octet) :
    Sys2Proof.Laws.RequestForm.Statement (.frameArrivalU octets) := by
  intro a r h; cases h

theorem Sys2Proof.Laws.RequestForm.frameArrivalF (octets : List Octet) :
    Sys2Proof.Laws.RequestForm.Statement (.frameArrivalF octets) := by
  intro a r h; cases h

theorem Sys2Proof.Laws.RequestForm.linkSilenceExpiry :
    Sys2Proof.Laws.RequestForm.Statement .linkSilenceExpiry := by
  intro a r h; cases h

theorem Sys2Proof.Laws.RequestForm.nodeSilenceExpiry (node : NodeId) :
    Sys2Proof.Laws.RequestForm.Statement (.nodeSilenceExpiry node) := by
  intro a r h; cases h

theorem Sys2Proof.Laws.RequestForm.answerSent :
    Sys2Proof.Laws.RequestForm.Statement .answerSent := by
  intro a r h; cases h

theorem Sys2Proof.Laws.RequestForm.configWrite (ask : Ask) (record : ConfigRecord) :
    Sys2Proof.Laws.RequestForm.Statement (.configWrite ask record) := by
  intro a r h; cases h; rfl

theorem Sys2Proof.Laws.RequestForm.configRead (ask : Ask) :
    Sys2Proof.Laws.RequestForm.Statement (.configRead ask) := by
  intro a r h; cases h; rfl

theorem Sys2Proof.Laws.RequestForm.tableWrite (ask : Ask) (write : TableWrite) :
    Sys2Proof.Laws.RequestForm.Statement (.tableWrite ask write) := by
  intro a r h; cases h; rfl

theorem Sys2Proof.Laws.RequestForm.recipeFirstPart (ask : Ask) (index : Word16) (count : Octet) (steps : List StepFields) :
    Sys2Proof.Laws.RequestForm.Statement (.recipeFirstPart ask index count steps) := by
  intro a r h; cases h; rfl

theorem Sys2Proof.Laws.RequestForm.recipeSecondPart (ask : Ask) (index : Word16) (steps : List StepFields) :
    Sys2Proof.Laws.RequestForm.Statement (.recipeSecondPart ask index steps) := by
  intro a r h; cases h; rfl

theorem Sys2Proof.Laws.RequestForm.tableRead (ask : Ask) (table : Octet) (index : Word16) (part : Option Octet) :
    Sys2Proof.Laws.RequestForm.Statement (.tableRead ask table index part) := by
  intro a r h; cases h; rfl

theorem Sys2Proof.Laws.RequestForm.roundStart (ask : Ask) (slot recipe route cls : Octet) :
    Sys2Proof.Laws.RequestForm.Statement (.roundStart ask slot recipe route cls) := by
  intro a r h; cases h; rfl

theorem Sys2Proof.Laws.RequestForm.pause (ask : Ask) (slot : Octet) :
    Sys2Proof.Laws.RequestForm.Statement (.pause ask slot) := by
  intro a r h; cases h; rfl

theorem Sys2Proof.Laws.RequestForm.resume (ask : Ask) (slot : Octet) :
    Sys2Proof.Laws.RequestForm.Statement (.resume ask slot) := by
  intro a r h; cases h; rfl

theorem Sys2Proof.Laws.RequestForm.abort (ask : Ask) (slot : Octet) :
    Sys2Proof.Laws.RequestForm.Statement (.abort ask slot) := by
  intro a r h; cases h; rfl

theorem Sys2Proof.Laws.RequestForm.release (ask : Ask) (slot : Octet) :
    Sys2Proof.Laws.RequestForm.Statement (.release ask slot) := by
  intro a r h; cases h; rfl

theorem Sys2Proof.Laws.RequestForm.clear (ask : Ask) (slot : Octet) :
    Sys2Proof.Laws.RequestForm.Statement (.clear ask slot) := by
  intro a r h; cases h; rfl

theorem Sys2Proof.Laws.RequestForm.roundRead (ask : Ask) (slot : Octet) :
    Sys2Proof.Laws.RequestForm.Statement (.roundRead ask slot) := by
  intro a r h; cases h; rfl

theorem Sys2Proof.Laws.RequestForm.segmentMarkProduct (ask : Ask) (segment : Octet) :
    Sys2Proof.Laws.RequestForm.Statement (.segmentMarkProduct ask segment) := by
  intro a r h; cases h; rfl

theorem Sys2Proof.Laws.RequestForm.segmentMarkFree (ask : Ask) (segment : Octet) :
    Sys2Proof.Laws.RequestForm.Statement (.segmentMarkFree ask segment) := by
  intro a r h; cases h; rfl

theorem Sys2Proof.Laws.RequestForm.suspectClear (ask : Ask) (segment : Octet) :
    Sys2Proof.Laws.RequestForm.Statement (.suspectClear ask segment) := by
  intro a r h; cases h; rfl

theorem Sys2Proof.Laws.RequestForm.eventFetchTake (ask : Ask) (count : Octet) :
    Sys2Proof.Laws.RequestForm.Statement (.eventFetchTake ask count) := by
  intro a r h; cases h; rfl

theorem Sys2Proof.Laws.RequestForm.eventFetchRepeat (ask : Ask) (count : Octet) :
    Sys2Proof.Laws.RequestForm.Statement (.eventFetchRepeat ask count) := by
  intro a r h; cases h; rfl

theorem Sys2Proof.Laws.RequestForm.restart (ask : Ask) :
    Sys2Proof.Laws.RequestForm.Statement (.restart ask) := by
  intro a r h; cases h; rfl

theorem Sys2Proof.Laws.RequestForm.travelTimerExpiry (slot : Slot) :
    Sys2Proof.Laws.RequestForm.Statement (.travelTimerExpiry slot) := by
  intro a r h; cases h

theorem Sys2Proof.Laws.RequestForm.ageingTimerExpiry (slot : Slot) :
    Sys2Proof.Laws.RequestForm.Statement (.ageingTimerExpiry slot) := by
  intro a r h; cases h

theorem Sys2Proof.Laws.RequestForm.fillTimerExpiry (slot : Slot) :
    Sys2Proof.Laws.RequestForm.Statement (.fillTimerExpiry slot) := by
  intro a r h; cases h

theorem Sys2Proof.Laws.RequestForm.wallTimerExpiry (slot : Slot) :
    Sys2Proof.Laws.RequestForm.Statement (.wallTimerExpiry slot) := by
  intro a r h; cases h

theorem Sys2Proof.Laws.RequestForm.holdTimeReached (slot : Slot) :
    Sys2Proof.Laws.RequestForm.Statement (.holdTimeReached slot) := by
  intro a r h; cases h

theorem Sys2Proof.Laws.RequestForm.liftTimerExpiry (slot : Slot) :
    Sys2Proof.Laws.RequestForm.Statement (.liftTimerExpiry slot) := by
  intro a r h; cases h

theorem Sys2Proof.Laws.RequestForm.holdLimitExpiry (slot : Slot) :
    Sys2Proof.Laws.RequestForm.Statement (.holdLimitExpiry slot) := by
  intro a r h; cases h

theorem Sys2Proof.Laws.RequestForm.drainHoldElapse (slot : Slot) :
    Sys2Proof.Laws.RequestForm.Statement (.drainHoldElapse slot) := by
  intro a r h; cases h

theorem Sys2Proof.Laws.RequestForm.drainMaximumExpiry (slot : Slot) :
    Sys2Proof.Laws.RequestForm.Statement (.drainMaximumExpiry slot) := by
  intro a r h; cases h

theorem Sys2Proof.Laws.RequestForm.interfaceOutHoldElapse (header : HeaderId) :
    Sys2Proof.Laws.RequestForm.Statement (.interfaceOutHoldElapse header) := by
  intro a r h; cases h

theorem Sys2Proof.Laws.RequestForm.interfaceInHoldElapse (header : HeaderId) :
    Sys2Proof.Laws.RequestForm.Statement (.interfaceInHoldElapse header) := by
  intro a r h; cases h

theorem Sys2Proof.Laws.RequestForm.interfaceMaximumExpiry (header : HeaderId) :
    Sys2Proof.Laws.RequestForm.Statement (.interfaceMaximumExpiry header) := by
  intro a r h; cases h

theorem Sys2Proof.Laws.RequestForm.visitTimerExpiry :
    Sys2Proof.Laws.RequestForm.Statement .visitTimerExpiry := by
  intro a r h; cases h
end

