-- ==== Sys2Proof/Laws/Requests.lean ====
section
/-!
SUPPORT. What the arrival of a request does, said once: taken, it is its action on the opened state, then the answer and
the restarted link timer; turned away, it is the answer alone.
-/

namespace Sys2Proof.Machine

open Sys2Proof

/-- A taken request whose action leaves the link's flag alone (R182, R164). -/
theorem requestArrives_taken {s : State} (h : s.listens) (a : Ask) (act : Action)
    (hs : (act s.opened).1.linkSilent = false) :
    s.requestArrives a act = (act s.opened).1.closing a (act s.opened).2 := by
  unfold State.requestArrives State.takeRequest
  rw [if_neg (not_not.2 h.1), if_neg (by simp [h.2.1])]
  show State.linkHeard ((act s.opened).1.answer true a (act s.opened).2) = _
  unfold State.linkHeard
  rw [if_neg (by
    show ¬(act s.opened).1.linkSilent = true
    simp [hs])]
  rfl

/-- A request that arrives while the loader is in LOADING (R182, R199). -/
theorem requestArrives_loading {s : State} (h : s.loader ≠ .ready) (hl : s.linkSilent = false) (a : Ask)
    (act : Action) : s.requestArrives a act = s.turnedAway a .loading := by
  unfold State.requestArrives State.takeRequest
  rw [if_pos h]
  unfold State.linkHeard
  rw [if_neg (by
    show ¬s.linkSilent = true
    simp [hl])]
  rfl

/-- A request that arrives while the buffer is held (R182). -/
theorem requestArrives_busy {s : State} (h : s.loader = .ready) (hb : s.bufferHeld = true)
    (hl : s.linkSilent = false) (a : Ask) (act : Action) : s.requestArrives a act = s.turnedAway a .busy := by
  unfold State.requestArrives State.takeRequest
  rw [if_neg (not_not.2 h), if_pos hb]
  unfold State.linkHeard
  rw [if_neg (by
    show ¬s.linkSilent = true
    simp [hl])]
  rfl

end Sys2Proof.Machine
end

