-- ==== Sys2Proof/Tests/Slice0.lean ====
section
/-!
SUPPORT. Tests: an ill-formed term for each well-formedness check, words written out from the encodings of chapter
12, a small hall, and for every statement of Obligations.lean with hypotheses a state and operands that meet them,
clause by clause.
-/

namespace Sys2Proof.Tests

open Sys2Proof Sys2Proof.Machine

/-! ### Well-formedness: one ill-formed term for each check -/

def noCriterion : CriterionFields := ⟨0, 0, 0, 0, 0⟩

/-- A RINSE step on station 0 that keeps it: hold time 2 s, wall limit 10 s, one lift pulse of 0.5 s. -/
def rinseStep : StepFields :=
  ⟨0, 0, 1, 80, 0xFFFF, 30, 2, 10, 0, 1, 5, 0, noCriterion, noCriterion, noCriterion⟩

/-- A CAUSTIC step, RECIRCULATE, with one criterion: RETURN_TEMP at least 60.0, 2 of 3. -/
def causticStep : StepFields :=
  ⟨2, 3, 0, 90, 700, 30, 3, 20, 2, 0, 5, 1, ⟨1, 0, 600, 3, 2⟩, noCriterion, noCriterion⟩

def ask : Ask := ⟨0, 7⟩

theorem test_wf_route_lists :
    (Content.route ⟨List.replicate 256 0, [], [], [], 1, 1, 1⟩).wf = false
    ∧ (Content.route ⟨[], List.replicate 256 0, [], [], 1, 1, 1⟩).wf = false
    ∧ (Content.route ⟨[], [], List.replicate 256 0, [], 1, 1, 1⟩).wf = false
    ∧ (Content.route ⟨[], [], [], List.replicate 256 ⟨0, 0⟩, 1, 1, 1⟩).wf = false := by decide +kernel

theorem test_wf_route_payload :
    (Content.route ⟨List.replicate 225 0, [], [], [], 1, 1, 1⟩).wf = false
    ∧ (Content.route ⟨List.replicate 224 0, [], [], [], 1, 1, 1⟩).wf = true := by decide +kernel

theorem test_wf_recipe_payload :
    (Content.recipe (List.replicate 7 rinseStep)).wf = false
    ∧ (Content.recipe (List.replicate 6 rinseStep)).wf = true := by decide +kernel

theorem test_wf_requests :
    (Request.tableWrite (.unknown 9)).wf = false
    ∧ (Request.tableWrite (.full 0 (.recipe (List.replicate 7 rinseStep)))).wf = false
    ∧ (Request.recipeFirstPart 0 8 [rinseStep]).wf = false
    ∧ (Request.recipeSecondPart 0 (List.replicate 7 rinseStep)).wf = false
    ∧ (Request.tableRead 9 0 none).wf = false ∧ (Request.tableRead 8 0 (some 1)).wf = false := by decide +kernel

theorem test_wf_commands :
    (Instr.imageHeaderRead (List.replicate 6 0)).wf = false
    ∧ (Instr.recipeFirstPart ask 0 8 []).wf = false := by decide

theorem test_wf_first_pass (l : List Octet) (h : 65535 < l.length) : (Instr.imageFirstPassEnd l).wf = false := by
  simp only [Instr.wf, decide_eq_false_iff_not]; omega

theorem test_wf_record (l : List Octet) (h : 65535 < l.length) : (Instr.imageRecordApply l).wf = false := by
  simp only [Instr.wf, decide_eq_false_iff_not]; omega

/-! ### Encodings written out from chapter 12 -/

/-- R206: over the nine ASCII octets of the digits 1 to 9 the CRC is 4B37h. -/
theorem test_crc : crc [0x31, 0x32, 0x33, 0x34, 0x35, 0x36, 0x37, 0x38, 0x39] = 0x4B37 := by decide +kernel

/-- R208: ROUND_START of slot 2, recipe 3, route 4, class B. -/
theorem test_roundStart_octets :
    parseRequest [0x07, 0x05, 0x02, 0x03, 0x04, 0x01] = some (.roundStart 2 3 4 1) := by decide

/-- R208: TABLE_WRITE of valve 300 in full form, low octet of the index first. -/
theorem test_tableWrite_octets :
    parseRequest [0x07, 0x03, 0x03, 0x2C, 0x01, 0x01, 0x0A, 0x05, 0x01, 0x02, 0xFF]
      = some (.tableWrite (.full 300 (.valve ⟨10, 5, 1, 2, 0xFF⟩))) := by decide

/-- R208: a request of a wrong length is no request. -/
theorem test_short_request : parseRequest [0x07, 0x05, 0x02, 0x03, 0x04] = none := by decide

/-- R208: a BAD_CONTENT answer with check code DUPLICATE and subject 300. -/
theorem test_answer_octets :
    answerPayload 0x07 ⟨.badContent, some 2, some 300, []⟩ = [0x07, 0x06, 0x02, 0x2C, 0x01] := by decide

/-- R209: FAULT of round 3, TRAVEL_TIMEOUT at valve 300, in step 1. -/
theorem test_event_octets :
    eventOctets ⟨.fault, 0x01020304, some 3, some (.valve 300), none, some (.fault .travelTimeout),
      some (.number 1)⟩
      = [3, 4, 3, 2, 1, 27, 3, 1, 0x2C, 0x01, 0, 0, 0, 2, 1, 0, 0, 0] := by decide

/-- R207: a command to a valve cluster, and one out of form. -/
theorem test_cluster_octets :
    valveCommands (0x00 :: 0x01 :: 0x02 :: 0x03 :: 0x04 :: List.replicate 11 0)
      = some (none :: some .close :: some .open :: some .liftA :: some .liftB :: List.replicate 11 none)
    ∧ valveCommands (0x05 :: List.replicate 15 0) = none := by decide

/-! ### A small hall -/

/-- The writes that load the hall: a cluster, a drive node and an instrument head; two segments of a route and a
vessel beside it; the valves of a route, a station and a header; a route and a recipe of two steps. -/
def hallWrites : List TableWrite :=
  [ .full 0 (.nodeMap ⟨10, 0⟩), .full 1 (.nodeMap ⟨11, 1⟩), .full 2 (.nodeMap ⟨12, 2⟩)
  , .full 0 (.segment ⟨0, 0xFF, 0xFF⟩), .full 1 (.segment ⟨3, 0, 0xFF⟩), .full 2 (.segment ⟨1, 0xFF, 0xFF⟩)
  , .full 0 (.valve ⟨10, 0, 1, 0, 1⟩), .full 1 (.valve ⟨10, 1, 1, 1, 2⟩)
  , .full 2 (.valve ⟨10, 2, 0, 0xFF, 0⟩), .full 3 (.valve ⟨10, 3, 0, 0xFF, 0xFF⟩)
  , .full 4 (.valve ⟨10, 4, 0, 0xFF, 0xFF⟩), .full 5 (.valve ⟨10, 5, 0, 1, 0xFF⟩)
  , .full 6 (.valve ⟨10, 6, 0, 1, 0xFF⟩), .full 7 (.valve ⟨10, 7, 0, 1, 0xFF⟩)
  , .full 0 (.drive ⟨11, 0, 0, 0, 100⟩), .full 1 (.drive ⟨11, 1, 1, 0, 900⟩)
  , .full 0 (.point ⟨12, 0, 0⟩), .full 1 (.point ⟨12, 1, 1⟩), .full 2 (.point ⟨12, 2, 2⟩)
  , .full 0 (.station ⟨3, 0xFFFF, 4, 0xFFFF, 0xFFFF, 0xFFFF, 0, 1, 0xFF⟩)
  , .full 0 (.header ⟨1, 5, 6, 0xFFFF, 7, 0xFFFF, 0xFFFF, 0, 1, 2⟩)
  , .full 0 (.route ⟨[0, 1], [0x8000], [0x8001], [⟨0, 2⟩], 50, 1000, 60⟩)
  , .full 0 (.recipe [rinseStep, causticStep]) ]

/-- Make writes one after the other; none when one is refused. -/
def load : List TableWrite → State → Option State
  | [], s => some s
  | w :: t, s => if s.refuseWrite w = none then load t (s.applyWrite w) else none

def ready : State := { State.reset with loader := .ready }

def valve (slot : Nat) (kind : ValveKind) (a b : Option Nat) : ValveEntry :=
  ⟨10, slot, kind, a, b, none, none, none, .unknown, none, 0⟩

def stationLoad : StationLoad := ⟨some 3, none, some 4, none, none, none, 0, some 1, none⟩

def headerLoad : HeaderLoad := ⟨1, 5, some 6, none, some 7, none, none, some 0, some 1, 2⟩

def route : Route := ⟨[0, 1], [⟨0, true⟩], [⟨1, .b⟩], [⟨0, 2⟩], 50, 1000, 60⟩

def rinse : RecipeStep := ⟨.rinse, some 0, true, 80, none, 30, 2, 10, .drain, 1, 5, []⟩

def caustic : RecipeStep :=
  ⟨.caustic, none, false, 90, some 700, 30, 3, 20, .recirculate, 0, 5, [⟨.returnTemp, .atLeast, 600, 3, 2⟩]⟩

/-- The hall as the writes leave it, nodes silent, actuators unowned. -/
def hall : State :=
  { ready with
    nodes := [(0, ⟨10, .valveCluster, none, true, Timer.off⟩), (1, ⟨11, .drive, none, true, Timer.off⟩),
      (2, ⟨12, .instrument, none, true, Timer.off⟩)]
    segments := [(0, ⟨.line, none, none, .free⟩), (1, ⟨.ret, some 0, none, .free⟩),
      (2, ⟨.vessel, none, none, .free⟩)]
    valves := [(0, valve 0 .mixproof (some 0) (some 1)), (1, valve 1 .mixproof (some 1) (some 2)),
      (2, valve 2 .singleSeat none (some 0)), (3, valve 3 .singleSeat none none),
      (4, valve 4 .singleSeat none none), (5, valve 5 .singleSeat (some 1) none),
      (6, valve 6 .singleSeat (some 1) none), (7, valve 7 .singleSeat (some 1) none)]
    drives := [(0, ⟨11, 0, .pump, 0, 100, none, none, none, .unknown, none⟩),
      (1, ⟨11, 1, .heater, 0, 900, none, none, none, .unknown, none⟩)]
    points := [(0, ⟨12, 0, .cond, none, .none, none⟩), (1, ⟨12, 1, .temp, none, .none, none⟩),
      (2, ⟨12, 2, .flow, none, .none, none⟩)]
    stations := State.reset.stations.set 0 ⟨some stationLoad, none, false, []⟩
    headers := State.reset.headers.set 0 ⟨some headerLoad, .drain, none, .steady, Timer.off, Timer.off⟩
    routes := [(0, route)]
    recipes := [(0, [rinse, caustic])] }

/-- Every write of the hall is taken, and they leave the hall (R2, R9 to R30). -/
theorem test_hall_is_loaded : load hallWrites ready = some hall := by decide +kernel

/-- Round 0 of the recipe on the route is valid (R33 to R39). -/
theorem test_hall_round_is_valid : hall.invalid 0 0 = none := by decide +kernel

/-- The hall with its nodes heard at time 0. -/
def heard : State :=
  { hall with nodes :=
    [(0, ⟨10, .valveCluster, some 0, false, ⟨.running, 0, 300⟩⟩),
      (1, ⟨11, .drive, some 0, false, ⟨.running, 0, 300⟩⟩),
      (2, ⟨12, .instrument, some 0, false, ⟨.running, 0, 300⟩⟩)] }

def runs (limit : Nat) : Timer := ⟨.running, 0, limit⟩

def owned (o : Slot) (p : Position) (v : ValveEntry) : ValveEntry :=
  { v with owner := some o, commanded := some p, changed := some 0 }

/-- The hall under round 0, whose record is given: segments 0 and 1 CLAIMED, the setting, diverter and supply
valves and the drives owned, station 0 granted. -/
def washing (r : Round) : State :=
  { heard with
    segments := [(0, ⟨.line, none, none, .claimed 0⟩), (1, ⟨.ret, some 0, none, .claimed 0⟩),
      (2, ⟨.vessel, none, none, .free⟩)]
    valves := [(0, owned 0 .open (valve 0 .mixproof (some 0) (some 1))),
      (1, valve 1 .mixproof (some 1) (some 2)),
      (2, owned 0 .open (valve 2 .singleSeat none (some 0))), (3, owned 0 .open (valve 3 .singleSeat none none)),
      (4, owned 0 .close (valve 4 .singleSeat none none)),
      (5, owned 0 .open (valve 5 .singleSeat (some 1) none)),
      (6, owned 0 .close (valve 6 .singleSeat (some 1) none)),
      (7, owned 0 .close (valve 7 .singleSeat (some 1) none))]
    drives := [(0, ⟨11, 0, .pump, 0, 100, some 0, some 80, none, .running, none⟩),
      (1, ⟨11, 1, .heater, 0, 900, some 0, some 0, none, .stopped, none⟩)]
    stations := State.reset.stations.set 0 ⟨some stationLoad, some 0, false, []⟩
    rounds := State.reset.rounds.set 0 r }

/-- A record of round 0 in a state, holding station 0 and header 0, in step 0. -/
def record (st : RoundState) : Round :=
  { Round.idle with
    state := st, given := .b, effective := .b, startTime := some 0, wet := true, supplyBegun := true
    held := some 0, header := some 0 }

/-- Round 0 in STEP_TIMING of step 0 in a LIFTED phase. -/
def timing : Round :=
  { record .stepTiming with
    wall := ⟨.running, 0, 10000⟩, lift := .active 0 1 .lifted, liftTimer := ⟨.running, 0, 500⟩ }

/-- The state after a command. -/
def after (i : Instr) (s : State) : State :=
  match exec i s with
  | .next t => t
  | _ => s

/-! ### States and operands that meet the hypotheses: the step, power-on, the encodings and the image -/

theorem test_meets_StepTakesFront :
    ({ hall with pending := [.powerOn, .answerSent] } : State).pending = .powerOn :: [.answerSent] := rfl

theorem test_meets_IdleStepIsATick :
    State.reset.pending = [] ∧ State.reset.dueCommands = [] ∧ State.reset.handed = []
    ∧ ({ State.reset with handed := [.marking 2] } : State).handed ≠ []
    ∧ ({ State.reset with visitTimer := ⟨.running, 50, 50⟩ } : State).dueCommands ≠ [] := by decide +kernel

/-- An empty payload and a request; a length octet of 241 makes a frame bad. -/
theorem test_meets_GoodFramesAreSealedFields :
    readFrame (Frame.seal ⟨250, 0, 3, []⟩) = some ⟨250, 0, 3, []⟩
    ∧ readFrame [250, 0, 3, 6, 7, 5, 0, 0, 0, 1, 127, 134] = some ⟨250, 0, 3, [7, 5, 0, 0, 0, 1]⟩
    ∧ readFrame [250, 0, 3, 241, 7, 5, 0, 0, 0, 1, 127, 134] = none := by decide +kernel

theorem test_meets_RequestsReadBack :
    (Request.tableWrite (.full 23 (.recipe (List.replicate 6 rinseStep)))).wf = true
    ∧ (Request.recipeFirstPart 0 12 (List.replicate 6 rinseStep)).wf = true
    ∧ (Request.tableWrite (.unknown 10)).wf = true ∧ (Request.tableRead 9 0 (some 1)).wf = true
    ∧ (Request.tableRead 8 0 none).wf = true := by decide +kernel

/-- The frame arrives in two pieces. -/
theorem test_meets_RequestFrameIsItsCommand :
    let i := Instr.roundStart ask 0 0 0 1
    let s := { ready with rxU := [250, 0, 3] }
    i.request? = some (ask, .roundStart 0 0 0 1) ∧ i.wf = true
    ∧ s.rxU ++ [6, 7, 5, 0, 0, 0, 1, 127, 134]
      = (requestFrame s.config.ownAddress ask (.roundStart 0 0 0 1)).seal := by decide +kernel

/-- The bounds of every range pass; a mask that names FAULT does not, nor does one beyond the twenty kinds, nor an
own address of 239. -/
theorem test_meets_ConfigRecordJudgement :
    configFailure defaultConfig = none
    ∧ configFailure ⟨240, 100, 50, 25, 1, 1, 1, 1, 1, 1, 1, 0, 1, 1, 0⟩ = none
    ∧ configFailure ⟨254, 5000, 5000, 200, 600, 3600, 3600, 20000, 20000, 600, 3600, 60000, 600, 3600, 0x3FDFB⟩
      = none
    ∧ configFailure { defaultConfig with eventMask := 4 } = some ⟨.unmaskable, 3⟩
    ∧ configFailure { defaultConfig with eventMask := 0x100000 } = some ⟨.range, 15⟩
    ∧ configFailure { defaultConfig with ownAddress := 239 } = some ⟨.range, 1⟩ := by decide +kernel

theorem test_meets_ImageHeaderAndFirstPass :
    State.reset.loader = .awaitHeader ∧ State.reset.config.eventMask = 0
    ∧ ([0xA5, 0, 0, 0xFF] : List Octet).length < 5
    ∧ ({ State.reset with loader := .firstPass 1 0x40BF } : State).loader = .firstPass 1 0x40BF
    ∧ ([] : List Octet).length < 1 ∧ crc [0] = 0x40BF ∧ crc [1] ≠ 0x40BF
    ∧ ([0] : List Octet).length = 1 ∧ crc [] = 0xFFFF := by decide +kernel

/-- One node map record of six octets: applied, last, refused for its address, longer than the area, and read in
part. -/
theorem test_meets_ImageRecordApply :
    let s := { State.reset with loader := .secondPass 6 0 0 }
    let r := ImageRecord.table (.full 0 (.nodeMap ⟨10, 0⟩))
    r.wf = true ∧ (recordOctets r).length = 6
    ∧ (s.refuseWrite (.full 0 (.nodeMap ⟨10, 0⟩))).isSome = false
    ∧ (s.refuseWrite (.full 0 (.nodeMap ⟨0, 0⟩))).isSome = true
    ∧ (s.refuseConfig defaultConfig).isSome = false
    ∧ 0 + 6 < 7 ∧ 0 + 6 = 6 ∧ 5 < 0 + 6
    ∧ [1, 0, 0, 1, 10] <+: recordOctets r ∧ ([1, 0, 0, 1, 10] : List Octet).length < 6 := by decide +kernel

/-! ### The frame path -/

def toCluster (payload : List Octet) : Frame := ⟨10, 0, kindCmd, payload⟩

theorem test_washing_canonical (r : Round) : (washing r).tablesCanonical := by
  show (washing Round.idle).tablesCanonical
  unfold State.tablesCanonical tableFits distinctBy
  decide +kernel

theorem test_hall_canonical : hall.tablesCanonical := by
  unfold State.tablesCanonical tableFits distinctBy
  decide +kernel

/-- A bad frame; a reply on U; a command to no mapped node, to an instrument, and two of wrong form to nodes with
nothing to guard; and on F a frame that is no reply of a mapped node. -/
theorem test_meets_FramesForwardedUnchanged :
    readFrame (hall.rxU ++ [10, 0, 1]) = none ∧ hall.needsGuarding 10 = false
    ∧ readFrame (hall.rxU ++ (Frame.mk 10 0 kindRsp []).seal) = some ⟨10, 0, kindRsp, []⟩
    ∧ readFrame (hall.rxU ++ (toCluster [9]).seal) = some (toCluster [9])
    ∧ (10 : Octet) ≠ hall.config.ownAddress ∧ hall.linkSilent = false ∧ hall.kindAt 13 = none
    ∧ hall.kindAt 12 = some .instrument ∧ hall.kindAt 10 = some .valveCluster ∧ valveCommands [9] = none
    ∧ hall.kindAt 11 = some .drive ∧ hall.needsGuarding 11 = false ∧ driveCommands [9] = none
    ∧ (readFrame (hall.rxF ++ (Frame.mk 0 13 kindRsp []).seal)).bind hall.tapped = none := by decide +kernel

/-- Round 1 in the same phase, with the vessel claimed too: two rounds lift valve 1. -/
def twoLift : State :=
  { washing timing with
    segments := [(0, ⟨.line, none, none, .claimed 0⟩), (1, ⟨.ret, some 0, none, .claimed 0⟩),
      (2, ⟨.vessel, none, none, .claimed 1⟩)]
    rounds := (State.reset.rounds.set 0 timing).set 1 timing }

/-- Slot 0 carries an owned valve asked CLOSE where OPEN is commanded; slot 1 the boundary valve, locked, lifted by no
round, by one, and by two; slot 9 is untracked; in the hall at rest slot 1 is unowned and unlocked. -/
theorem test_meets_ClusterFrameSettled :
    let f := toCluster (0x01 :: 0x02 :: List.replicate 14 0)
    (∀ s ∈ [hall, washing timing, washing (record .stepFill), twoLift],
      readFrame (s.rxU ++ f.seal) = some f ∧ f.dest ≠ s.config.ownAddress ∧ f.kind = kindCmd
      ∧ s.kindAt f.dest = some .valveCluster ∧ s.linkSilent = false ∧ s.valveAt 10 9 = none
      ∧ s.valveAt 10 0 = some 0 ∧ s.valveAt 10 1 = some 1)
    ∧ valveCommands f.payload = some (some .close :: some .open :: List.replicate 14 none)
    ∧ ((Table.entry (washing timing).valves 0).any fun v => v.owner == some 0 && v.commanded == some .open) = true
    ∧ ((Table.entry hall.valves 1).any fun v => v.owner == none && !hall.locked v) = true
    ∧ (washing timing).locked (valve 1 .mixproof (some 1) (some 2)) = true
    ∧ (washing timing).claimSlots (valve 1 .mixproof (some 1) (some 2)) = [0]
    ∧ (washing timing).lifting 0 1 = some .liftA
    ∧ (washing (record .stepFill)).lifting 0 1 = none
    ∧ twoLift.claimSlots (valve 1 .mixproof (some 1) (some 2)) = [0, 1]
    ∧ twoLift.lifting 1 1 = some .liftA := by decide +kernel

theorem test_washing_bounded (r : Round) : (washing r).bounded := by
  show (washing Round.idle).bounded
  unfold State.bounded
  decide +kernel

/-- Channel 0 carries an owned pump commanded 80 and asked 101; in the hall at rest it is clamped to 100; channel 3
is untracked. -/
theorem test_meets_DriveFrameSettled :
    let f : Frame := ⟨11, 0, kindCmd, [101, 0, 0xFF, 0xFF, 0xFF, 0xFF, 0, 0]⟩
    (∀ s ∈ [hall, washing timing],
      readFrame (s.rxU ++ f.seal) = some f ∧ f.dest ≠ s.config.ownAddress ∧ f.kind = kindCmd
      ∧ s.kindAt f.dest = some .drive ∧ s.linkSilent = false ∧ s.driveAt 11 3 = none
      ∧ s.driveAt 11 0 = some 0)
    ∧ driveCommands f.payload = some [some 101, none, none, some 0]
    ∧ ((Table.entry (washing timing).drives 0).any fun d => d.owner == some 0 && d.commanded == some 80) = true
    ∧ ((Table.entry hall.drives 0).any fun d => d.owner == none && d.maximum == 100) = true := by decide +kernel

theorem test_meets_NodesThatNeedGuarding :
    (washing timing).needsGuarding 10 = true ∧ (washing timing).needsGuarding 11 = true
    ∧ (washing timing).needsGuarding 12 = false ∧ hall.needsGuarding 10 = false
    ∧ hall.rxU = [] ∧ readFrame [10, 0, 1] = none := by decide +kernel

/-- Bad frames to the cluster and the drive node, and good commands of wrong form to them. -/
theorem test_meets_BadFrameRebuilt :
    (∀ dest ∈ ([10, 11] : List Octet),
      (washing timing).rxU ++ [dest, 0, 1] = dest :: [0, 1] ∧ readFrame (dest :: [0, 1]) = none
      ∧ (washing timing).needsGuarding dest = true ∧ dest ≠ (washing timing).config.ownAddress
      ∧ (washing timing).rxU ++ (Frame.mk dest 0 kindCmd [9]).seal = dest :: (Frame.mk dest 0 kindCmd [9]).seal.tail
      ∧ readFrame (Frame.mk dest 0 kindCmd [9]).seal = some ⟨dest, 0, kindCmd, [9]⟩)
    ∧ valveCommands [9] = none ∧ driveCommands [9] = none ∧ (washing timing).linkSilent = false
    ∧ (washing timing).kindAt 10 = some .valveCluster ∧ (washing timing).kindAt 11 = some .drive := by
  decide +kernel

/-- Valve 1, left OPEN by the supervisor before milk stood beside the claimed segment. -/
def leftOpen : State :=
  ((washing timing).setSegState 2 .product).updValve 1 fun v => { v with commanded := some .open }

/-- R156, log 35: the rebuilt frame carries the image as it stands, OPEN for it and for the owned valve 0; the next
frame that is settled carries CLOSE for it (R151). -/
theorem test_meets_BadFrameRebuilt_left_open :
    (Table.entry leftOpen.valves 1).any (fun v => v.owner == none && v.sideA == some 1 && v.sideB == some 2) = true
    ∧ leftOpen.segState 1 = .claimed 0 ∧ leftOpen.segState 2 = .product
    ∧ (after (.frameArrivalU [10, 0, 1]) leftOpen).txF.map (fun l => (l.getD 4 0, l.getD 5 0)) = [(0x02, 0x02)]
    ∧ (Table.entry (after (.frameArrivalU [10, 0, 1]) leftOpen).valves 1).map (·.commanded) = some (some .open)
    ∧ let still := leftOpen.updRound 0 fun r => { r with lift := .done }
      (after (.frameArrivalU (toCluster (0 :: 0x02 :: List.replicate 14 0)).seal) still).txF.map (·.getD 5 0) = [0x01] := by
  decide +kernel

/-- Segment 2 holds milk beside the claimed segment 1, and valve 1 between them is written with its sides exchanged. -/
def exchanged : State :=
  ((washing timing).setSegState 2 .product).updValve 1 fun v => { v with sideA := some 2, sideB := some 1 }

/-- Log 35: a settled frame carries the lift toward the claimed side, CLOSE for a lift by a label that the exchanged
sides contradict (R56), and the commanded position of an owned valve (R150). -/
theorem test_meets_ClusterFrameSettled_segregated :
    let sends := fun (s : State) =>
      (after (.frameArrivalU (toCluster (0 :: 0x02 :: List.replicate 14 0)).seal) s).txF.map (·.getD 5 0)
    let owned := leftOpen.updValve 1 fun v => { v with owner := some 0 }
    sends ((washing timing).setSegState 2 .product) = [0x03]
    ∧ (Table.entry exchanged.valves 1).bind exchanged.liftToClaimed = some .liftB
    ∧ exchanged.lifting 0 1 = some .liftA ∧ sends exchanged = [0x01]
    ∧ (Table.entry owned.valves 1).map (fun v => (v.commanded, owned.liftToClaimed v)) = some (some .open, some .liftA)
    ∧ sends owned = [0x02] := by decide +kernel

/-- A reply of each kind: positions, drive states with a value above 100, and samples at and above 1500. -/
theorem test_meets_ReplyTapped :
    let valves : List Octet := List.replicate 16 0x02
    let drives : List Octet := [1, 101, 0, 2, 0, 0, 2, 0, 0, 2, 0, 0]
    let points : List Octet := [1, 1, 0xDC, 0x05, 0, 1, 0x21, 0x4E]
    (∀ x ∈ ([(10, valves), (11, drives), (12, points)] : List (Octet × List Octet)),
      readFrame (hall.rxF ++ (Frame.mk 0 x.1 kindRsp x.2).seal) = some ⟨0, x.1, kindRsp, x.2⟩)
    ∧ (hall.tapped ⟨0, 10, kindRsp, valves⟩).map (·.2.2) = some (.valves (List.replicate 16 .open))
    ∧ (hall.tapped ⟨0, 11, kindRsp, drives⟩).map (·.2.2)
      = some (.drives [(.running, 101), (.stopped, 0), (.stopped, 0), (.stopped, 0)])
    ∧ (hall.tapped ⟨0, 12, kindRsp, points⟩).map (·.2.2)
      = some (.points [(1, .good, 1500), (0, .good, 20001)])
    ∧ hall.valveAt 10 7 = some 7 ∧ hall.driveAt 11 0 = some 0 ∧ hall.pointAt 12 1 = some 1 := by decide +kernel

/-- Round 0 held for the silent cluster alone, with a resume state. -/
def nodeHeld (res : ResumeState) : State :=
  { washing { timing with
      state := .holding, causes := ⟨false, [10]⟩, resume := some res, lift := .active 0 1 .closed } with
    nodes := [(0, ⟨10, .valveCluster, some 0, true, Timer.off⟩), (1, ⟨11, .drive, some 0, false, runs 300⟩),
      (2, ⟨12, .instrument, some 0, false, runs 300⟩)] }

/-- A reply of the silent cluster: no round held for it alone, and one, in each resume state. -/
theorem test_meets_ReplyTapped_back :
    (∀ k, ¬((hall.round k).state = .holding ∧ (10 : Octet) ∈ (hall.round k).causes.nodes))
    ∧ (hall.nodeAt 10).any (·.silent) = true
    ∧ ∀ res ∈ [ResumeState.setting, .stepFill, .stepTiming, .ending],
      ((nodeHeld res).tapped ⟨0, 10, kindRsp, List.replicate 16 0x02⟩).any (fun x => x.2.1.silent) = true
      ∧ ((nodeHeld res).round 0).state = .holding ∧ ((nodeHeld res).round 0).causes.link = false
      ∧ ((nodeHeld res).round 0).causes.nodes = [10] ∧ ((nodeHeld res).round 0).resume = some res
      ∧ (∀ j, ((nodeHeld res).round j).state = .holding → j = 0) ∧ ((nodeHeld res).round 0).lift ≠ .done
      ∧ ((nodeHeld res).round 0).held = some 0 := by decide +kernel

/-- Round 0 in SETTING, its first step at a station granted to another round. -/
def settling : State :=
  { washing { record .setting with held := none, supplyBegun := false, wet := false } with
    stations := State.reset.stations.set 0 ⟨some stationLoad, some 5, false, []⟩ }

/-- A frame of a reply from a node. -/
def replyFrom (node : Octet) (payload : List Octet) : List Octet := (Frame.mk 0 node kindRsp payload).seal

/-- A cluster's reply that settles SETTING, valve 0 OPEN and valve 1 CLOSED, and one that does not. -/
theorem test_meets_ReplyTapped_setting :
    let settled := after (.frameArrivalF (replyFrom 10 (0x02 :: List.replicate 15 0x01))) settling
    let moving := after (.frameArrivalF (replyFrom 10 (List.replicate 16 0x01))) settling
    settled.showsSettled route ∧ ¬moving.showsSettled route
    ∧ (settling.round 0).state = .setting ∧ (∀ st, (0 : Slot) ∉ (settling.station st).queue)
    ∧ (∀ j, j ≠ 0 → (settling.round j).state ≠ .setting) ∧ (settling.round 0).linked = false
    ∧ settling.routeOf 0 = some route ∧ settling.stepOf 0 = some rinse ∧ rinse.choice = some 0
    ∧ (settling.station 0).granted ≠ none ∧ rinse.pulses ≠ 0 ∧ route.boundary[0]? = some ⟨1, .b⟩
    ∧ (Table.entry settling.valves 1).any (·.kind == .mixproof) = true
    ∧ (settled.round 0).state = .waitStation ∧ (settled.station 0).queue = [0] := by
  unfold State.showsSettled
  decide +kernel

/-- Round 0 in a state of its second step, with a criterion on point 1. -/
def second (st : RoundState) : State :=
  washing { record st with step := 1, fill := runs 30000, criteria := [⟨some 1, [true]⟩] }

/-- Samples of the flow point (1500 l/h, 100 l/h) and of the temperature point. -/
def flowAndTemp : List Octet := [2, 1, 0xDC, 0x05, 1, 1, 0x58, 0x02]

def lowFlow : List Octet := [2, 1, 0x64, 0x00]

def tempOnly : List Octet := [1, 1, 0x58, 0x02]

/-- What the three payloads read as, and that the instrument head is not silent. -/
theorem test_meets_samples :
    ∀ x ∈ ([(flowAndTemp, [(2, .good, 1500), (1, .good, 600)]), (lowFlow, [(2, .good, 100)]),
        (tempOnly, [(1, .good, 600)])] : List (List Octet × List (Nat × Quality × Nat))),
      ((second .stepFill).tapped ⟨0, 12, kindRsp, x.1⟩).map (fun y => (y.2.1.silent, y.2.2))
        = some (false, .points x.2) := by decide +kernel

/-- A sample that completes the fill, with one of the criterion's point beside it; the windows take it at once. -/
theorem test_meets_ReplyTapped_fill :
    let t := after (.frameArrivalF (replyFrom 12 flowAndTemp)) (second .stepFill)
    ((second .stepFill).round 0).state = .stepFill ∧ (∀ st, (0 : Slot) ∉ ((second .stepFill).station st).queue)
    ∧ (second .stepFill).routeOf 0 = some route ∧ (second .stepFill).fillPoint 0 = some 2
    ∧ (Table.entry t.points 2).map (fun p => (p.node, p.channel, p.quality, p.value)) = some (12, 2, .good, some 1500)
    ∧ (second .stepFill).stepOf 0 = some caustic ∧ ¬1000 * caustic.holdTime ≤ ((second .stepFill).round 0).holdAcc
    ∧ (t.round 0).state = .stepTiming ∧ (t.round 0).criteria = [⟨some 1, [true]⟩] := by decide +kernel

/-- A sample below the minimum, and none of the fill point: the round stays as it is. -/
theorem test_meets_ReplyTapped_no_fill :
    ∀ payload ∈ [lowFlow, tempOnly],
      (after (.frameArrivalF (replyFrom 12 payload)) (second .stepFill)).round 0 = (second .stepFill).round 0 := by
  decide +kernel

def linkRuns (s : State) : State := { s with linkTimer := ⟨.running, 0, 500⟩ }

theorem test_meets_LinkSilenceExpiry :
    hall.linkTimer.mode ≠ .running ∧ (linkRuns (washing timing)).linkTimer.mode = .running
    ∧ ((washing timing).round 0).state.records = true
    ∧ ((washing timing).round 0).state.held = some .stepTiming
    ∧ ((washing timing).round 1).state.records = false ∧ ((washing timing).round 1).state.held = none := by
  decide +kernel

/-- Round 0 held for the link alone, to resume SETTING or ENDING. -/
def linkHeld (res : ResumeState) : State :=
  { washing { record .holding with causes := ⟨true, []⟩, resume := some res } with
    linkSilent := true, linkExpiry := some 0, partTime := 700 }

theorem test_meets_LinkBack :
    ∀ res ∈ [ResumeState.setting, .ending],
      (linkHeld res).loader = .ready ∧ (linkHeld res).bufferHeld = false ∧ (linkHeld res).linkSilent = true
      ∧ (linkHeld res).linkExpiry = some 0
      ∧ (∀ k, ((linkHeld res).round k).state = .holding → ((linkHeld res).round k).causes = ⟨true, []⟩ →
        ((linkHeld res).round k).resume = some .setting ∨ ((linkHeld res).round k).resume = some .ending)
      ∧ ((linkHeld res).round 0).state = .holding ∧ ((linkHeld res).round 0).causes = ⟨true, []⟩
      ∧ ((linkHeld res).round 0).resume = some res := by decide +kernel

/-- Round 0 is the one round held, in each resume state; its hold time is not reached. -/
theorem test_meets_LinkBack_one :
    ∀ res ∈ [ResumeState.setting, .stepFill, .stepTiming, .ending],
      ((linkHeld res).round 0).state = .holding ∧ ((linkHeld res).round 0).causes = ⟨true, []⟩
      ∧ (∀ j, ((linkHeld res).round j).state = .holding → j = 0) ∧ ((linkHeld res).round 0).resume = some res
      ∧ ¬(linkHeld res).holdTime 0 ≤ ((linkHeld res).round 0).holdAcc
      ∧ ((linkHeld res).round 0).held = some 0 ∧ (linkHeld res).stepOf 0 = some rinse := by decide +kernel

/-- In STEP_FILL with the supply not yet begun, and an AIR step. -/
theorem test_meets_LinkBack_fill :
    let s := linkHeld .stepFill
    let air := { s with recipes := [(0, [{ rinse with medium := .air }])] }
    ((s.updRound 0 fun r => { r with supplyBegun := false }).round 0).supplyBegun = false
    ∧ (s.station 0).load = some stationLoad
    ∧ air.stepOf 0 = some { rinse with medium := .air } ∧ ¬air.holdTime 0 ≤ (air.round 0).holdAcc := by decide +kernel

/-- Round 0 depends on the cluster, in a held state and in one that is not; round 1 does not; header 0 has an
interface running and its conductivity point on the instrument head. -/
theorem test_meets_NodeSilenceExpiry :
    (Table.entry (washing timing).nodes 0).any (fun e => e.silence.mode == .running) = true
    ∧ (10 : Octet) ∈ (washing timing).dependencies 0 ∧ (10 : Octet) ∉ (washing timing).dependencies 1
    ∧ (10 : Octet) ∈ (washing (record .paused)).dependencies 0
    ∧ (record .paused).state.held = none ∧ timing.state.held = some .stepTiming
    ∧ (washing timing).condOn 12 0 = true
    ∧ ((washing timing).updHeader 0 fun x => { x with interface := .interfaceIn }).condOn 12 0 = true := by
  decide +kernel

theorem test_meets_AnswerSent :
    ∃ reply, ({ hall with txU := [.relayed [1], .answer true 0 250 7 reply] } : State).txU
        = [[1]].map SentU.relayed ++ .answer true 0 250 7 reply :: []
      ∧ ({ hall with txU := [.relayed [1]] } : State).txU = [[1]].map SentU.relayed :=
  ⟨Reply.ok, rfl, rfl⟩

/-! ### Management requests: configuration and tables -/

theorem test_hall_listens : hall.listens := ⟨rfl, rfl, rfl⟩

theorem test_washing_listens (r : Round) : (washing r).listens := ⟨rfl, rfl, rfl⟩

theorem test_meets_BusyAndLoading :
    (Instr.configRead ask).request? = some (ask, .configRead) ∧ State.reset.loader ≠ .ready
    ∧ State.reset.linkSilent = false ∧ ready.loader = .ready
    ∧ ({ ready with bufferHeld := true } : State).bufferHeld = true := by decide +kernel

/-- Another own address, taken in the hall at rest and refused while round 0 runs. -/
theorem test_meets_ConfigRequests :
    let c := { defaultConfig with ownAddress := 251 }
    configFailure defaultConfig = none ∧ defaultConfig.ownAddress = hall.config.ownAddress
    ∧ configFailure c = none ∧ c.ownAddress ≠ hall.config.ownAddress ∧ (∀ k, hall.active k = false)
    ∧ configFailure { defaultConfig with visitPeriod := 26 } = some ⟨.range, 4⟩
    ∧ (washing timing).active 0 = true ∧ ∀ j : Slot, j < 0 → (washing timing).active j = false := by
  decide +kernel

def staged : State := { hall with staging := some ⟨0, 8, List.replicate 6 rinseStep⟩ }

/-- Writes that walk the queue and writes that do not, one of them of the staged recipe. -/
theorem test_meets_TableWriteTaken :
    hall.refuseWrite (.full 3 (.segment ⟨0, 0xFF, 0xFF⟩)) = none
    ∧ hall.refuseWrite (.empty .header 0) = none
    ∧ hall.refuseWrite (.full 127 (.point ⟨12, 7, 0⟩)) = none
    ∧ staged.refuseWrite (.full 0 (.recipe [rinseStep])) = none
    ∧ staged.staging.map (·.index) = some (0 : Word16).toNat := by decide +kernel

/-- A write over every kind of entry, keeping its identity, and one that changes it. -/
theorem test_meets_WrittenEntry :
    (∀ w ∈ hallWrites, hall.refuseWrite w = none ∨ w = .full 0 (.recipe [rinseStep, causticStep]))
    ∧ hall.refuseWrite (.full 0 (.recipe [rinseStep, causticStep])) = none
    ∧ hall.refuseWrite (.full 7 (.valve ⟨10, 15, 1, 1, 0xFF⟩)) = none
    ∧ hall.refuseWrite (.full 2 (.point ⟨12, 7, 2⟩)) = none
    ∧ hall.refuseWrite (.full 1 (.drive ⟨11, 3, 1, 0, 950⟩)) = none
    ∧ hall.refuseWrite (.full 2 (.nodeMap ⟨13, 2⟩)) ≠ none
    ∧ hall.refuseWrite (.full 63 (.nodeMap ⟨239, 2⟩)) = none
    ∧ hall.refuseWrite (.empty .route 0) = none := by decide +kernel

/-- Each ground for a refusal: no table, an index at the bound, and what each table refuses while round 0 runs; a
content that fails. -/
theorem test_meets_TableWriteRefused :
    TableId.size .segment ≤ (192 : Word16).toNat ∧ (191 : Word16).toNat < TableId.size .segment
    ∧ (washing timing).active 0 = true ∧ (washing timing).segState 0 ≠ .free
    ∧ ((Table.entry (washing timing).valves 3).any (·.owner.isSome)) = true
    ∧ ((Table.entry (washing timing).valves 1).any fun v => v.owner.isNone && v.sideA == some 1) = true
    ∧ ((washing timing).station 0).granted ≠ none ∧ stationLoad.pump = 0 ∧ stationLoad.heater = some 1
    ∧ (washing timing).segState headerLoad.segment = .claimed 0
    ∧ ((washing timing).round 0).route = 0 ∧ ((washing timing).round 0).recipe = 0
    ∧ hall.inUse .valve 7 (some (.valve ⟨10, 7, 0, 3, 0xFF⟩)) = none
    ∧ firstFailure (hall.contentChecks 7 (.valve ⟨10, 7, 0, 3, 0xFF⟩)) = some ⟨.noSegment, 3⟩
    ∧ firstFailure (hall.emptyChecks .segment 0) = some ⟨.usedByValve, 0⟩ := by decide +kernel

/-- The points of round 0's header, and the supply temperature point of its station; a medium valve that is owned,
and one beside a claimed segment. -/
theorem test_meets_TableWriteRefused_points :
    let s := (washing timing).updStation 0 fun x => { x with load := some { stationLoad with temp := some 1 } }
    (washing timing).active 0 = true ∧ ((washing timing).round 0).state ≠ .waitRoute
    ∧ (washing timing).routeOf 0 = some route ∧ (washing timing).routeHeader route = some 0
    ∧ ((washing timing).header 0).load = some headerLoad ∧ headerLoad.cond = some 0 ∧ headerLoad.temp = some 1
    ∧ headerLoad.flow = 2 ∧ route.stations = [⟨0, 2⟩]
    ∧ (s.station 0).load = some { stationLoad with temp := some 1 }
    ∧ (Table.entry (washing timing).valves 3).any (·.owner.isSome) = true
    ∧ (Table.entry (washing timing).valves 1).any (fun v => v.owner.isNone && v.sideA == some 1) = true
    ∧ (washing timing).segState 1 ≠ .free ∧ (3 : Word16) ≠ 0xFFFF := by decide +kernel

theorem test_meets_RecipeParts :
    (0 : Word16).toNat < 24 ∧ 24 ≤ (24 : Word16).toNat ∧ (List.replicate 6 rinseStep).length = 6
    ∧ (∀ k, hall.active k = true → (hall.round k).recipe ≠ 0)
    ∧ firstFailure (stepsContentChecks 0 (List.replicate 6 rinseStep)) = none
    ∧ (washing timing).active 0 = true ∧ ((washing timing).round 0).recipe = 0
    ∧ hall.staging = none ∧ staged.staging = some ⟨0, 8, List.replicate 6 rinseStep⟩
    ∧ 8 - 6 = [rinseStep, causticStep].length
    ∧ staged.refuseWrite (.full 0 (.recipe (List.replicate 6 rinseStep ++ [rinseStep, causticStep]))) = none
    ∧ (staged.refuseWrite (.full 0 (.recipe (List.replicate 6 rinseStep ++ [rinseStep, { rinseStep with medium := 6 }])))
      ).isSome = true := by decide +kernel

theorem test_meets_TableRead :
    (63 : Word16).toNat < TableId.size .nodeMap ∧ TableId.size .nodeMap ≤ (64 : Word16).toNat
    ∧ Table.entry hall.recipes 0 = some [rinse, caustic] ∧ Table.entry hall.recipes 23 = none
    ∧ tableOfCode 0 = none ∧ tableOfCode 10 = none ∧ (3 : Octet) ≠ 1 ∧ (3 : Octet) ≠ 2 := by decide +kernel

/-! ### Management requests: rounds -/

/-- The hall with milk in segment 1: the route is not claimable. -/
def milk : State := heard.setSegState 1 .product

/-- A round in an IDLE slot of the hall: not claimable, claimable with no node silent, claimable with the cluster
silent. -/
theorem test_meets_RoundStart :
    (∀ s ∈ [hall, heard, milk], (s.round 15).state = .idle ∧ s.invalid 0 0 = none
      ∧ Table.entry s.routes 0 = some route ∧ s.claimQueue = [] ∧ s.routeHeader route = some 0
      ∧ (s.header 0).load = some headerLoad)
    ∧ RoundClass.ofCode 2 = some .c
    ∧ milk.claimable route = false ∧ heard.claimable route = true ∧ hall.claimable route = true
    ∧ (route.setting.map (·.valve)).Nodup
    ∧ (∀ x ∈ ([10, 11, 12] : List Octet), heard.nodeSilent x = false)
    ∧ hall.valveNode 0 = some 10 ∧ hall.nodeSilent 10 = true := by decide +kernel

theorem test_meets_RoundStart_idle : (hall.round 15).asAtPowerOn := by
  unfold Round.asAtPowerOn
  decide +kernel

/-- Indexes at their bounds; a class of 3; a slot in use; an empty route, an empty recipe, a check that fails. -/
theorem test_meets_RoundStartRefused :
    16 ≤ (16 : Octet).toNat ∧ 24 ≤ (24 : Octet).toNat ∧ 48 ≤ (48 : Octet).toNat ∧ 2 < (3 : Octet).toNat
    ∧ ((washing timing).round 0).state ≠ .idle ∧ (hall.round 0).state = .idle
    ∧ Table.entry hall.routes 47 = none ∧ Table.entry hall.recipes 23 = none
    ∧ Table.entry hall.routes 0 = some route ∧ Table.entry hall.recipes 0 = some [rinse, caustic]
    ∧ let s := { hall with recipes := [(0, [rinse, { caustic with disposition := .recover, medium := .acid }])] }
      (s.routeChecks route ++ s.recipeChecks route 0 [rinse, { caustic with disposition := .recover, medium := .acid }]
        ).findSome? id = some ⟨14, 101⟩ := by decide +kernel

theorem test_meets_Pause :
    (∀ r ∈ [timing, record .stepFill],
      ((washing r).round 0).held = some 0 ∧ ((washing r).station 0).load = some stationLoad
      ∧ (washing r).stepOf 0 = some rinse ∧ (washing r).routeOf 0 = some route)
    ∧ (timing.state = .stepTiming ∧ timing.lift = .active 0 1 .lifted ∧ 0 < route.boundary.length)
    ∧ (record .stepFill).lift = .done := by decide +kernel

/-- A PAUSED round with causes, with none in a RINSE step, and with none in an AIR step. -/
theorem test_meets_Resume :
    let r := { record .paused with resume := some .stepFill, lift := .active 0 1 .closed }
    let air := { washing r with recipes := [(0, [{ rinse with medium := .air }])] }
    ((washing { r with causes := ⟨true, []⟩ }).round 0).causes ≠ ⟨false, []⟩
    ∧ ((washing r).round 0).causes = ⟨false, []⟩ ∧ ((washing r).round 0).held = some 0
    ∧ ((washing r).station 0).load = some stationLoad ∧ (washing r).stepOf 0 = some rinse
    ∧ ((washing r).round 0).supplyBegun = true ∧ rinse.medium ≠ .air
    ∧ (air.stepOf 0).map (·.medium) = some .air ∧ ¬(air.holdTime 0 ≤ (air.round 0).holdAcc)
    ∧ stationLoad.valveFor .rinse = some 3 ∧ stationLoad.heater = some 1
    ∧ (washing r).entryValveOf 0 0 = some 2 ∧ 2 ∉ stationLoad.mediumValves := by decide +kernel

/-- Round 0 waiting alone for its route. -/
def waiting : State :=
  { heard with rounds := heard.rounds.set 0 { Round.idle with state := .waitRoute }, claimQueue := [0] }

theorem test_meets_Abort :
    (record .ending).state = .ending
    ∧ ({ record .holding with resume := some ResumeState.ending } : Round).resume = some .ending
    ∧ (waiting.round 0).state = .waitRoute ∧ waiting.claimQueue = [0]
    ∧ (∀ r ∈ [record .setting, record .waitStation, record .stepFill, timing, record .paused, record .holding],
      (∀ st, (0 : Slot) ∈ ((washing r).station st).queue → ((washing r).round 0).state = .waitStation)
      ∧ ((washing r).round 0).resume ≠ some .ending
      ∧ ((washing r).round 0).held = some 0 ∧ ((washing r).station 0).load = some stationLoad
      ∧ ((washing r).station 0).queue = [])
    ∧ ((Table.entry (washing timing).drives 0).any (·.owner == some 0)) = true
    ∧ 3 ∈ stationLoad.mediumValves ∧ ((Table.entry (washing timing).valves 3).any (·.owner == some 0)) = true
    ∧ timing.header = some 0 ∧ ((washing timing).header 0).load = some headerLoad ∧ 3 ∉ headerLoad.diverters := by
  decide +kernel

def faulted (cause : FaultCause) : Round :=
  { record .faulted with held := none, fault := some ⟨cause, none, 0, 5⟩ }

theorem test_meets_Release :
    ∀ cause ∈ [FaultCause.segregationBreach, .holdTooLong],
      ((washing (faulted cause)).round 0).state = .faulted
      ∧ ((washing (faulted cause)).round 0).fault = some ⟨cause, none, 0, 5⟩
      ∧ (washing (faulted cause)).routeOf 0 = some route
      ∧ ((washing (faulted cause)).round 0).held = none
      ∧ ((washing (faulted cause)).round 0).header = some 0 := by decide +kernel

theorem test_meets_ClearReturnsTheSlot :
    (15 : Octet).toNat = (15 : Slot).val ∧ ((washing (record .done)).round 0).state = .done
    ∧ ((washing timing).round 0).state ≠ .done := by decide +kernel

theorem test_meets_RoundControlRefused :
    16 ≤ (16 : Octet).toNat ∧ (15 : Octet).toNat = (15 : Slot).val
    ∧ (hall.round 15).state ≠ .stepFill ∧ (hall.round 15).state ≠ .stepTiming ∧ (hall.round 15).state ≠ .paused
    ∧ (hall.round 15).state = .idle ∧ (hall.round 15).state ≠ .faulted ∧ (hall.round 15).state ≠ .done := by
  decide +kernel

theorem test_meets_RoundRead : 16 ≤ (16 : Octet).toNat ∧ (15 : Octet).toNat = (15 : Slot).val := by decide

/-- Milk marked in the vessel beside a claimed segment: barred by a SINGLE_SEAT valve, free to mark behind the
MIXPROOF boundary valve. -/
theorem test_meets_MarkProduct :
    (washing timing).listens
    ∧ Table.entry (washing timing).segments 2 = some ⟨.vessel, none, none, .free⟩
    ∧ (∀ x ∈ (washing timing).valves, x.2.sideA ≠ some 2
      ∧ (x.2.sideB = some 2 → x.2.kind ≠ .singleSeat ∧ x.2.owner = none))
    ∧ Table.entry (washing timing).segments 191 = none
    ∧ Table.entry (washing timing).segments 0 = some ⟨.line, none, none, .claimed 0⟩
    ∧ Table.entry milk.segments 1 = some ⟨.ret, some 0, none, .product⟩
    ∧ (hall.setSegState 1 (.suspect .restart)).segState 1 = .suspect .restart
    ∧ (let s := (washing timing).updValve 1 fun v => { v with kind := .singleSeat }
      (Table.entry s.valves 1).any (fun v => v.sideB == some 2 && v.kind == .singleSeat) = true
        ∧ s.segState 1 = .claimed 0) := by
  refine ⟨⟨rfl, rfl, rfl⟩, ?_⟩
  decide +kernel

theorem test_meets_MarkFree :
    (191 : Octet).toNat < 192 ∧ Table.entry hall.segments 191 = none
    ∧ Table.entry milk.segments 1 = some ⟨.ret, some 0, none, .product⟩
    ∧ Table.entry hall.segments 1 = some ⟨.ret, some 0, none, .free⟩
    ∧ Table.entry (washing timing).segments 1 = some ⟨.ret, some 0, none, .claimed 0⟩
    ∧ (hall.setSegState 1 (.suspect .breach)).segState 1 = .suspect .breach := by decide +kernel

theorem test_meets_SuspectClear :
    192 ≤ (192 : Octet).toNat ∧ Table.entry hall.segments 191 = none ∧ (191 : Octet).toNat < 192
    ∧ (∀ c ∈ [SuspectCause.breach, .restart], Table.entry (hall.setSegState 1 (.suspect c)).segments 1
      = some ⟨.ret, some 0, none, .suspect c⟩)
    ∧ Table.entry hall.segments 1 = some ⟨.ret, some 0, none, .free⟩ := by decide +kernel

theorem test_meets_EventFetch :
    1 ≤ (1 : Octet).toNat ∧ (8 : Octet).toNat ≤ 8 ∧ 8 < (9 : Octet).toNat ∧ (0 : Octet).toNat = 0
    ∧ ready.lastFetch = none ∧ ({ ready with lastFetch := some ⟨[], true⟩ } : State).lastFetch = some ⟨[], true⟩ := by
  decide +kernel

/-- Refused while round 0 runs; taken with a FAULTED round and with a DONE one. -/
theorem test_meets_Restart :
    ((washing timing).round 0).state ≠ .idle ∧ ((washing timing).round 0).state ≠ .done
    ∧ ((washing timing).round 0).state ≠ .faulted ∧ (∀ j : Slot, ¬j < 0)
    ∧ (∀ r ∈ [faulted .holdTooLong, record .done], ∀ k : Slot,
      ((washing r).round k).state = .idle ∨ ((washing r).round k).state = .done
        ∨ ((washing r).round k).state = .faulted) := by decide +kernel

/-! ### The timers -/

theorem test_washing_unqueued (r : Round) : (washing r).unqueued 0 := by
  show (washing Round.idle).unqueued 0
  unfold State.unqueued
  decide +kernel

/-- Each of the five timers, running in a state that takes its cause, and stopped. -/
theorem test_meets_TimeoutsFault :
    ∀ r ∈ [{ record .setting with travel := runs 5000 }, { record .stepFill with fill := runs 30000 },
        { timing with wall := runs 10000 }, { record .holding with holdLimit := runs 60000 },
        { record .paused with holdLimit := runs 60000 }, { record .ending with drainMax := runs 300000 }],
      (r.state = .setting ∧ r.travel.mode = .running ∧ r.fill.mode ≠ .running
        ∨ r.state = .stepFill ∧ r.fill.mode = .running ∧ r.wall.mode ≠ .running
        ∨ r.state = .stepTiming ∧ r.wall.mode = .running
        ∨ (r.state = .holding ∨ r.state = .paused) ∧ r.holdLimit.mode = .running
        ∨ r.state = .ending ∧ r.drainMax.mode = .running)
      ∧ (washing r).round 0 = r ∧ r.held = some 0 ∧ ((washing r).station 0).queue = []
      ∧ r.header = some 0 := by decide +kernel

/-- The hall with header 0 emptied while round 0 waits; and a drive's reply that shows the pump with FAULT, and one
that does not, in STEP_FILL, STEP_TIMING and PAUSED. -/
theorem test_meets_FaultCausesTaken :
    let lost := { heard with headers := State.reset.headers }
    lost.routeOf 0 = some route ∧ lost.routeHeader route = none ∧ Table.entry lost.segments 0 ≠ none
    ∧ (lost.round 0).held = none
    ∧ (∀ x ∈ ([(0x03, .fault), (0x01, .running)] : List (Octet × DriveStatus)),
      ∀ r ∈ [timing, record .stepFill, record .paused],
      readFrame ((washing r).rxF ++ replyFrom 11 [x.1, 80, 0, 2, 0, 0, 2, 0, 0, 2, 0, 0])
        = some ⟨0, 11, kindRsp, [x.1, 80, 0, 2, 0, 0, 2, 0, 0, 2, 0, 0]⟩
      ∧ ((washing r).tapped ⟨0, 11, kindRsp, [x.1, 80, 0, 2, 0, 0, 2, 0, 0, 2, 0, 0]⟩).map
          (fun y => (y.2.1.silent, y.2.2)) = some (false, .drives [(x.2, 80), (.stopped, 0), (.stopped, 0), (.stopped, 0)])
      ∧ (∀ j, (0 : Slot) ∉ ((washing r).station j).queue) ∧ ((washing r).round 0).held = some 0
      ∧ ((washing r).station 0).load = some stationLoad
      ∧ (Table.entry (washing r).drives stationLoad.pump).any (fun d => d.node == 11 && d.channel == 0) = true) := by
  decide +kernel

/-- A class C round and a class B round waiting at station 0. -/
theorem test_meets_AgeingPromotes :
    ∀ grade ∈ [RoundClass.c, .b],
      let s := (washing { record .waitStation with effective := grade, ageing := runs 900000 }).updStation 0
        fun x => { x with queue := [0] }
      (s.round 0).ageing.mode = .running ∧ 0 ∈ (s.station 0).queue
      ∧ (∀ j, j ≠ 0 → (0 : Slot) ∉ (s.station j).queue) ∧ (s.round 0).effective = grade := by decide +kernel

/-- Out of spec; in spec with lifts left; complete with a linked hold; complete without one, with a next step at
another station; complete in the last step. -/
theorem test_meets_HoldTimeReached :
    let done := { timing with lift := .done, holdAcc := 1999 }
    let apart := { rinse with keep := false }
    let s := washing done
    let s1 := { washing done with recipes := [(0, [apart, { caustic with choice := some 1 }])]
                                  stations := (washing done).stations.set 1 ⟨some stationLoad, some 5, false, []⟩ }
    let s2 := { washing done with recipes := [(0, [apart])] }
    (washing (record .stepFill)).inSpec 0 = false ∧ (record .stepFill).holdAcc < 1000 * rinse.holdTime
    ∧ (washing timing).inSpec 0 = true ∧ timing.lift ≠ .done ∧ (washing timing).stepOf 0 = some rinse
    ∧ done.header = some 0 ∧ (s.header 0).interface = .steady
    ∧ s.inSpec 0 = true ∧ s.nextStep 0 = some caustic ∧ s.linkedHold 0 = true ∧ done.causes = ⟨false, []⟩
    ∧ caustic.medium ≠ .air ∧ done.held = some 0
    ∧ s1.stepOf 0 = some apart ∧ s1.inSpec 0 = true ∧ s1.linkedHold 0 = false ∧ s1.routeOf 0 = some route
    ∧ (s1.nextStep 0).map (·.choice) = some (some 1) ∧ (s1.station 0).queue = [] ∧ (s1.station 1).granted ≠ none
    ∧ s2.stepOf 0 = some apart ∧ s2.inSpec 0 = true ∧ s2.nextStep 0 = none ∧ done.state = .stepTiming := by
  decide +kernel

/-- Lifts on valve 1, the one MIXPROOF valve of the list, and on two of them with a SINGLE_SEAT valve between. -/
theorem test_meets_LiftPhases :
    let two := { route with boundary := [⟨1, .b⟩, ⟨4, .b⟩, ⟨0, .a⟩] }
    (washing timing).stepOf 0 = some rinse ∧ (washing timing).routeOf 0 = some route
    ∧ timing.liftTimer.mode = .running ∧ timing.state = .stepTiming
    ∧ route.boundary[0]? = some ⟨1, .b⟩ ∧ route.boundary[1]? = none
    ∧ (Table.entry (washing timing).valves 1).any (fun v => v.kind == .mixproof) = true
    ∧ rinse.pulses = 1 ∧ timing.holdAcc < 1000 * rinse.holdTime
    ∧ two.boundary[2]? = some ⟨0, .a⟩
    ∧ (Table.entry (washing timing).valves 4).any (fun v => v.kind == .singleSeat) = true
    ∧ (Table.entry (washing timing).valves 0).any (fun v => v.kind == .mixproof) = true := by decide +kernel

theorem test_meets_DrainHoldElapse :
    (record .ending).drainHold.mode ≠ .running
    ∧ ∀ st ∈ [RoundState.ending, .faulted],
      let s := washing { record st with drainHold := runs 10000 }
      (s.round 0).drainHold.mode = .running ∧ s.routeOf 0 = some route := by decide +kernel

/-- A flow sample below the drain flow limit, one above it, and a reply without one. -/
theorem test_meets_DrainHoldElapse_samples :
    let s := second .ending
    (s.round 0).state = .ending ∧ (s.round 0).header = some 0 ∧ (s.header 0).load = some headerLoad
    ∧ (∀ st, (0 : Slot) ∉ (s.station st).queue) ∧ s.config.drainFlow = 200
    ∧ (∀ payload ∈ [flowAndTemp, lowFlow, tempOnly],
      readFrame (s.rxF ++ replyFrom 12 payload) = some ⟨0, 12, kindRsp, payload⟩)
    ∧ ((after (.frameArrivalF (replyFrom 12 lowFlow)) s).round 0).drainHold = Timer.off
    ∧ ((after (.frameArrivalF (replyFrom 12 flowAndTemp)) s).round 0).drainHold = runs 10000
    ∧ ((after (.frameArrivalF (replyFrom 12 tempOnly)) s).round 0).drainHold = Timer.off
    ∧ ((second .holding).round 0).state = .holding := by decide +kernel

/-! ### Headers and the scan -/

/-- Header 0 with an interface running toward a target. -/
def toward (state : InterfaceState) (target : Target) : State :=
  (washing timing).updHeader 0 fun x =>
    { x with pending := some target, interface := state, hold := runs 3000, maximum := runs 120000 }

theorem test_meets_InterfaceTimers :
    ∀ state ∈ [InterfaceState.interfaceIn, .interfaceOut],
      ∀ target ∈ [Target.drain, .recoverCaustic, .recirculate 0 .caustic],
      ((toward state target).header 0).load = some headerLoad
      ∧ ((toward state target).header 0).pending = some target
      ∧ ((toward state target).header 0).hold.mode = .running
      ∧ ((toward state target).header 0).maximum.mode = .running
      ∧ ((toward state target).header 0).interface = state ∧ state ≠ .steady := by decide +kernel

/-- No timer running; the maximum expiring with DRAIN current and with another target current; and samples of the
conductivity point of 6.00 mS/cm, above the caustic limit, and 1.00 mS/cm, below it, in each interface state. -/
theorem test_meets_InterfaceTimers_more :
    let s := toward .interfaceIn (.recirculate 0 .caustic)
    let out := (toward .interfaceOut .drain).updHeader 0 fun x => { x with current := .recoverCaustic }
    ((washing timing).header 0).hold.mode ≠ .running ∧ ((washing timing).header 0).maximum.mode ≠ .running
    ∧ ((washing timing).header 0).interface = .steady ∧ (s.header 0).current = .drain
    ∧ ((s.updHeader 0 fun x => { x with current := .recoverCaustic }).header 0).current ≠ .drain
    ∧ headerLoad.cond = some 0 ∧ (∀ k, (s.round k).state ≠ .setting ∧ (s.round k).state ≠ .stepFill)
    ∧ (out.header 0).current.chemical = some .caustic ∧ (s.header 0).pending.bind Target.chemical = some .caustic
    ∧ s.config.causticLimit = 500
    ∧ (∀ x ∈ ([([0, 1, 0x58, 0x02], 600), ([0, 1, 0x64, 0x00], 100)] : List (List Octet × Nat)),
      readFrame (s.rxF ++ replyFrom 12 x.1) = some ⟨0, 12, kindRsp, x.1⟩
      ∧ (s.tapped ⟨0, 12, kindRsp, x.1⟩).map (fun y => (y.2.1.silent, y.2.2))
        = some (false, .points [(0, .good, x.2)])
      ∧ (out.tapped ⟨0, 12, kindRsp, x.1⟩).map (·.2.2) = some (.points [(0, .good, x.2)])) := by decide +kernel

/-- An interface-in begun while the conductivity point's node is silent, and while it answers (R138, log 36). -/
theorem test_meets_InterfaceTimers_silent :
    let out := toward .interfaceOut .recoverCaustic
    let quiet := { out with nodes := Table.adjust 2 (fun e => { e with silent := true }) out.nodes }
    let begun := fun (s : State) => ((after (.interfaceOutHoldElapse 0) s).header 0).hold
    ((headerLoad.cond.bind quiet.pointNode).any quiet.nodeSilent) = true
    ∧ ((headerLoad.cond.bind out.pointNode).any out.nodeSilent) = false
    ∧ begun out = runs 3000 ∧ begun quiet = (runs 3000).stop
    ∧ after (.interfaceInHoldElapse 0) (after (.interfaceOutHoldElapse 0) quiet)
      = after (.interfaceOutHoldElapse 0) quiet := by decide +kernel

/-- Part time 100 s: valve 0, commanded OPEN at time 0, is the first that qualifies, and shows a given position with a
given miss count. -/
def scanned (shown : Feedback) (misses : Nat) (changed : Option PartTime) : State :=
  { (washing (record .setting)).updValve 0 fun v =>
      { v with feedback := shown, misses := misses, changed := changed } with
    partTime := 100000, visitTimer := ⟨.running, 50, 50⟩ }

/-- No valve that qualifies; passed over, never commanded and within its allowance; matching; a first mismatch; and a
second of a round in SETTING with no breach. -/
theorem test_meets_ProofScanVisit :
    hall.visitTimer.mode = .running ∧ hall.handed = [] ∧ (scanned .closed 1 none).handed = [] ∧ (∀ x ∈ hall.valves, hall.qualifies x.2 = false)
    ∧ (scanned .closed 1 none).visitTimer.mode = .running ∧ (scanned .closed 1 none).scanPointer = none
    ∧ (∀ s ∈ [scanned .closed 1 none, scanned .closed 1 (some 95001), scanned .open 1 (some 0),
        scanned .closed 0 (some 0), scanned .closed 1 (some 0)],
      (Table.entry s.valves 0).any (fun v => s.qualifies v && expected v == some .open) = true
      ∧ (Table.entry s.valves 0).map s.allowance = some 5000
      ∧ (Table.entry s.valves 0).bind s.breachAt = none ∧ (s.round 0).state = .setting)
    ∧ (100000 - 95001 : PartTime).toNat < 5000 ∧ ¬(100000 - 0 : PartTime).toNat < 5000 := by decide +kernel

theorem test_scanned_canonical :
    ∀ s ∈ [scanned .closed 1 none, scanned .closed 1 (some 95001), scanned .open 1 (some 0),
      scanned .closed 0 (some 0), scanned .closed 1 (some 0)], s.tablesCanonical := by
  unfold State.tablesCanonical tableFits distinctBy
  decide +kernel

/-- Part time 100 s, milk in the vessel beside round 0's segment: a valve, commanded at time 0 and missed once
before, is the first that qualifies, and shows TRAVEL. -/
def judged (n : Nat) (r : Round) : State :=
  { ((washing r).setSegState 2 .product).updValve n fun v =>
      { v with feedback := .travel, misses := 1, changed := some 0 } with
    partTime := 100000, visitTimer := ⟨.running, 50, 50⟩, scanPointer := if n = 0 then none else some (n - 1) }

/-- Valve 1 between the milk and the wet round, in a state that takes the cause and in one that does not; and valve 0,
owned in STEP_TIMING, with no breach. -/
theorem test_meets_ScanJudgement :
    (∀ s ∈ [judged 1 timing, judged 1 (record .ending), judged 0 timing],
      s.visitTimer.mode = .running ∧ s.handed = [] ∧ s.claimQueue = [] ∧ (∀ st, (0 : Slot) ∉ (s.station st).queue)
      ∧ s.segState 2 = .product ∧ s.segState 1 = .claimed 0 ∧ (s.round 0).wet = true)
    ∧ (∀ s ∈ [judged 1 timing, judged 1 (record .ending)],
      (Table.entry s.valves 1).any (fun v => s.qualifies v && v.misses != 0 && expected v == some .closed
        && v.feedback != .closed && v.changed == some 0 && v.sideA == some 1 && v.sideB == some 2) = true
      ∧ (Table.entry s.valves 1).map s.allowance = some 5000 ∧ s.scanPointer = some 0)
    ∧ ((judged 1 timing).round 0).takes .segregationBreach = true
    ∧ ((judged 1 (record .ending)).round 0).takes .segregationBreach = false
    ∧ (Table.entry (judged 0 timing).valves 0).any (fun v => (judged 0 timing).qualifies v && v.misses != 0
      && expected v == some .open && v.feedback != .open && v.owner == some 0 && v.sideA == some 0
      && v.sideB == some 1) = true
    ∧ (judged 0 timing).segState 0 = .claimed 0 ∧ (judged 0 timing).scanPointer = none
    ∧ ((judged 0 timing).round 0).state = .stepTiming := by decide +kernel

theorem test_judged_canonical :
    ∀ s ∈ [judged 1 timing, judged 1 (record .ending), judged 0 timing], s.tablesCanonical := by
  unfold State.tablesCanonical tableFits distinctBy
  decide +kernel

/-- VISIT_TIMER_EXPIRY with the free value of log 42 given. -/
def visits (waits : Bool) (s : State) : State := s.takeHanded.expire s.visitTimer (State.scanWith waits)

theorem test_visits (s : State) : ∃ waits, exec .visitTimerExpiry s = .next (visits waits s) := by
  refine ⟨Config.handoverWaits (s.takeHanded.pass s.visitTimer.lacks).freeCount, ?_⟩
  show Host.Outcome.next (s.takeHanded.expire s.visitTimer State.scan) = _
  unfold visits State.expire
  split
  · rw [State.scan]
  · rfl

/-- R175, R176: the two kinds of judgement, at one expiry of the visit timer each, and taken at once. -/
theorem test_scan_judges :
    ((visits false (judged 1 timing)).round 0).fault.map (·.cause) = some .segregationBreach
    ∧ (visits false (judged 1 timing)).segState 2 = .suspect .breach
    ∧ (visits false (judged 1 timing)).events.map (·.kind) = [.segregationBreach, .fault, .roundState]
    ∧ ((visits false (judged 0 timing)).round 0).fault.map (·.cause) = some .scanMismatch := by
  decide +kernel

/-- R179, last row: the report of a scan mismatch on its way finds the round FAULTED by its wall timer. -/
theorem test_report_finds_faulted :
    let s := visits true (judged 0 { timing with wall := ⟨.running, 0, 10000⟩ })
    let t := after (.wallTimerExpiry 0) s
    s.handed = [.mismatch 0 0] ∧ (s.round 0).state = .stepTiming
    ∧ (t.round 0).fault.map (·.cause) = some .stepOvertime ∧ (t.round 0).takes .scanMismatch = false
    ∧ t.takeHanded = { t with handed := [] } := by decide +kernel

/-- R61, R179: a breach marking on its way finds the segment marked FREE, and claimed since, and SUSPECT; and its report
a round that does not take it. -/
theorem test_meets_ScanJudgement_arrival :
    let s := visits true (judged 1 timing)
    let freed := after (.segmentMarkFree ask 2) { s with loader := .ready }
    let marked := { freed with handed := [.marking 2] }
    s.handed = [.marking 2, .breach 0 1] ∧ s.segState 2 = .product
    ∧ marked.segState 2 = .free ∧ marked.takeHanded.segState 2 = .suspect .breach
    ∧ (marked.setSegState 2 (.claimed 1)).takeHanded.segState 2 = .claimed 1
    ∧ (marked.setSegState 2 (.suspect .restart)).takeHanded.segState 2 = .suspect .restart
    ∧ ((visits true (judged 1 (record .ending))).round 0).takes .segregationBreach = false := by decide +kernel

/-! ### Invariants, queues, windows and claims -/

theorem test_meets_StepKeepsTablesCanonical :
    (washing timing).tablesCanonical ∧ ∃ t, step (washing timing) = .next t :=
  ⟨test_washing_canonical timing, _, rfl⟩

theorem test_meets_StepKeepsHeadersSound :
    (∀ state ∈ [InterfaceState.interfaceIn, .interfaceOut], (toward state .drain).headersSound)
    ∧ (washing timing).headersSound ∧ ∃ t, step (washing timing) = .next t := by
  refine ⟨?_, ?_, _, rfl⟩ <;> unfold State.headersSound Header.sound <;> decide +kernel

/-- With milk beside the claimed segments behind a MIXPROOF valve. -/
theorem test_meets_StepKeepsProductApart :
    ((washing timing).setSegState 2 .product).productApart
    ∧ ∃ t, step ((washing timing).setSegState 2 .product) = .next t := by
  refine ⟨?_, _, rfl⟩
  unfold State.productApart
  decide +kernel

theorem test_meets_StepKeepsBounds : (washing timing).bounded ∧ ∃ t, step (washing timing) = .next t :=
  ⟨test_washing_bounded timing, _, rfl⟩

theorem test_meets_CriterionWindows :
    1 ≤ (1 : Nat) ∧ [true, false, true].foldl (fun w x => appendResult 2 x w) [] = [false, true]
    ∧ (⟨.returnTemp, .atLeast, 600, 3, 2⟩ : Criterion).satisfied ⟨some 1, [true, false, true]⟩ = true
    ∧ (⟨.returnTemp, .atLeast, 600, 3, 2⟩ : Criterion).satisfied ⟨some 1, [true, true]⟩ = false := by decide +kernel

/-- A reply that carries the criterion's point, and one that does not, in STEP_TIMING. -/
theorem test_meets_CriterionWindows_samples :
    let s := second .stepTiming
    (s.round 0).state = .stepTiming ∧ (∀ st, (0 : Slot) ∉ (s.station st).queue) ∧ s.stepOf 0 = some caustic
    ∧ caustic.criteria[0]? = some ⟨.returnTemp, .atLeast, 600, 3, 2⟩
    ∧ (s.round 0).criteria[0]? = some ⟨some 1, [true]⟩
    ∧ ((after (.frameArrivalF (replyFrom 12 tempOnly)) s).round 0).criteria = [⟨some 1, [true, true]⟩]
    ∧ ((after (.frameArrivalF (replyFrom 12 lowFlow)) s).round 0).criteria = [⟨some 1, [true]⟩] := by decide +kernel

def done (n : Nat) : List Event := List.replicate n (bareEvent .stepDone 0)

def faults (n : Nat) : List Event := List.replicate n (bareEvent .fault 0)

/-- A masked kind; a queue with room for one; a full one with a maskable record before unmaskable ones, and a full one
of unmaskable records. -/
theorem test_meets_EventQueueOffer :
    ({ ready with config := { defaultConfig with eventMask := 2 } } : State).masked .stepDone = true
    ∧ ready.masked .stepDone = false ∧ (done 63).length < 64 ∧ 64 ≤ (done 64).length
    ∧ 64 ≤ (done 2 ++ faults 62).length ∧ done 2 ++ faults 62 = done 1 ++ bareEvent .stepDone 0 :: faults 62
    ∧ (∀ y ∈ faults 62, y.kind.maskable = false) ∧ 64 ≤ (faults 64).length
    ∧ (∀ y ∈ faults 64, y.kind.maskable = false) := by decide +kernel

theorem test_meets_ClaimableRoutes :
    heard.tablesCanonical ∧ heard.claimable route = true ∧ milk.claimable route = false
    ∧ route.conflicts route = true ∧ route.conflicts { route with segments := [2], setting := [⟨1, true⟩] } = false
    ∧ (heard.setSegState 2 .product).claimable route = true
    ∧ (heard.setSegState 2 (.suspect .breach)).claimable route = false := by
  unfold State.tablesCanonical tableFits distinctBy
  decide +kernel

/-- Two rounds wait for one route: none can be granted with milk in it; otherwise the older one is. -/
def twoWait (s : State) : State :=
  { s with
    rounds := (s.rounds.set 0 { Round.idle with state := .waitRoute }).set 1 { Round.idle with state := .waitRoute }
    claimQueue := [0, 1] }

theorem test_meets_WalkNeverOvertakes :
    (∀ k ∈ (twoWait milk).claimQueue, ((twoWait milk).routeOf k).any (twoWait milk).claimable = false)
    ∧ (twoWait heard).claimQueue = [] ++ 0 :: [1] ∧ (twoWait heard).claimQueue.Nodup
    ∧ (twoWait heard).routeOf 0 = some route ∧ (twoWait heard).claimable route = true := by decide +kernel

/-- Class B before class A in the queue of a FREE station; a GRANTED station; an empty queue. -/
theorem test_meets_GrantOrder :
    let s := { washing (record .waitStation) with
      rounds := (State.reset.rounds.set 0 (record .waitStation)).set 1 { record .waitStation with effective := .a }
      stations := State.reset.stations.set 0 ⟨some stationLoad, none, false, [0, 1]⟩ }
    (s.station 0).granted = none ∧ s.bestWaiting 0 = some 1
    ∧ ((washing timing).station 0).granted ≠ none ∧ (hall.station 0).queue = [] := by decide +kernel

/-! ### Single steps -/

/-- R84, R50, R87: a claimable route is claimed at once; the part time of the start is 0. -/
theorem test_roundStart_claims :
    ((after (.roundStart ask 0 0 0 1) heard).round 0).state = .setting
    ∧ (after (.roundStart ask 0 0 0 1) heard).segState 1 = .claimed 0
    ∧ ((after (.roundStart ask 0 0 0 1) heard).header 0).current = .drain := by decide +kernel

/-- R86, R87: with its nodes silent the round is claimed into HOLDING. -/
theorem test_roundStart_holds :
    ((after (.roundStart ask 0 0 0 1) hall).round 0).state = .holding
    ∧ ((after (.roundStart ask 0 0 0 1) hall).round 0).resume = some .setting := by decide +kernel

/-- R150: an owned valve is forwarded its commanded position, whatever the supervisor sends. -/
theorem test_owned_valve_is_forwarded :
    ((after (.frameArrivalU (toCluster (0x01 :: List.replicate 15 0)).seal) (washing timing)).txF.map
      fun l => l.getD 4 0) = [0x02] := by decide +kernel

/-- R151: a locked valve is forwarded its lift position. -/
theorem test_locked_valve_is_lifted :
    ((after (.frameArrivalU (toCluster (0x00 :: 0x02 :: List.replicate 14 0)).seal) (washing timing)).txF.map
      fun l => l.getD 5 0) = [0x03] := by decide +kernel

/-- R90, R98: a linked step that begins on a silent criterion node is held with its lift progress as placed, pulse 1,
LIFTED, and commands nothing to the valve it has not lifted. -/
theorem test_linked_begin_held_keeps_lift :
    let s := { washing { timing with lift := .done, holdAcc := 1999 } with
      recipes := [(0, [rinse, { caustic with pulses := 1 }])]
      nodes := [(0, ⟨10, .valveCluster, some 0, false, runs 300⟩), (1, ⟨11, .drive, some 0, false, runs 300⟩),
        (2, ⟨12, .instrument, some 0, true, Timer.off⟩)] }
    let t := after (.holdTimeReached 0) s
    ((t.round 0).state, (t.round 0).resume, (t.round 0).step) = (.holding, some .stepFill, 1)
    ∧ (t.round 0).causes = ⟨false, [12]⟩ ∧ (t.round 0).lift = .active 0 1 .lifted
    ∧ Table.entry t.valves 1 = Table.entry s.valves 1 := by decide +kernel

/-- R136: an interface-in that takes too long ends STEADY on DRAIN. -/
theorem test_interface_in_long_drains :
    let s := (toward .interfaceIn (.recirculate 0 .caustic)).updHeader 0 fun x => { x with current := .recoverCaustic }
    let t := after (.interfaceMaximumExpiry 0) s
    ((t.header 0).current, (t.header 0).interface, (t.header 0).pending) = (.drain, .steady, none)
    ∧ (Table.entry t.valves 5).map (·.commanded) = some (some .open)
    ∧ t.events.map (·.kind) = [.interfaceLong] := by decide +kernel

/-- R153: an unowned drive's value is clamped to its maximum. -/
theorem test_drive_is_clamped :
    ((after (.frameArrivalU (Frame.mk 11 0 kindCmd [101, 0, 0xFF, 0xFF, 0xFF, 0xFF, 0, 0]).seal) hall).txF.map
      fun l => l.getD 4 0) = [100] := by decide +kernel

/-- R89, R108: the travel timer's expiry faults the round at the first valve that is not in position. -/
theorem test_travel_timeout :
    ((after (.travelTimerExpiry 0) (washing { record .setting with travel := runs 5000 })).round 0).fault
      = some ⟨.travelTimeout, some (.valve 0), 0, 5000⟩ := by decide +kernel

/-- R88, R90, R91: the last position in place begins step 0, and the free station fills. -/
theorem test_setting_completes :
    let s := after (.roundStart ask 0 0 0 1) heard
    let t := after (.frameArrivalF (Frame.mk 0 10 kindRsp (0x02 :: List.replicate 15 0x01)).seal) s
    (t.round 0).state = .stepFill ∧ (t.station 0).granted = some 0
    ∧ ((Table.entry t.drives 0).bind (·.commanded)) = some 80 := by decide +kernel

/-- R92, R95, R97: enough flow at the fill point begins STEP_TIMING and the first lift. -/
theorem test_fill_completes :
    let s := washing { record .stepFill with fill := runs 30000, lift := .active 0 1 .lifted }
    let t := after (.frameArrivalF (Frame.mk 0 12 kindRsp [2, 1, 0xE8, 0x03]).seal) s
    (t.round 0).state = .stepTiming ∧ ((Table.entry t.valves 1).bind (·.commanded)) = some .liftA := by
  decide +kernel

/-- R97, R98: the LIFTED phase ends with the valve commanded CLOSE. -/
theorem test_lift_closes :
    ((after (.liftTimerExpiry 0) (washing timing)).round 0).lift = .active 0 1 .closed := by decide +kernel

/-- R96, R74: a step that completes with a linked hold begins the next one at the same station. -/
theorem test_step_completes :
    let t := after (.holdTimeReached 0) (washing { timing with lift := .done, holdAcc := 1999 })
    (t.round 0).step = 1 ∧ (t.round 0).held = some 0 ∧ (t.round 0).state = .stepFill ∧ t.partTime = 1 := by
  decide +kernel

/-- R58: PRODUCT beside a CLAIMED segment behind a SINGLE_SEAT valve is refused with that valve as subject. -/
theorem test_mark_product_barred :
    (after (.segmentMarkProduct ask 2) ((washing timing).updValve 1 fun v => { v with kind := .singleSeat })).txU
      = [.answer true 0 250 7 ⟨.segregation, none, some 1, []⟩] := by decide +kernel

/-- R174, R175, R61: a second mismatch between milk and a wet round is a breach. -/
theorem test_breach :
    let s := { (washing timing).setSegState 2 .product with partTime := 100000, scanPointer := some 0 }
    let t := visits false (s.updValve 1 fun v => { v with misses := 1, changed := some 0, feedback := .open })
    t.segState 2 = .suspect .breach ∧ (t.round 0).state = .faulted
    ∧ (t.events.map (·.kind)).take 2 = [.segregationBreach, .fault] := by decide +kernel

/-- R133: the interface hold elapses and the header switches. -/
theorem test_interface_out :
    ((after (.interfaceOutHoldElapse 0) (toward .interfaceOut .drain)).header 0).interface = .steady := by
  decide +kernel

/-- R107: the drain hold elapses, the segments are FREE and the round is DONE. -/
theorem test_round_done :
    let t := after (.drainHoldElapse 0) (washing { record .ending with drainHold := runs 10000, held := none })
    (t.round 0).state = .done ∧ t.segState 0 = .free ∧ (t.round 0).endTime = some 10000 := by decide +kernel

/-- R182, R181: a second request finds the buffer held until the answer has left. -/
theorem test_buffer :
    ((after (.configRead ask) (after (.roundRead ask 16) hall)).txU.length = 2)
    ∧ (after .answerSent (after (.roundRead ask 16) hall)).bufferHeld = false := by decide +kernel

end Sys2Proof.Tests
end

/-! ## The idle step (logs 3, 5 and 42) -/

namespace Sys2Proof.Machine

/-! ### What a tick does, by what is on its way and what is due -/

/-- Whatever the ranking, the expiry chosen is one of those that are due. -/
theorem leastRanked_mem (rank : Instr → Nat) (c : Instr) (l : List Instr) : leastRanked rank c l ∈ c :: l := by
  induction l generalizing c with
  | nil => exact List.mem_cons_self
  | cons d l ih =>
    have chosen := ih (if rank d < rank c then d else c)
    unfold leastRanked
    split at chosen
    next h =>
      rw [if_pos h]
      exact List.mem_cons_of_mem c chosen
    next h =>
      rw [if_neg h]
      exact List.cons_subset_cons c (List.subset_cons_self d l) chosen

section tick

variable {s : State}

theorem step_of_pending_nil (idle : s.pending = []) : step s = .next s.tick := by
  unfold step
  rw [idle]

theorem State.tick_of_handed (h : s.handed ≠ []) : s.tick = s.takeHanded := by
  obtain ⟨x, l, e⟩ := List.exists_cons_of_ne_nil h
  unfold State.tick
  rw [e]

theorem State.tick_of_due (h : s.handed = []) (due : s.dueCommands ≠ []) : ∃ c ∈ s.dueCommands,
    s.tick = { s with pending := s.pending ++ [c], freeCount := s.freeCount + 1 } := by
  obtain ⟨c, l, e⟩ := List.exists_cons_of_ne_nil due
  refine ⟨leastRanked (Config.raceRank s.freeCount) c l, e ▸ leastRanked_mem _ c l, ?_⟩
  unfold State.tick
  rw [h, e]

theorem State.tick_of_none_due (h : s.handed = []) (due : s.dueCommands = []) : s.tick = s.pass 1 := by
  unfold State.tick
  rw [h, due]

end tick

/-- Settles O2: by the three cases of a tick; the laws of part time say what one millisecond does to the timers. -/
theorem idleStepIsATick : Obligations.IdleStepIsATick := by
  intro s idle
  rw [step_of_pending_nil idle]
  refine ⟨fun onWay => ?arrives, fun quiet due => ?joins, fun quiet due => ?passes⟩
  case arrives => rw [State.tick_of_handed onWay]
  case joins =>
    obtain ⟨c, mem, tick⟩ := State.tick_of_due quiet due
    refine ⟨c, mem, ?_⟩
    rw [tick, idle, List.nil_append]
  case passes =>
    rw [State.tick_of_none_due quiet due]
    exact ⟨s.pass 1, rfl, State.pass_eq s 1, State.header_pass s 1, State.round_pass s 1⟩

end Sys2Proof.Machine

/-! ## The canonical form of the tables -/

namespace Sys2Proof.Machine

open Sys2Proof

/-! ### What a table lists -/

section keys

variable {α β : Type} {size n : Nat} {t u : Table α} {key : α → β} {v : α}

/-- What a table lists: its indexes, each with the key of its entry. -/
def Table.keys (key : α → β) (t : Table α) : Table β := t.map fun x => (x.1, key x.2)

theorem Table.keys_adjust {f : α → α} (h : ∀ v, key (f v) = key v) (t : Table α) :
    Table.keys key (Table.adjust n f t) = Table.keys key t := Work.map_adjust_untouched n f key h t

theorem Table.keys_each {f : Nat → α → α} (h : ∀ n v, key (f n v) = key v) (t : Table α) :
    Table.keys key (Table.each f t) = Table.keys key t := by
  unfold Table.keys Table.each
  rw [List.map_map]
  exact List.map_congr_left fun x _ => congrArg (Prod.mk x.1) (h x.1 x.2)

/-- Tables that agree on a part of their entries list the same keys, where the key is in that part. -/
theorem Table.keys_eq_of_part {part : α → α} (h : Table.keys part t = Table.keys part u)
    (hk : ∀ v, key (part v) = key v) : Table.keys key t = Table.keys key u := by
  have through : ∀ w : Table α, Table.keys key w = Table.keys key (Table.keys part w) := by
    intro w
    unfold Table.keys
    rw [List.map_map]
    exact List.map_congr_left fun x _ => congrArg (Prod.mk x.1) (hk x.2).symm
  rw [through t, through u, h]

theorem Table.wf_keys (key : α → β) (t : Table α) : Table.wf (Table.keys key t) = Table.wf t := by
  induction t with
  | nil => rfl
  | cons x t ih =>
    cases t with
    | nil => rfl
    | cons y t => exact congrArg (decide (x.1 < y.1) && ·) ih

theorem tableFits_keys : tableFits size (Table.keys key t) ↔ tableFits size t := by
  unfold tableFits
  rw [Table.wf_keys]
  exact and_congr_right fun _ => List.forall_mem_map

theorem distinctBy_keys : distinctBy id (Table.keys key t) ↔ distinctBy key t := by
  simp only [distinctBy, Table.keys, List.forall_mem_map, id]

theorem tableFits_of_keys (h : Table.keys key u = Table.keys key t) (fits : tableFits size t) : tableFits size u :=
  tableFits_keys.1 (h ▸ tableFits_keys.2 fits)

theorem distinctBy_of_keys (h : Table.keys key u = Table.keys key t) (distinct : distinctBy key t) : distinctBy key u :=
  distinctBy_keys.1 (h ▸ distinctBy_keys.2 distinct)

/-! ### Writing and emptying an entry -/

theorem tableFits_put (fits : tableFits size t) (lt : n < size) : tableFits size (Table.put n v t) := by
  refine ⟨Table.wf_put n v t fits.1, fun x hx => ?_⟩
  obtain rfl | old := Table.mem_put hx
  · exact lt
  · exact fits.2 x old

theorem tableFits_remove (n : Nat) (fits : tableFits size t) : tableFits size (Table.remove n t) :=
  ⟨Table.wf_remove n t fits.1, fun x hx => fits.2 x (List.mem_of_mem_filter hx)⟩

theorem distinctBy_put (wf : Table.wf t = true) (distinct : distinctBy key t)
    (fresh : ∀ x ∈ t, x.1 ≠ n → key x.2 ≠ key v) : distinctBy key (Table.put n v t) := by
  intro x hx y hy e
  obtain rfl | ⟨xt, xn⟩ := Table.mem_put_ne wf hx <;> obtain rfl | ⟨yt, yn⟩ := Table.mem_put_ne wf hy
  · rfl
  · exact absurd e.symm (fresh y yt yn)
  · exact absurd e (fresh x xt xn)
  · exact distinct x xt y yt e

theorem distinctBy_remove (n : Nat) (distinct : distinctBy key t) : distinctBy key (Table.remove n t) :=
  fun x hx y hy => distinct x (List.mem_of_mem_filter hx) y (List.mem_of_mem_filter hy)

/-- An entry that the DUPLICATE check finds at no other index has a key of its own. -/
theorem fresh_of_first {p : α → Bool} (h : Table.first (fun i x => i != n && p x) t = none)
    (hp : ∀ x, key x = key v → p x = true) : ∀ x ∈ t, x.1 ≠ n → key x.2 ≠ key v := by
  intro x hx ne e
  have := Table.first_eq_none.1 h x hx
  simp [ne, hp x.2 e] at this

end keys

/-! ### States whose tables list the same -/

/-- Where a valve is connected: node and slot. -/
def ValveEntry.place (v : ValveEntry) : Octet × Nat := (v.node, v.slot)

/-- Where a drive is connected: node and channel. -/
def DriveEntry.place (d : DriveEntry) : Octet × Nat := (d.node, d.channel)

/-- Where a point is measured: node and channel. -/
def PointEntry.place (p : PointEntry) : Octet × Nat := (p.node, p.channel)

/-- The tables of a state that hold entries by index. -/
def State.tables (s : State) : Table NodeEntry × Table SegmentEntry × Table ValveEntry × Table DriveEntry
    × Table PointEntry × Table Route × Table (List RecipeStep) :=
  (s.nodes, s.segments, s.valves, s.drives, s.points, s.routes, s.recipes)

/-- The tables of two states list the same indexes, and there the same node addresses, slots and channels. -/
structure SameKeys (s t : State) : Prop where
  nodes : Table.keys NodeEntry.address t.nodes = Table.keys NodeEntry.address s.nodes
  segments : Table.keys (fun _ => ()) t.segments = Table.keys (fun _ => ()) s.segments
  valves : Table.keys ValveEntry.place t.valves = Table.keys ValveEntry.place s.valves
  drives : Table.keys DriveEntry.place t.drives = Table.keys DriveEntry.place s.drives
  points : Table.keys PointEntry.place t.points = Table.keys PointEntry.place s.points
  routes : t.routes = s.routes
  recipes : t.recipes = s.recipes

namespace SameKeys

variable {s t u : State} {k : Slot}

theorem canonical (h : SameKeys s t) (c : s.tablesCanonical) : t.tablesCanonical := by
  obtain ⟨nodes, segments, valves, drives, points, routes, recipes, dn, dv, dd, dp⟩ := c
  exact ⟨tableFits_of_keys h.nodes nodes, tableFits_of_keys h.segments segments, tableFits_of_keys h.valves valves,
    tableFits_of_keys h.drives drives, tableFits_of_keys h.points points, h.routes ▸ routes, h.recipes ▸ recipes,
    distinctBy_of_keys h.nodes dn, distinctBy_of_keys h.valves dv, distinctBy_of_keys h.drives dd,
    distinctBy_of_keys h.points dp⟩

/-- States with the same tables. -/
theorem ofTables (h : t.tables = s.tables) : SameKeys s t := by
  simp only [State.tables, Prod.mk.injEq] at h
  obtain ⟨nodes, segments, valves, drives, points, routes, recipes⟩ := h
  exact ⟨by rw [nodes], by rw [segments], by rw [valves], by rw [drives], by rw [points], routes, recipes⟩

theorem rfl' : SameKeys s s := ofTables rfl

theorem trans (h : SameKeys s t) (g : SameKeys t u) : SameKeys s u :=
  ⟨g.nodes.trans h.nodes, g.segments.trans h.segments, g.valves.trans h.valves, g.drives.trans h.drives,
    g.points.trans h.points, g.routes.trans h.routes, g.recipes.trans h.recipes⟩

theorem foldl {β : Type} {f : State → β → State} (h : ∀ s x, SameKeys s (f s x)) (l : List β) :
    ∀ s, SameKeys s (l.foldl f s) := by
  induction l with
  | nil => exact fun _ => rfl'
  | cons x l ih => exact fun s => (h s x).trans (ih _)

/-- Whatever stays within the claim arbiter's frame. -/
theorem ofFrame (h : arbiterFrame s t) : SameKeys s t := by
  obtain ⟨⟨fields, valves, drives, -, -⟩, segments⟩ := h
  have loaded := Table.keys_eq_of_part (part := fun e : SegmentEntry => { e with state := .free }) (key := fun _ => ())
    segments fun _ => rfl
  refine ⟨?_, loaded, Table.keys_eq_of_part valves fun _ => rfl, Table.keys_eq_of_part drives fun _ => rfl,
    ?_, ?_, ?_⟩ <;> rw [fields]

theorem ofClaimed (h : Claimed s t) : SameKeys s t := ofFrame h.frame

theorem ofWork {P : Slot → Prop} {Q : Prop} (w : Work P Q s t) : SameKeys s t := ofClaimed (.ofWork w)

theorem ofSettled (h : Settled s t) : SameKeys s t := by
  refine ⟨?_, ?_, Table.keys_eq_of_part h.valves fun _ => rfl, Table.keys_eq_of_part h.drives fun _ => rfl,
    ?_, ?_, ?_⟩ <;> rw [h.fields]

/-! ### Elementary edits -/

theorem updRound (k : Slot) (f : Round → Round) : SameKeys s (s.updRound k f) := ofClaimed (.updRound s k f)

theorem updStation (k : StationId) (f : Station → Station) : SameKeys s (s.updStation k f) := ofTables rfl

theorem updHeader (h : HeaderId) (f : Header → Header) : SameKeys s (s.updHeader h f) := ofTables rfl

theorem updValve (n : Nat) {f : ValveEntry → ValveEntry} (h : ∀ v, (f v).place = v.place) :
    SameKeys s (s.updValve n f) := ⟨rfl, rfl, Table.keys_adjust h _, rfl, rfl, rfl, rfl⟩

theorem updDrive (n : Nat) {f : DriveEntry → DriveEntry} (h : ∀ d, (f d).place = d.place) :
    SameKeys s (s.updDrive n f) := ⟨rfl, rfl, rfl, Table.keys_adjust h _, rfl, rfl, rfl⟩

theorem offer (e : Event) : SameKeys s (s.offer e) := ofWork (Work.offer (P := fun _ => True) (Q := True) e)

theorem cascade (ts : List Task) : SameKeys s (s.cascade ts) := ofWork (.anyCascade .rfl' ts)

theorem pass (n : Nat) : SameKeys s (s.pass n) := by
  rw [State.pass_eq]
  refine ⟨?_, rfl, rfl, rfl, rfl, rfl, rfl⟩
  dsimp only
  refine Table.keys_each (fun _ _ => ?_) _
  rfl

theorem expire {effect : State → State} (h : ∀ u, SameKeys u (effect u)) (x : Timer) :
    SameKeys s (s.expire x effect) := by
  unfold State.expire
  split
  · exact (pass _).trans (h _)
  · exact rfl'

theorem takeHanded : SameKeys s s.takeHanded :=
  trans (t := { s with handed := [] }) (ofTables rfl)
    (foldl (fun s h => ofClaimed (Claimed.arrive s h)) s.handed _)

/-! ### The frame path -/

theorem sendF (l : List Octet) : SameKeys s (s.sendF l) := ofTables rfl

theorem sendU (x : SentU) : SameKeys s (s.sendU x) := ofTables rfl

theorem restartLink : SameKeys s s.restartLink := ofTables rfl

theorem linkHeard : SameKeys s s.linkHeard := by
  by_cases silent : s.linkSilent = true
  · exact trans (t := State.restartLink { s with linkSilent := false }) (ofTables rfl)
      (ofWork (linkHeard_work s silent))
  · unfold State.linkHeard
    rw [if_neg silent]
    exact restartLink

theorem linkExpires : SameKeys s s.linkExpires :=
  trans (t := { s with linkSilent := true, linkExpiry := some s.partTime, linkTimer := s.linkTimer.stop })
    (ofTables rfl) (ofWork (linkExpires_work s))

theorem blankNode (i : Nat) (a : Octet) : SameKeys s (s.blankNode i a) := by
  unfold State.blankNode
  refine ⟨?nodes, rfl, ?valves, ?drives, ?points, rfl, rfl⟩ <;> dsimp only
  case nodes =>
    refine Table.keys_adjust (fun _ => ?_) _
    rfl
  all_goals
    refine Table.keys_each (fun _ x => ?_) _
    split <;> rfl

theorem nodeExpires (i : Nat) (a : Octet) : SameKeys s (s.nodeExpires i a) :=
  (blankNode i a).trans (ofWork (nodeExpires_work s i a))

theorem rebuild (a : Octet) (cause : RebuildCause) : SameKeys s (s.rebuild a cause) := by
  unfold State.rebuild
  dsimp only
  split
  · dsimp only
    exact ((ofSettled (.rebuildDrives a 4 0 s)).trans (sendF _)).trans (offer _)
  · dsimp only
    exact ((ofSettled (.rebuildValves a 16 0 s)).trans (sendF _)).trans (offer _)

theorem wrongForm (f : Frame) (octets : List Octet) : SameKeys s (s.wrongForm f octets) := by
  unfold State.wrongForm
  split
  · exact rebuild _ _
  · exact sendF _

theorem relayCommand (f : Frame) (octets : List Octet) : SameKeys s (s.relayCommand f octets) := by
  unfold State.relayCommand
  split
  · split
    · exact (ofSettled (.settleValves _ _ _ s)).trans (sendF _)
    · exact wrongForm _ _
  · split
    · exact (ofSettled (.settleDrives _ _ _ s)).trans (sendF _)
    · exact wrongForm _ _
  · exact sendF _

theorem relayGood (f : Frame) (octets : List Octet) : SameKeys s (s.relayGood f octets) := by
  unfold State.relayGood
  split
  · exact relayCommand _ _
  · exact sendF _

theorem relayBad (octets : List Octet) : SameKeys s (s.relayBad octets) := by
  unfold State.relayBad
  split
  · split
    · exact rebuild _ _
    · exact sendF _
  · exact sendF _

theorem hearNode (i : Nat) (e : NodeEntry) : SameKeys s (s.hearNode i e) := by
  refine trans ?_ (ofWork (hearNode_work s i e))
  refine ⟨?_, rfl, rfl, rfl, rfl, rfl, rfl⟩
  dsimp only
  refine Table.keys_adjust (fun _ => ?_) _
  rfl

theorem writeValves (a : Octet) (l : List Feedback) : ∀ (slot : Nat) (s : State),
    SameKeys s (s.writeValves a slot l) := by
  induction l with
  | nil => exact fun _ _ => rfl'
  | cons x l ih =>
    intro slot s
    unfold State.writeValves
    refine trans ?_ (ih _ _)
    split
    · exact updValve _ fun _ => rfl
    · exact rfl'

theorem writeDrives (a : Octet) (l : List (DriveStatus × Nat)) : ∀ (channel : Nat) (s : State),
    SameKeys s (s.writeDrives a channel l) := by
  induction l with
  | nil => exact fun _ _ => rfl'
  | cons x l ih =>
    intro channel s
    unfold State.writeDrives
    refine trans ?_ (ih _ _)
    split
    · exact updDrive _ fun _ => rfl
    · exact rfl'

theorem writePoints (a : Octet) (l : List (Nat × Quality × Nat)) : ∀ s : State, SameKeys s (s.writePoints a l) := by
  induction l with
  | nil => exact fun _ => rfl'
  | cons x l ih =>
    intro s
    unfold State.writePoints
    refine trans ?_ (ih _)
    split
    · refine ⟨rfl, rfl, rfl, rfl, Table.keys_adjust (fun p => ?_) _, rfl, rfl⟩
      unfold PointEntry.write
      split <;> rfl
    · exact rfl'

theorem writeReading (a : Octet) (r : Reading) : SameKeys s (s.writeReading a r) := by
  cases r with
  | valves l => exact writeValves a l 0 s
  | drives l => exact writeDrives a l 0 s
  | points l => exact writePoints a l s

theorem arriveF (octets : List Octet) : SameKeys s (s.arriveF octets) := by
  unfold State.arriveF
  refine trans ?_ (sendU _)
  split
  · exact ((hearNode _ _).trans (writeReading _ _)).trans (ofWork (deliver_work _ _ _))
  · exact rfl'

/-! ### The proof scan -/

theorem setMisses (n count : Nat) : SameKeys s (s.setMisses n count) := updValve n fun _ => rfl

theorem handOver (waits : Bool) (l : List Handover) : SameKeys s (s.handOver waits l) := by
  unfold State.handOver
  refine trans (t := { s with handed := s.handed ++ l, freeCount := s.freeCount + 1 }) (ofTables rfl) ?_
  dsimp only
  split
  · exact rfl'
  · exact takeHanded

theorem judgeValve (waits : Bool) (n : Nat) (v : ValveEntry) (want : Feedback) :
    SameKeys s (s.judgeValve waits n v want) := by
  unfold State.judgeValve
  split
  · exact (offer _).trans (handOver _ _)
  · split
    · exact handOver _ _
    · exact offer _

theorem visit (waits : Bool) (n : Nat) (v : ValveEntry) : SameKeys s (s.visit waits n v) := by
  unfold State.visit
  split
  · exact setMisses _ _
  · split
    · exact setMisses _ _
    · split
      · exact setMisses _ _
      · exact (setMisses _ _).trans (judgeValve _ _ _ _)

theorem scan : SameKeys s s.scan := by
  unfold State.scan State.scanWith
  dsimp only
  refine trans (t := State.clearPassed { s with visitTimer := Timer.start s.config.visitPeriod.toNat }) ?_ ?_
  · exact trans (t := { s with visitTimer := Timer.start s.config.visitPeriod.toNat })
      (ofTables rfl) (foldl (fun s n => setMisses n 0) _ _)
  · split
    next x _ =>
      refine trans (t := { State.clearPassed _ with scanPointer := some x.1 }) ?_ (visit _ _ _)
      exact ofTables rfl
    next => exact rfl'

end SameKeys

end Sys2Proof.Machine

/-! ## Taken table writes keep the canonical form -/

namespace Sys2Proof.Machine

open Sys2Proof

/-! ### The judgements of R2, one by one -/

section judgements

@[simp] theorem firstFailure_nil : firstFailure [] = none := rfl

@[simp] theorem firstFailure_cons_eq_none {x : Option ContentFailure} {l : List (Option ContentFailure)} :
    firstFailure (x :: l) = none ↔ x = none ∧ firstFailure l = none := by
  simp [firstFailure]

@[simp] theorem firstFailure_append_eq_none {l m : List (Option ContentFailure)} :
    firstFailure (l ++ m) = none ↔ firstFailure l = none ∧ firstFailure m = none := by
  simp [firstFailure]

@[simp] theorem demand_eq_none {ok : Bool} {code : CheckCode} {n : Nat} : demand ok code n = none ↔ ok = true := by
  cases ok <;> simp [demand]

@[simp] theorem refuted_eq_none {code : CheckCode} {found : Option Nat} : refuted code found = none ↔ found = none :=
  Option.map_eq_none_iff

variable {s : State} {index : Word16} {t : TableId} {content : Content}

/-- A full entry is taken when its index is in range, its content may be rewritten, and no check fails. -/
theorem refuseWrite_full : s.refuseWrite (.full index content) = none ↔ index.toNat < (Content.table content).size
    ∧ s.inUse (Content.table content) index.toNat (some content) = none
    ∧ firstFailure (s.contentChecks index.toNat content) = none := by
  simp only [State.refuseWrite, State.refuseEntry]
  split
  · simp; omega
  · split
    · simp_all
    · simp_all

/-- An empty entry is taken when its index is in range, its content may be rewritten, and nothing refers to it. -/
theorem refuseWrite_empty : s.refuseWrite (.empty t index) = none ↔ index.toNat < t.size
    ∧ s.inUse t index.toNat none = none ∧ firstFailure (s.emptyChecks t index.toNat) = none := by
  simp only [State.refuseWrite, State.refuseEntry]
  split
  · simp; omega
  · split
    · simp_all
    · simp_all

end judgements

/-! ### What the checks of an entry establish -/

section checks

variable {s : State} {n : Nat}

theorem nodeChecks_pass {f : NodeFields} (h : firstFailure (s.nodeChecks n f) = none) :
    (NodeKind.ofCode f.kind).isSome = true
    ∧ Table.first (fun i e => i != n && e.address == f.address) s.nodes = none := by
  simp only [State.nodeChecks, firstFailure_cons_eq_none, demand_eq_none, refuted_eq_none] at h
  obtain ⟨-, kind, fresh, -⟩ := h
  exact ⟨kind, fresh⟩

theorem segmentChecks_pass {f : SegmentFields} (h : firstFailure (s.segmentChecks n f) = none) :
    (SegmentKind.ofCode f.kind).isSome = true ∧ segmentHeaderFits f = true := by
  simp only [State.segmentChecks, firstFailure_cons_eq_none, demand_eq_none] at h
  obtain ⟨kind, header, -⟩ := h
  exact ⟨kind, header⟩

theorem valveChecks_pass {f : ValveFields} (h : firstFailure (s.valveChecks n f) = none) :
    (ValveKind.ofCode f.kind).isSome = true
    ∧ Table.first (fun i v => i != n && v.node == f.node && v.slot == f.slot.toNat) s.valves = none := by
  simp only [State.valveChecks, firstFailure_cons_eq_none, demand_eq_none, refuted_eq_none] at h
  obtain ⟨-, -, kind, -, -, -, fresh, -⟩ := h
  exact ⟨kind, fresh⟩

theorem driveChecks_pass {f : DriveFields} (h : firstFailure (s.driveChecks n f) = none) :
    (DriveKind.ofCode f.kind).isSome = true ∧ f.minimum.toNat ≤ f.maximum.toNat
    ∧ Table.first (fun i d => i != n && d.node == f.node && d.channel == f.channel.toNat) s.drives = none := by
  simp only [State.driveChecks, firstFailure_cons_eq_none, demand_eq_none, refuted_eq_none, Bool.and_eq_true,
    decide_eq_true_eq] at h
  obtain ⟨-, -, kind, -, ⟨-, ordered⟩, -, fresh, -⟩ := h
  exact ⟨kind, ordered, fresh⟩

theorem pointChecks_pass {f : PointFields} (h : firstFailure (s.pointChecks n f) = none) :
    (PointKind.ofCode f.kind).isSome = true
    ∧ Table.first (fun i p => i != n && p.node == f.node && p.channel == f.channel.toNat) s.points = none := by
  simp only [State.pointChecks, firstFailure_cons_eq_none, demand_eq_none, refuted_eq_none] at h
  obtain ⟨-, -, kind, -, fresh, -⟩ := h
  exact ⟨kind, fresh⟩

end checks

/-! ### The keys of an entry as written -/

theorem address_nodeEntryOf (f : NodeFields) (old : Option NodeEntry) : (nodeEntryOf f old).address = f.address := by
  unfold nodeEntryOf
  split
  · dsimp only
    split
    next same => exact same.1
    next => rfl
  · rfl

theorem place_valveEntryOf (f : ValveFields) (old : Option ValveEntry) :
    (valveEntryOf f old).place = (f.node, f.slot.toNat) := by
  unfold valveEntryOf
  split
  · dsimp only
    split <;> rfl
  · rfl

theorem place_driveEntryOf (f : DriveFields) (old : Option DriveEntry) :
    (driveEntryOf f old).place = (f.node, f.channel.toNat) := by
  unfold driveEntryOf
  split
  · dsimp only
    split
    · split <;> rfl
    · rfl
  · rfl

theorem place_pointEntryOf (f : PointFields) (old : Option PointEntry) :
    (pointEntryOf f old).place = (f.node, f.channel.toNat) := by
  unfold pointEntryOf
  split
  · dsimp only
    split
    next same => exact Prod.ext same.1 same.2.1
    next => rfl
  · rfl

/-! ### Taken writes -/

section writes

variable {s t : State}

/-- An index below the size of a table is in range; DUPLICATE keeps the keys apart. -/
theorem putContent_canonical {n : Nat} {content : Content} (c : s.tablesCanonical)
    (range : n < (Content.table content).size) (checks : firstFailure (s.contentChecks n content) = none) :
    (s.putContent n content).tablesCanonical := by
  obtain ⟨nodes, segments, valves, drives, points, routes, recipes, dn, dv, dd, dp⟩ := c
  cases content with
  | nodeMap f =>
    obtain ⟨-, fresh⟩ := nodeChecks_pass checks
    refine ⟨tableFits_put nodes range, segments, valves, drives, points, routes, recipes,
      distinctBy_put nodes.1 dn (fresh_of_first fresh fun x e => ?_), dv, dd, dp⟩
    rw [address_nodeEntryOf] at e
    exact beq_iff_eq.2 e
  | segment f => exact ⟨nodes, tableFits_put segments range, valves, drives, points, routes, recipes, dn, dv, dd, dp⟩
  | valve f =>
    obtain ⟨-, fresh⟩ := valveChecks_pass checks
    simp only [Bool.and_assoc] at fresh
    refine ⟨nodes, segments, tableFits_put valves range, drives, points, routes, recipes,
      dn, distinctBy_put (key := ValveEntry.place) valves.1 dv (fresh_of_first fresh fun x e => ?_), dd, dp⟩
    rw [place_valveEntryOf] at e
    obtain ⟨node, slot⟩ := Prod.mk.inj e
    simp [node, slot]
  | drive f =>
    obtain ⟨-, -, fresh⟩ := driveChecks_pass checks
    simp only [Bool.and_assoc] at fresh
    refine ⟨nodes, segments, valves, tableFits_put drives range, points, routes, recipes,
      dn, dv, distinctBy_put (key := DriveEntry.place) drives.1 dd (fresh_of_first fresh fun x e => ?_), dp⟩
    rw [place_driveEntryOf] at e
    obtain ⟨node, channel⟩ := Prod.mk.inj e
    simp [node, channel]
  | point f =>
    obtain ⟨-, fresh⟩ := pointChecks_pass checks
    simp only [Bool.and_assoc] at fresh
    refine ⟨nodes, segments, valves, drives, tableFits_put points range, routes, recipes,
      dn, dv, dd, distinctBy_put (key := PointEntry.place) points.1 dp (fresh_of_first fresh fun x e => ?_)⟩
    rw [place_pointEntryOf] at e
    obtain ⟨node, channel⟩ := Prod.mk.inj e
    simp [node, channel]
  | station f =>
    unfold State.putContent
    dsimp only
    split <;> exact ⟨nodes, segments, valves, drives, points, routes, recipes, dn, dv, dd, dp⟩
  | header f =>
    unfold State.putContent
    dsimp only
    split <;> exact ⟨nodes, segments, valves, drives, points, routes, recipes, dn, dv, dd, dp⟩
  | route f => exact ⟨nodes, segments, valves, drives, points, tableFits_put routes range, recipes, dn, dv, dd, dp⟩
  | recipe l => exact ⟨nodes, segments, valves, drives, points, routes, tableFits_put recipes range, dn, dv, dd, dp⟩

theorem removeEntry_canonical (table : TableId) (n : Nat) (c : s.tablesCanonical) :
    (s.removeEntry table n).tablesCanonical := by
  obtain ⟨nodes, segments, valves, drives, points, routes, recipes, dn, dv, dd, dp⟩ := c
  cases table with
  | nodeMap =>
    exact ⟨tableFits_remove n nodes, segments, valves, drives, points, routes, recipes,
      distinctBy_remove n dn, dv, dd, dp⟩
  | segment => exact ⟨nodes, tableFits_remove n segments, valves, drives, points, routes, recipes, dn, dv, dd, dp⟩
  | valve =>
    exact ⟨nodes, segments, tableFits_remove n valves, drives, points, routes, recipes,
      dn, distinctBy_remove n dv, dd, dp⟩
  | drive =>
    exact ⟨nodes, segments, valves, tableFits_remove n drives, points, routes, recipes,
      dn, dv, distinctBy_remove n dd, dp⟩
  | point =>
    exact ⟨nodes, segments, valves, drives, tableFits_remove n points, routes, recipes,
      dn, dv, dd, distinctBy_remove n dp⟩
  | station =>
    unfold State.removeEntry
    dsimp only
    split <;> exact ⟨nodes, segments, valves, drives, points, routes, recipes, dn, dv, dd, dp⟩
  | header =>
    unfold State.removeEntry
    dsimp only
    split <;> exact ⟨nodes, segments, valves, drives, points, routes, recipes, dn, dv, dd, dp⟩
  | route => exact ⟨nodes, segments, valves, drives, points, tableFits_remove n routes, recipes, dn, dv, dd, dp⟩
  | recipe => exact ⟨nodes, segments, valves, drives, points, routes, tableFits_remove n recipes, dn, dv, dd, dp⟩

/-- A write that no judgement of R2 refuses keeps the canonical form. -/
theorem applyWrite_canonical {w : TableWrite} (taken : s.refuseWrite w = none) (c : s.tablesCanonical) :
    (s.applyWrite w).tablesCanonical := by
  cases w with
  | unknown code => exact c
  | empty table index => exact removeEntry_canonical table index.toNat c
  | full index content =>
    obtain ⟨range, -, checks⟩ := refuseWrite_full.1 taken
    exact putContent_canonical c range checks

/-- The walk that follows a write changes no index and no key. -/
theorem takeWrite_canonical {w : TableWrite} (taken : s.refuseWrite w = none) (c : s.tablesCanonical) :
    (s.takeWrite w).tablesCanonical := by
  have applied := applyWrite_canonical taken c
  unfold State.takeWrite
  dsimp only
  split
  · exact (SameKeys.ofClaimed (.walk _)).canonical applied
  · exact applied

end writes

end Sys2Proof.Machine

/-! ## Every step keeps the canonical form -/

namespace Sys2Proof.Machine

open Sys2Proof

/-! ### Requests -/

section requests

variable {s : State} {k : Slot}

/-- An action that keeps the tables canonical. -/
def Action.keepsCanonical (act : Action) : Prop := ∀ s : State, s.tablesCanonical → (act s).1.tablesCanonical

/-- What answers a request and hears the link changes no table. -/
theorem requestArrives_canonical {act : Action} (h : act.keepsCanonical) (a : Ask) (c : s.tablesCanonical) :
    (s.requestArrives a act).tablesCanonical := by
  refine SameKeys.linkHeard.canonical ?_
  unfold State.takeRequest
  split
  · exact (SameKeys.sendU _).canonical c
  · split
    · exact (SameKeys.sendU _).canonical c
    · exact (SameKeys.sendU _).canonical (h _ c)

/-- An action that changes no index and no key. -/
theorem Action.keepsCanonical_of_sameKeys {act : Action} (h : ∀ s, SameKeys s (act s).1) : act.keepsCanonical :=
  fun s => (h s).canonical

theorem badRequest_keepsCanonical : badRequest.keepsCanonical := fun _ => id

theorem writeConfig_keepsCanonical (r : ConfigRecord) : (writeConfig r).keepsCanonical := by
  intro s c
  unfold writeConfig
  split <;> exact c

theorem writeTable1_keepsCanonical (w : TableWrite) : (writeTable1 w).keepsCanonical := by
  intro s c
  unfold writeTable1
  split
  next => exact c
  next taken =>
    have dropped : (s.dropStaging w).refuseWrite w = none ∧ (s.dropStaging w).tablesCanonical := by
      unfold State.dropStaging
      dsimp only
      split
      · split <;> exact ⟨taken, c⟩
      · split <;> exact ⟨taken, c⟩
      · exact ⟨taken, c⟩
    exact takeWrite_canonical dropped.1 dropped.2

theorem stageFirst_keepsCanonical (index : Word16) (count : Octet) (steps : List StepFields) :
    (stageFirst index count steps).keepsCanonical := by
  intro s c
  unfold stageFirst
  split <;> exact c

theorem completeRecipe_keepsCanonical (index : Word16) (steps : List StepFields) :
    (completeRecipe index steps).keepsCanonical := by
  intro s c
  unfold completeRecipe
  split
  · exact c
  · split
    · exact c
    · dsimp only
      split
      next => exact c
      next taken => exact takeWrite_canonical taken c

theorem readTable_keepsCanonical (code : Octet) (index : Word16) (part : Option Octet) :
    (readTable code index part).keepsCanonical := by
  intro s c
  unfold readTable
  split
  · exact c
  · split
    · exact c
    · split <;> exact c

theorem startAction_keepsCanonical (slot recipe route cls : Octet) :
    (startAction slot recipe route cls).keepsCanonical := by
  intro s c
  unfold startAction
  split
  · exact c
  · split
    · exact c
    · split
      · exact c
      · split
        · exact c
        · split
          · exact c
          · exact (SameKeys.ofClaimed (.startRound _ _ _ _ _)).canonical c

/-- PAUSE is work on the round it pauses (R103). -/
theorem suspend_work {P : Slot → Prop} {Q : Prop} (p : P k) : Work P Q s (s.suspend k) := by
  unfold State.suspend
  dsimp only
  refine Work.enter (Work.upd ?_ p ?edit) p _
  case edit => exact fun _ => ⟨rfl, rfl, rfl, rfl, rfl, fun _ => rfl⟩
  have closed : Work P Q s (s.closeLift k) := Work.closeLift .rfl' p
  split
  · split
    · exact Work.commandValve (Work.commandDrives closed _ _ _) _ _
    · exact Work.commandDrives closed _ _ _
  · exact closed

/-- What a round control action leaves, where it gives an outcome. -/
theorem control_keepsCanonical {act : Slot → State → Option State} (h : ∀ k s t, act k s = some t → SameKeys s t)
    (slot : Octet) : (control act slot).keepsCanonical := by
  refine Action.keepsCanonical_of_sameKeys fun s => ?_
  unfold control
  split
  · exact .rfl'
  · split
    next e => exact h _ _ _ e
    next => exact .rfl'

theorem pauseRound_sameKeys {t : State} (h : pauseRound k s = some t) : SameKeys s t := by
  have suspend : SameKeys s (s.suspend k) := .ofWork (suspend_work (P := fun _ => True) (Q := True) trivial)
  unfold pauseRound at h
  split at h
  · exact Option.some.inj h ▸ suspend
  · exact Option.some.inj h ▸ suspend
  · cases h

theorem resumeRound_sameKeys {t : State} (h : resumeRound k s = some t) : SameKeys s t := by
  unfold resumeRound at h
  split at h
  · exact Option.some.inj h ▸ (SameKeys.updRound _ _).trans (.cascade _)
  · cases h

theorem abortRound_sameKeys {t : State} (h : abortRound k s = some t) : SameKeys s t := by
  have waiting : SameKeys s ((s.leaveQueues k).cascade [.ending k .aborted]) :=
    .ofWork (Work.anyCascade (Work.leaveQueues .rfl' trivial) _)
  unfold abortRound at h
  cases state : (s.round k).state <;> rw [state] at h <;> dsimp only at h
  case idle | done | faulted => cases h
  case waitRoute => exact Option.some.inj h ▸ .ofClaimed (.abandonWait s k)
  case waitStation => exact Option.some.inj h ▸ waiting
  case setting | stepFill | stepTiming | paused => exact Option.some.inj h ▸ .cascade _
  case ending => exact Option.some.inj h ▸ .rfl'
  case holding =>
    split at h
    · exact Option.some.inj h ▸ .rfl'
    · exact Option.some.inj h ▸ .cascade _

theorem releaseRound_sameKeys {t : State} (h : releaseRound k s = some t) : SameKeys s t := by
  unfold releaseRound at h
  split at h
  · split at h
    · exact Option.some.inj h ▸ .ofClaimed (.releaseBreach s k)
    · exact Option.some.inj h ▸ (SameKeys.updRound _ _).trans (.cascade _)
  · cases h

theorem clearRound_sameKeys {t : State} (h : clearRound k s = some t) : SameKeys s t := by
  unfold clearRound at h
  split at h
  · exact Option.some.inj h ▸ (SameKeys.updRound _ _).trans (.ofClaimed (.enter _ _ _))
  · cases h

theorem controlAction_keepsCanonical (slot action : Octet) : (controlAction slot action).keepsCanonical := by
  unfold controlAction
  split
  · exact control_keepsCanonical (fun _ _ _ => pauseRound_sameKeys) slot
  · exact control_keepsCanonical (fun _ _ _ => resumeRound_sameKeys) slot
  · exact control_keepsCanonical (fun _ _ _ => abortRound_sameKeys) slot
  · exact control_keepsCanonical (fun _ _ _ => releaseRound_sameKeys) slot
  · exact control_keepsCanonical (fun _ _ _ => clearRound_sameKeys) slot
  · intro s c
    dsimp only
    split <;> exact c

theorem readRound_keepsCanonical (slot : Octet) : (readRound slot).keepsCanonical := by
  intro s c
  unfold readRound
  split <;> exact c

/-! ### Marks, fetches and RESTART -/

theorem onSegment_keepsCanonical {act : Nat → SegmentState → Action} (h : ∀ n st, (act n st).keepsCanonical)
    (segment : Octet) : (onSegment segment act).keepsCanonical := by
  intro s c
  unfold onSegment
  split
  · split
    · exact h _ _ s c
    · exact c
  · exact c

/-- A segment that becomes FREE, and the walk that follows (R60, R62). -/
theorem setFree_sameKeys (n : Nat) : SameKeys s (s.setSegState n .free).walk :=
  .ofClaimed ((Claimed.setSegState s n .free).trans (.walk _))

theorem markProduct_keepsCanonical (n : Nat) (st : SegmentState) : (markProduct n st).keepsCanonical := by
  intro s c
  unfold markProduct
  split
  · split
    · exact c
    · exact (SameKeys.ofClaimed (.setSegState s n _)).canonical c
  · exact c
  · exact c

theorem markFree_keepsCanonical (n : Nat) (st : SegmentState) : (markFree n st).keepsCanonical := by
  intro s c
  unfold markFree
  split
  · exact c
  · exact (setFree_sameKeys n).canonical c
  · exact c

theorem clearSuspect_keepsCanonical (n : Nat) (st : SegmentState) : (clearSuspect n st).keepsCanonical := by
  intro s c
  unfold clearSuspect
  split
  · exact (setFree_sameKeys n).canonical c
  · exact c

theorem markAction_keepsCanonical (segment mark : Octet) : (markAction segment mark).keepsCanonical := by
  unfold markAction
  split
  · exact onSegment_keepsCanonical markFree_keepsCanonical segment
  · exact onSegment_keepsCanonical markProduct_keepsCanonical segment
  · exact onSegment_keepsCanonical (fun _ _ => badRequest_keepsCanonical) segment

theorem fetchTake_keepsCanonical (count : Octet) : (fetchTake count).keepsCanonical := by
  intro s c
  unfold fetchTake
  split <;> exact c

theorem fetchRepeat_keepsCanonical (count : Octet) : (fetchRepeat count).keepsCanonical := by
  intro s c
  unfold fetchRepeat
  split
  · split <;> exact c
  · exact c

theorem fetchAction_keepsCanonical (mode count : Octet) : (fetchAction mode count).keepsCanonical := by
  unfold fetchAction
  split
  · exact fetchTake_keepsCanonical count
  · exact fetchRepeat_keepsCanonical count
  · exact badRequest_keepsCanonical

theorem suspectRoute_sameKeys (k : Slot) : SameKeys s (s.suspectRoute k) := by
  unfold State.suspectRoute
  split
  · exact .ofClaimed (.setSegStates s _ _)
  · exact .rfl'

theorem dropRound_sameKeys (k : Slot) : SameKeys s (s.dropRound k) := by
  unfold State.dropRound
  split
  · exact .updRound _ _
  · exact .rfl'

theorem dropOwners_sameKeys : SameKeys s s.dropOwners := by
  unfold State.dropOwners
  refine ⟨rfl, rfl, ?_, ?_, rfl, rfl, rfl⟩ <;> dsimp only <;> refine Table.keys_each (fun _ _ => ?_) _ <;> rfl

theorem freeAll_sameKeys : SameKeys s s.freeAll := by
  unfold State.freeAll
  dsimp only
  refine SameKeys.trans (SameKeys.foldl (fun s k => ?_) allStations s) (SameKeys.foldl (fun s h => ?_) allHeaders _)
  · exact SameKeys.updStation k _
  · exact SameKeys.updHeader h _

theorem restarted_sameKeys : SameKeys s s.restarted := by
  unfold State.restarted
  dsimp only
  exact SameKeys.trans (t := { s with staging := none, lastFetch := none, events := [], overflow := false })
    (.ofTables rfl) (.offer _)

/-- The parts of R204 write segment states, owners, grant states and diverter states, and no loaded field. -/
theorem restartAll_sameKeys : SameKeys s s.restartAll := by
  have rounds := (SameKeys.foldl (fun s k => suspectRoute_sameKeys (s := s) k) allSlots s).trans
    (SameKeys.foldl (fun s k => dropRound_sameKeys (s := s) k) allSlots _)
  exact ((rounds.trans dropOwners_sameKeys).trans freeAll_sameKeys).trans restarted_sameKeys

theorem restartAction_keepsCanonical : restartAction.keepsCanonical := by
  intro s c
  unfold restartAction
  split
  · exact c
  · exact restartAll_sameKeys.canonical c

/-- Every request of the table (R183). -/
theorem actionOf_keepsCanonical (r : Request) : (actionOf r).keepsCanonical := by
  cases r with
  | configWrite record => exact writeConfig_keepsCanonical record
  | configRead => exact fun _ => id
  | tableWrite w => exact writeTable1_keepsCanonical w
  | recipeFirstPart index count steps => exact stageFirst_keepsCanonical index count steps
  | recipeSecondPart index steps => exact completeRecipe_keepsCanonical index steps
  | tableRead table index part => exact readTable_keepsCanonical table index part
  | roundStart slot recipe route cls => exact startAction_keepsCanonical slot recipe route cls
  | roundControl slot action => exact controlAction_keepsCanonical slot action
  | roundRead slot => exact readRound_keepsCanonical slot
  | segmentMark segment mark => exact markAction_keepsCanonical segment mark
  | suspectClear segment => exact onSegment_keepsCanonical clearSuspect_keepsCanonical segment
  | eventFetch mode count => exact fetchAction_keepsCanonical mode count
  | restart => exact restartAction_keepsCanonical

theorem frameAction_keepsCanonical (f : Frame) : (frameAction f).keepsCanonical := by
  unfold frameAction
  split
  · split
    · exact actionOf_keepsCanonical _
    · exact badRequest_keepsCanonical
  · exact badRequest_keepsCanonical

theorem arriveU_canonical (octets : List Octet) (c : s.tablesCanonical) : (s.arriveU octets).tablesCanonical := by
  unfold State.arriveU
  split
  · split
    · exact requestArrives_canonical (frameAction_keepsCanonical _) _ c
    · exact ((SameKeys.relayGood _ _).trans .linkHeard).canonical c
  · exact (SameKeys.relayBad _).canonical c

end requests

end Sys2Proof.Machine

namespace Sys2Proof.Machine

open Sys2Proof

/-! ### Power-on and the image -/

section image

variable {s : State}

/-- Empty tables are canonical. -/
theorem canonical_of_empty (nodes : s.nodes = []) (segments : s.segments = []) (valves : s.valves = [])
    (drives : s.drives = []) (points : s.points = []) (routes : s.routes = []) (recipes : s.recipes = []) :
    s.tablesCanonical := by
  unfold State.tablesCanonical
  rw [nodes, segments, valves, drives, points, routes, recipes]
  simp [tableFits, distinctBy, Table.wf]

theorem imageBad_sameKeys (cause : ImageCause) (record : Option Nat) : SameKeys s (s.imageBad cause record) :=
  (SameKeys.offer (s := s) _).trans (.ofTables rfl)

theorem imageLoaded_sameKeys (applied : Nat) : SameKeys s (s.imageLoaded applied) :=
  (SameKeys.offer (s := s) _).trans (.ofTables rfl)

theorem readHeader_sameKeys (octets : List Octet) : SameKeys s (s.readHeader octets) := by
  unfold State.readHeader
  split
  · split
    · exact .ofTables rfl
    · split
      · exact (SameKeys.offer (s := s) _).trans (.ofTables rfl)
      · exact imageBad_sameKeys _ _
  · exact imageBad_sameKeys _ _

theorem endFirstPass_sameKeys (length : Nat) (check : Word16) (octets : List Octet) :
    SameKeys s (s.endFirstPass length check octets) := by
  unfold State.endFirstPass
  split
  · exact imageBad_sameKeys _ _
  · split
    · exact imageBad_sameKeys _ _
    · split
      · exact imageLoaded_sameKeys _
      · exact .ofTables rfl

/-- A record that fails empties every table (R202). -/
theorem failRecord_canonical (cause : ImageCause) (record : Nat) : (s.failRecord cause record).tablesCanonical :=
  (imageBad_sameKeys cause _).canonical (canonical_of_empty rfl rfl rfl rfl rfl rfl rfl)

theorem applyRecord_canonical {r : ImageRecord} {t : State} (h : s.applyRecord r = some t) (c : s.tablesCanonical) :
    t.tablesCanonical := by
  unfold State.applyRecord at h
  split at h
  · split at h
    · cases h
    · exact Option.some.inj h ▸ c
  · split at h
    next => cases h
    next taken => exact Option.some.inj h ▸ takeWrite_canonical taken c

theorem takeRecord_canonical (length position applied n : Nat) (octets : List Octet) (c : s.tablesCanonical) :
    (s.takeRecord length position applied n octets).tablesCanonical := by
  unfold State.takeRecord
  split
  next => exact failRecord_canonical _ _
  next t taken =>
    obtain ⟨r, -, applied⟩ := Option.bind_eq_some_iff.1 taken
    have ct := applyRecord_canonical applied c
    split
    · exact (imageLoaded_sameKeys _).canonical ct
    · exact ct

theorem readRecord_canonical (length position applied : Nat) (octets : List Octet) (c : s.tablesCanonical) :
    (s.readRecord length position applied octets).tablesCanonical := by
  unfold State.readRecord
  dsimp only
  split
  · exact failRecord_canonical _ _
  · split <;> exact failRecord_canonical _ _
  · split
    · exact failRecord_canonical _ _
    · split
      · exact failRecord_canonical _ _
      · exact takeRecord_canonical _ _ _ _ _ c

end image

/-! ### Timers -/

section timers

variable {s : State} {k : Slot}

theorem age_sameKeys : SameKeys s (s.age k) := by
  unfold State.age
  split
  · exact (SameKeys.updRound _ _).trans (.offer _)
  · exact (SameKeys.updRound _ _).trans (.offer _)
  · exact .updRound _ _

theorem nextPulse_sameKeys (n pulse : Nat) : SameKeys s (s.nextPulse k n pulse) := by
  have lifted : ∀ n p, SameKeys s (s.startLifted k n p) := fun n p =>
    .ofWork (Work.startLifted (P := fun _ => True) (Q := True) .rfl' trivial n p)
  unfold State.nextPulse
  split
  · exact lifted _ _
  · split
    · exact lifted _ _
    · exact (SameKeys.updRound _ _).trans (.cascade _)

theorem liftElapses_sameKeys : SameKeys s (s.liftElapses k) := by
  unfold State.liftElapses
  split
  · exact .ofWork (Work.startClosed (P := fun _ => True) (Q := True) .rfl' trivial _ _)
  · exact nextPulse_sameKeys _ _
  · exact .rfl'

theorem drainElapses_sameKeys : SameKeys s (if (s.round k).state = .ending then s.finishRound k else s) := by
  split
  · exact .ofClaimed (.finishRound s k)
  · exact .rfl'

theorem takePending_sameKeys (h : HeaderId) : SameKeys s (s.takePending h) :=
  .ofWork (Work.takePending (P := fun _ => True) (Q := True) .rfl' h)

theorem finishIn_sameKeys (h : HeaderId) : SameKeys s (s.finishIn h) :=
  .ofWork (Work.finishIn (P := fun _ => True) (Q := True) .rfl' h)

theorem interfaceLong_sameKeys (h : HeaderId) : SameKeys s (s.interfaceLong h) :=
  .ofWork (Work.interfaceLong (P := fun _ => True) (Q := True) .rfl' h)

theorem tick_sameKeys : SameKeys s s.tick := by
  unfold State.tick
  split
  · exact .takeHanded
  · exact .pass 1
  · exact .ofTables rfl

end timers

/-! ### The step -/

/-- A command that ends in a state with canonical tables. -/
theorem canonical_of_next {t u : State} (e : Host.Outcome.next (φ := Fault) (ρ := Refusal) u = .next t)
    (c : u.tablesCanonical) : t.tablesCanonical := by
  cases e
  exact c

theorem exec_canonical {i : Instr} {s t : State} (c : s.tablesCanonical) (e : exec i s = .next t) :
    t.tablesCanonical := by
  have request : ∀ {act : Action} (_ : act.keepsCanonical) (a : Ask),
      .next (s.requestArrives a act) = Host.Outcome.next (φ := Fault) (ρ := Refusal) t → t.tablesCanonical :=
    fun keeps a e => canonical_of_next e (requestArrives_canonical keeps a c)
  have timer : ∀ {u : State}, SameKeys s u → .next u = Host.Outcome.next (φ := Fault) (ρ := Refusal) t →
      t.tablesCanonical := fun same e => canonical_of_next e (same.canonical c)
  cases i with
  | powerOn => exact canonical_of_next e (canonical_of_empty rfl rfl rfl rfl rfl rfl rfl)
  | imageHeaderRead octets =>
    simp only [exec, execImageHeaderRead] at e
    split at e
    · exact timer (readHeader_sameKeys octets) e
    · exact timer .rfl' e
  | imageFirstPassEnd octets =>
    simp only [exec, execImageFirstPassEnd] at e
    split at e
    · exact timer (endFirstPass_sameKeys _ _ octets) e
    · exact timer .rfl' e
  | imageRecordApply octets =>
    simp only [exec, execImageRecordApply] at e
    split at e
    · exact canonical_of_next e (readRecord_canonical _ _ _ octets c)
    · exact timer .rfl' e
  | frameArrivalU octets =>
    exact canonical_of_next e (arriveU_canonical (s := { s with rxU := [] }) (s.rxU ++ octets) c)
  | frameArrivalF octets =>
    exact timer (SameKeys.trans (t := { s with rxF := [] }) (.ofTables rfl) (.arriveF _)) e
  | linkSilenceExpiry => exact timer (.expire (fun _ => .linkExpires) _) e
  | nodeSilenceExpiry node =>
    simp only [exec, execNodeSilenceExpiry] at e
    split at e
    · exact timer (.expire (fun _ => .nodeExpires _ _) _) e
    · exact timer .rfl' e
  | answerSent => exact timer (u := s.answerLeaves) (.ofTables rfl) e
  | configWrite a record => exact request (writeConfig_keepsCanonical record) a e
  | configRead a => exact request (act := readConfig) (fun _ => id) a e
  | tableWrite a w => exact request (writeTable1_keepsCanonical w) a e
  | recipeFirstPart a index count steps =>
    refine request (act := if steps.length = 6 then stageFirst index count steps else badRequest) ?_ a e
    split
    · exact stageFirst_keepsCanonical index count steps
    · exact badRequest_keepsCanonical
  | recipeSecondPart a index steps => exact request (completeRecipe_keepsCanonical index steps) a e
  | tableRead a table index part =>
    refine request (act := if part.isSome = (table == tableCode .recipe) then readTable table index part
      else badRequest) ?_ a e
    split
    · exact readTable_keepsCanonical table index part
    · exact badRequest_keepsCanonical
  | roundStart a slot recipe route cls => exact request (startAction_keepsCanonical slot recipe route cls) a e
  | pause a slot => exact request (control_keepsCanonical (fun _ _ _ => pauseRound_sameKeys) slot) a e
  | resume a slot => exact request (control_keepsCanonical (fun _ _ _ => resumeRound_sameKeys) slot) a e
  | abort a slot => exact request (control_keepsCanonical (fun _ _ _ => abortRound_sameKeys) slot) a e
  | release a slot => exact request (control_keepsCanonical (fun _ _ _ => releaseRound_sameKeys) slot) a e
  | clear a slot => exact request (control_keepsCanonical (fun _ _ _ => clearRound_sameKeys) slot) a e
  | roundRead a slot => exact request (readRound_keepsCanonical slot) a e
  | segmentMarkProduct a n => exact request (onSegment_keepsCanonical markProduct_keepsCanonical n) a e
  | segmentMarkFree a n => exact request (onSegment_keepsCanonical markFree_keepsCanonical n) a e
  | suspectClear a n => exact request (onSegment_keepsCanonical clearSuspect_keepsCanonical n) a e
  | eventFetchTake a count => exact request (fetchTake_keepsCanonical count) a e
  | eventFetchRepeat a count => exact request (fetchRepeat_keepsCanonical count) a e
  | restart a => exact request restartAction_keepsCanonical a e
  | travelTimerExpiry k => exact timer (.expire (fun _ => .cascade _) _) e
  | ageingTimerExpiry k => exact timer (.expire (fun _ => age_sameKeys) _) e
  | fillTimerExpiry k => exact timer (.expire (fun _ => .cascade _) _) e
  | wallTimerExpiry k => exact timer (.expire (fun _ => .cascade _) _) e
  | holdTimeReached k =>
    simp only [exec, execHoldTimeReached] at e
    split at e
    · exact timer ((SameKeys.pass _).trans (.cascade _)) e
    · exact timer (.cascade _) e
  | liftTimerExpiry k => exact timer (.expire (fun _ => liftElapses_sameKeys) _) e
  | holdLimitExpiry k => exact timer (.expire (fun _ => .cascade _) _) e
  | drainHoldElapse k => exact timer (.expire (fun _ => drainElapses_sameKeys) _) e
  | drainMaximumExpiry k => exact timer (.expire (fun _ => .cascade _) _) e
  | interfaceOutHoldElapse h =>
    simp only [exec, execInterfaceOutHoldElapse] at e
    split at e
    · exact timer (.expire (fun _ => takePending_sameKeys h) _) e
    · exact timer .rfl' e
  | interfaceInHoldElapse h =>
    simp only [exec, execInterfaceInHoldElapse] at e
    split at e
    · exact timer (.expire (fun _ => finishIn_sameKeys h) _) e
    · exact timer .rfl' e
  | interfaceMaximumExpiry h => exact timer (.expire (fun _ => interfaceLong_sameKeys h) _) e
  | visitTimerExpiry => exact timer (SameKeys.takeHanded.trans (.expire (fun _ => .scan) _)) e

/-- Settles O51: a table write is taken only below the table's size and past its DUPLICATE check, a failed image record
empties the tables, and everything else leaves the indexes and keys of every table alone. -/
theorem stepKeepsTablesCanonical : Obligations.StepKeepsTablesCanonical := by
  intro s t c e
  unfold step at e
  split at e
  next i rest _ => exact exec_canonical (s := { s with pending := rest }) c e
  next => exact canonical_of_next e (tick_sameKeys.canonical c)

end Sys2Proof.Machine

/-! ## Power-on values (R199) -/

namespace Sys2Proof.Machine

open Sys2Proof

theorem station_reset (st : StationId) : State.reset.station st = Station.empty := Vector.getElem_replicate st.isLt

theorem header_reset (h : HeaderId) : State.reset.header h = Header.empty := Vector.getElem_replicate h.isLt

theorem round_reset (k : Slot) : State.reset.round k = Round.idle := Vector.getElem_replicate k.isLt

/-- The record of an IDLE slot holds the values of R82. -/
theorem idle_asAtPowerOn : Round.idle.asAtPowerOn :=
  ⟨rfl, rfl, rfl, rfl, rfl, rfl, rfl, rfl, rfl, rfl, rfl, rfl, rfl, rfl, rfl, rfl, rfl, rfl, rfl, rfl, rfl⟩

/-- Settles O3: every field as `State.reset` gives it, each station, header and record read from its replicated
vector. -/
theorem resetState : Obligations.ResetState := by
  refine ⟨rfl, rfl, rfl, rfl, rfl, rfl, rfl, rfl, rfl, station_reset, header_reset, fun k => ?_, rfl, rfl, rfl, rfl, rfl,
    rfl, rfl, rfl, rfl, rfl, rfl, rfl, rfl, rfl⟩
  rw [round_reset]
  exact idle_asAtPowerOn

end Sys2Proof.Machine

/-! ## The judgement of a configuration record (R6) -/

namespace Sys2Proof.Machine

open Sys2Proof

/-- Every field of the record lies in its range (R6). -/
def inConfigRanges (c : ConfigRecord) : Prop :=
  240 ≤ c.ownAddress.toNat ∧ c.ownAddress.toNat ≤ 254
  ∧ 100 ≤ c.linkSilence.toNat ∧ c.linkSilence.toNat ≤ 5000
  ∧ 50 ≤ c.nodeSilence.toNat ∧ c.nodeSilence.toNat ≤ 5000
  ∧ (c.visitPeriod = 25 ∨ c.visitPeriod = 50 ∨ c.visitPeriod = 100 ∨ c.visitPeriod = 200)
  ∧ 1 ≤ c.lockTravel.toNat ∧ c.lockTravel.toNat ≤ 600
  ∧ 1 ≤ c.ageB.toNat ∧ c.ageB.toNat ≤ 3600 ∧ 1 ≤ c.ageC.toNat ∧ c.ageC.toNat ≤ 3600
  ∧ 1 ≤ c.causticLimit.toNat ∧ c.causticLimit.toNat ≤ 20000
  ∧ 1 ≤ c.acidLimit.toNat ∧ c.acidLimit.toNat ≤ 20000
  ∧ 1 ≤ c.interfaceHold.toNat ∧ c.interfaceHold.toNat ≤ 600
  ∧ 1 ≤ c.interfaceMax.toNat ∧ c.interfaceMax.toNat ≤ 3600
  ∧ c.drainFlow.toNat ≤ 60000
  ∧ 1 ≤ c.drainHold.toNat ∧ c.drainHold.toNat ≤ 600
  ∧ 1 ≤ c.drainMax.toNat ∧ c.drainMax.toNat ≤ 3600
  ∧ c.eventMask.toNat < 2 ^ 20

/-- The mask names a kind that cannot be masked (R6, R191). -/
def namesUnmaskable (c : ConfigRecord) : Bool :=
  c.eventMask.getLsbD 2 || c.eventMask.getLsbD 9 || c.eventMask.getLsbD 18 || c.eventMask.getLsbD 19

section record

variable {c : ConfigRecord}

@[simp] theorem within_iff {low high n : Nat} : within low high n = true ↔ low ≤ n ∧ n ≤ high := by
  simp [within]

theorem firstFailure_append (l m : List (Option ContentFailure)) :
    firstFailure (l ++ m) = (firstFailure l).or (firstFailure m) := List.findSome?_append

/-- The failure found is one of the checks. -/
theorem firstFailure_mem {l : List (Option ContentFailure)} {f : ContentFailure} (h : firstFailure l = some f) :
    some f ∈ l := by
  obtain ⟨x, mem, rfl⟩ := List.exists_of_findSome?_eq_some h
  exact mem

theorem code_of_demand {ok : Bool} {code : CheckCode} {n : Nat} {f : ContentFailure} (h : demand ok code n = some f) :
    f.code = code := by
  cases ok <;> cases h
  rfl

theorem visitPeriods_contains (o : Octet) :
    [25, 50, 100, 200].contains o.toNat = true ↔ o = 25 ∨ o = 50 ∨ o = 100 ∨ o = 200 := by
  simp only [← BitVec.toNat_inj]
  simp

theorem configRanges_pass : firstFailure (configRanges c) = none ↔ inConfigRanges c := by
  simp only [configRanges, firstFailure_cons_eq_none, firstFailure_nil, demand_eq_none, within_iff,
    visitPeriods_contains, decide_eq_true_eq, inConfigRanges, and_assoc, Nat.zero_le, true_and, and_true]

/-- Every check of a range fails with RANGE. -/
theorem configRanges_code {f : ContentFailure} (h : firstFailure (configRanges c) = some f) : f.code = .range := by
  have one := firstFailure_mem h
  simp only [configRanges, List.mem_cons, List.not_mem_nil, or_false] at one
  rcases one with e | e | e | e | e | e | e | e | e | e | e | e | e | e | e <;> exact code_of_demand e.symm

theorem unmaskableNamed_eq_none : unmaskableNamed c = none ↔ namesUnmaskable c = false := by
  simp [unmaskableNamed, maskNames, namesUnmaskable, EventKind.position, and_assoc]

theorem configFailure_eq (c : ConfigRecord) :
    configFailure c = (firstFailure (configRanges c)).or (refuted .unmaskable (unmaskableNamed c)) := by
  unfold configFailure
  rw [firstFailure_append]
  cases unmaskableNamed c <;> rfl

theorem configFailure_eq_none : configFailure c = none ↔ inConfigRanges c ∧ namesUnmaskable c = false := by
  rw [configFailure_eq, Option.or_eq_none_iff, configRanges_pass, refuted_eq_none, unmaskableNamed_eq_none]

/-- With the fields in range, the mask alone can fail the record. -/
theorem configFailure_unmaskable (ranges : inConfigRanges c) (named : namesUnmaskable c = true) :
    ∃ n, configFailure c = some ⟨.unmaskable, n⟩ := by
  rw [configFailure_eq, configRanges_pass.2 ranges, Option.none_or]
  cases kind : unmaskableNamed c with
  | none => rw [unmaskableNamed_eq_none.1 kind] at named; cases named
  | some n => exact ⟨n, rfl⟩

/-- A field out of range is found before the mask is looked at. -/
theorem configFailure_range (out : ¬inConfigRanges c) : ∃ n, configFailure c = some ⟨.range, n⟩ := by
  rw [configFailure_eq]
  cases found : firstFailure (configRanges c) with
  | none => exact absurd (configRanges_pass.1 found) out
  | some f =>
    obtain ⟨code, subject⟩ := f
    obtain rfl : code = .range := configRanges_code found
    exact ⟨subject, rfl⟩

end record

/-- Settles O8: the fifteen range checks stand before the check of the mask. -/
theorem configRecordJudgement : Obligations.ConfigRecordJudgement :=
  fun _ => ⟨configFailure_eq_none, configFailure_unmaskable, configFailure_range⟩

end Sys2Proof.Machine

/-! ## Configuration requests (R6, R8, R185) -/

namespace Sys2Proof.Machine

open Sys2Proof

section active

variable {s : State} {k : Slot}

theorem lowestActive_eq_none (h : ∀ k, s.active k = false) : s.lowestActive = none :=
  List.find?_eq_none.2 fun k _ => by simp [h k]

theorem mem_allSlots (k : Slot) : k ∈ allSlots := by
  revert k
  decide

theorem allSlots_ascending : allSlots.Pairwise (· < ·) := by decide

theorem lowestActive_eq_some (h : s.active k = true) (lower : ∀ j, j < k → s.active j = false) :
    s.lowestActive = some k := by
  obtain ⟨before, after, split⟩ := List.append_of_mem (mem_allSlots k)
  have below : ∀ j ∈ before, j < k := fun j mem =>
    (List.pairwise_append.1 (split ▸ allSlots_ascending)).2.2 j mem k List.mem_cons_self
  exact List.find?_eq_some_iff_append.2 ⟨h, before, after, split, fun j mem => by simp [lower j (below j mem)]⟩

theorem roundsActive_eq_none (h : ∀ k, s.active k = false) : s.roundsActive = none := by
  rw [State.roundsActive, lowestActive_eq_none h]
  rfl

theorem roundsActive_eq_some (h : s.active k = true) (lower : ∀ j, j < k → s.active j = false) :
    s.roundsActive = some ⟨.roundsActive, none, some k.val, []⟩ := by
  rw [State.roundsActive, lowestActive_eq_some h lower]
  rfl

end active

section requests

variable {s : State} {a : Ask} {c : ConfigRecord}

/-- A CONFIG_WRITE that is refused changes nothing. -/
theorem exec_configWrite_refused {r : Reply} (h : s.listens) (refused : s.refuseConfig c = some r) :
    exec (.configWrite a c) s = .next (s.opened.closing a r) := by
  have act : writeConfig c s.opened = (s.opened, r) := by
    unfold writeConfig
    rw [show s.opened.refuseConfig c = some r from refused]
  have taken := requestArrives_taken h a (writeConfig c) (by rw [act]; exact h.2.2)
  rw [act] at taken
  exact congrArg Host.Outcome.next taken

theorem exec_configWrite_taken (h : s.listens) (taken : s.refuseConfig c = none) :
    exec (.configWrite a c) s = .next ({ s.opened with config := c }.closing a Reply.ok) := by
  have act : writeConfig c s.opened = ({ s.opened with config := c }, Reply.ok) := by
    unfold writeConfig
    rw [show s.opened.refuseConfig c = none from taken]
  have arrives := requestArrives_taken h a (writeConfig c) (by rw [act]; exact h.2.2)
  rw [act] at arrives
  exact congrArg Host.Outcome.next arrives

theorem refuseConfig_of_failure {f : ContentFailure} (h : configFailure c = some f) :
    s.refuseConfig c = some f.reply := by
  unfold State.refuseConfig
  rw [h]

/-- A record that keeps the own address is judged by R6 alone. -/
theorem refuseConfig_of_same (h : configFailure c = none) (same : c.ownAddress = s.config.ownAddress) :
    s.refuseConfig c = none := by
  unfold State.refuseConfig
  rw [h]
  exact if_pos same

/-- A record that changes the own address waits for the rounds (R8). -/
theorem refuseConfig_of_changed (h : configFailure c = none) (changed : c.ownAddress ≠ s.config.ownAddress) :
    s.refuseConfig c = s.roundsActive := by
  unfold State.refuseConfig
  rw [h]
  exact if_neg changed

end requests

/-- Settles O22: the judgement of R6, then of R8 by the lowest active slot, and the taking of a request. -/
theorem configRequests : Obligations.ConfigRequests := by
  intro a c s listens
  refine ⟨fun pass idle => ?taken, fun code subject fails => ?badContent,
    fun k pass changed busy lowest => ?active, ?read⟩
  case taken =>
    refine exec_configWrite_taken listens ?_
    by_cases same : c.ownAddress = s.config.ownAddress
    · exact refuseConfig_of_same pass same
    · rw [refuseConfig_of_changed pass same]
      exact roundsActive_eq_none (idle.resolve_left same)
  case badContent => exact exec_configWrite_refused listens (refuseConfig_of_failure fails)
  case active =>
    refine exec_configWrite_refused listens ?_
    rw [refuseConfig_of_changed pass changed, roundsActive_eq_some busy lowest]
  case read => exact congrArg Host.Outcome.next (requestArrives_taken listens a readConfig listens.2.2)

end Sys2Proof.Machine

/-! ## Table writes: taken and refused (R2) -/

namespace Sys2Proof.Machine

open Sys2Proof

/-! ### The request -/

section requests

variable {s : State} {a : Ask} {w : TableWrite}

/-- The port and the buffer are not looked at. -/
theorem refuseWrite_opened (s : State) (w : TableWrite) : s.opened.refuseWrite w = s.refuseWrite w := by
  cases w <;> rfl

/-- A refused write changes no table. -/
theorem exec_tableWrite_refused {r : Reply} (h : s.listens) (refused : s.refuseWrite w = some r) :
    exec (.tableWrite a w) s = .next (s.opened.closing a r) := by
  have act : writeTable1 w s.opened = (s.opened, r) := by
    unfold writeTable1
    rw [refuseWrite_opened, refused]
  have arrives := requestArrives_taken h a (writeTable1 w) (by rw [act]; exact h.2.2)
  rw [act] at arrives
  exact congrArg Host.Outcome.next arrives

/-- The staging record after a taken write (R186). -/
def stagingAfter (w : TableWrite) (staging : Option Staging) : Option Staging :=
  match w with
  | .empty .recipe index => if staging.map (·.index) = some index.toNat then none else staging
  | .full index (.recipe _) => if staging.map (·.index) = some index.toNat then none else staging
  | _ => staging

theorem dropStaging_eq (s : State) (w : TableWrite) :
    s.dropStaging w = { s with staging := stagingAfter w s.staging } := by
  have clears : ∀ index : Word16,
      (if s.staging.any (fun x => x.index == index.toNat) then { s with staging := none } else s)
      = { s with staging := if s.staging.map (·.index) = some index.toNat then none else s.staging } := by
    intro index
    have same : s.staging.any (fun x => x.index == index.toNat) = true
        ↔ s.staging.map (·.index) = some index.toNat := by
      cases s.staging <;> simp
    by_cases names : s.staging.map (·.index) = some index.toNat
    · rw [if_pos names, if_pos (same.2 names)]
    · rw [if_neg names, if_neg (names ∘ same.1)]
  cases w with
  | unknown code => rfl
  | empty table index =>
    cases table with
    | recipe => exact clears index
    | _ => rfl
  | full index content =>
    cases content with
    | recipe steps => exact clears index
    | _ => rfl

theorem linkSilent_applyWrite (s : State) (w : TableWrite) : (s.applyWrite w).linkSilent = s.linkSilent := by
  cases w with
  | unknown code => rfl
  | empty table index =>
    unfold State.applyWrite State.removeEntry
    cases table with
    | station | header => dsimp only; split <;> rfl
    | _ => rfl
  | full index content =>
    unfold State.applyWrite State.putContent
    cases content with
    | station f | header f => dsimp only; split <;> rfl
    | _ => rfl

theorem linkSilent_walk (s : State) : s.walk.linkSilent = s.linkSilent := by rw [(Claimed.walk s).frame.1.1]

/-- A taken write replaces the entry, after the staging record and before the walk. -/
theorem exec_tableWrite_taken (h : s.listens) (taken : s.refuseWrite w = none) :
    exec (.tableWrite a w) s
      = .next ((State.takeWrite w { s.opened with staging := stagingAfter w s.staging }).closing a Reply.ok) := by
  have act : writeTable1 w s.opened
      = (State.takeWrite w { s.opened with staging := stagingAfter w s.staging }, Reply.ok) := by
    unfold writeTable1
    rw [refuseWrite_opened, taken]
    exact congrArg (fun t => (State.takeWrite w t, Reply.ok)) (dropStaging_eq s.opened w)
  have quiet : (State.takeWrite w { s.opened with staging := stagingAfter w s.staging }).linkSilent = false := by
    unfold State.takeWrite
    dsimp only
    split
    · rw [linkSilent_walk, linkSilent_applyWrite]
      exact h.2.2
    · rw [linkSilent_applyWrite]
      exact h.2.2
  have arrives := requestArrives_taken h a (writeTable1 w) (by rw [act]; exact quiet)
  rw [act] at arrives
  exact congrArg Host.Outcome.next arrives

end requests

/-- Settles O23: a taken write is its entry, the staging record it drops, and the walk its table prompts. -/
theorem tableWriteTaken : Obligations.TableWriteTaken := by
  intro a w s listens taken
  rw [exec_tableWrite_taken listens taken]
  cases w with
  | unknown code => rfl
  | empty table index => cases table <;> rfl
  | full index content => cases content <;> rfl

/-! ### The refusals, in the order of R2 -/

section refusals

variable {s : State} {t : TableId} {n : Nat} {content : Option Content}

theorem refuseEntry_badIndex (out : t.size ≤ n) : s.refuseEntry t n content = some (Reply.refuse .badIndex) :=
  if_pos out

theorem refuseEntry_inUse {r : Reply} (range : n < t.size) (busy : s.inUse t n content = some r) :
    s.refuseEntry t n content = some r := by
  unfold State.refuseEntry
  rw [if_neg (Nat.not_le.2 range), busy]

/-- The checks of an entry in full form, or of one in empty form. -/
def State.entryChecks (s : State) (t : TableId) (n : Nat) (content : Option Content) : List (Option ContentFailure) :=
  match content with
  | some x => s.contentChecks n x
  | none => s.emptyChecks t n

theorem refuseEntry_badContent {f : ContentFailure} (range : n < t.size) (free : s.inUse t n content = none)
    (fails : firstFailure (s.entryChecks t n content) = some f) : s.refuseEntry t n content = some f.reply := by
  unfold State.refuseEntry
  rw [if_neg (Nat.not_le.2 range), free]
  cases content with
  | some x => exact congrArg (Option.map ContentFailure.reply) fails
  | none => exact congrArg (Option.map ContentFailure.reply) fails

/-! ### When the present content bars a rewrite -/

theorem sideBusy_some {s : State} {n : Nat} : s.sideBusy (some n) = true ↔ s.segState n ≠ .free := by
  unfold State.sideBusy State.sideState
  cases state : s.segState n <;> simp [state]

theorem inUseWhen_true {busy : Bool} (h : busy = true) : inUseWhen busy = some (Reply.refuse .inUse) := if_pos h

theorem stationAt_val (st : StationId) : stationAt st.val = some st := by
  revert st
  decide

theorem headerAt_val (h : HeaderId) : headerAt h.val = some h := by
  revert h
  decide

theorem mem_allStations (st : StationId) : st ∈ allStations := by
  revert st
  decide

theorem mediumBarred_of_entry {v : ValveEntry} (full : Table.entry s.valves n = some v)
    (busy : v.owner ≠ none ∨ ∃ m, (v.sideA = some m ∨ v.sideB = some m) ∧ s.segState m ≠ .free) :
    s.mediumBarred n = true := by
  unfold State.mediumBarred
  rw [full]
  obtain owned | ⟨m, side | side, notFree⟩ := busy
  · simp [Option.isSome_iff_ne_none.2 owned]
  · simp [side, sideBusy_some.2 notFree]
  · simp [side, sideBusy_some.2 notFree]

/-- R16: the valve as it stands. -/
theorem valveInUse_of_entry {v : ValveEntry} {side : Option Nat} {m : Nat} (written : Option ValveFields)
    (full : Table.entry s.valves n = some v)
    (busy : v.owner ≠ none ∨ (v.sideA = side ∨ v.sideB = side) ∧ side = some m ∧ s.segState m ≠ .free) :
    s.valveInUse n written = true := by
  have barred : s.mediumBarred n = true :=
    mediumBarred_of_entry full (busy.imp_right fun ⟨on, named, notFree⟩ => ⟨m, named ▸ on, notFree⟩)
  simp only [State.mediumBarred, full] at barred
  unfold State.valveInUse
  rw [full, Option.any_some, barred, Bool.true_or]

/-- R16: the sides as written. -/
theorem valveInUse_of_written {f : ValveFields} {side : Octet} (on : f.sideA = side ∨ f.sideB = side)
    (present : side ≠ 0xFF) (notFree : s.segState side.toNat ≠ .free) : s.valveInUse n (some f) = true := by
  have busy : s.writtenSideBusy side = true := by
    unfold State.writtenSideBusy indexOf
    rw [if_neg present]
    exact sideBusy_some.2 notFree
  unfold State.valveInUse
  obtain e | e := on <;> simp [e, busy]

/-- R17. -/
theorem driveInUse_of_granted {st : StationId} {l : StationLoad} (load : (s.station st).load = some l)
    (granted : (s.station st).granted ≠ none) (named : l.pump = n ∨ l.heater = some n) : s.driveInUse n = true := by
  refine List.any_eq_true.2 ⟨st, mem_allStations st, ?_⟩
  obtain e | e := named <;> simp [load, Option.isSome_iff_ne_none.2 granted, StationLoad.drives, e]

/-- R19. -/
theorem pointInUse_of_slot {k : Slot} (active : s.active k = true) (past : (s.round k).state ≠ .waitRoute)
    (could : s.couldResolve n k = true) : s.pointInUse n = true :=
  List.any_eq_true.2 ⟨k, mem_allSlots k, by simp [active, past, could]⟩

theorem couldResolve_of_header {k : Slot} {r : Route} {h : HeaderId} {l : HeaderLoad} (route : s.routeOf k = some r)
    (header : s.routeHeader r = some h) (load : (s.header h).load = some l)
    (named : l.cond = some n ∨ l.temp = some n ∨ l.flow = n) : s.couldResolve n k = true := by
  unfold State.couldResolve
  obtain e | e | e := named <;> simp [route, header, load, HeaderLoad.points, e]

theorem couldResolve_of_station {k : Slot} {r : Route} {x : StationItem} {l : StationLoad}
    (route : s.routeOf k = some r) (mem : x ∈ r.stations) (load : (s.station x.station).load = some l)
    (named : l.temp = some n) : s.couldResolve n k = true := by
  have serves : (r.stations.any fun i => (s.station i.station).load.any (·.temp == some n)) = true :=
    List.any_eq_true.2 ⟨x, mem, by simp [load, named]⟩
  unfold State.couldResolve
  simp [route, serves]

/-- R21: the station as it stands. -/
theorem stationInUse_of_station {st : StationId} (written : Option StationFields)
    (busy : (s.station st).granted ≠ none ∨ (s.station st).queue ≠ []) : s.stationInUse st.val written = true := by
  unfold State.stationInUse
  rw [stationAt_val]
  obtain granted | waiting := busy
  · simp [Option.isSome_iff_ne_none.2 granted]
  · simp [waiting]

/-- R21: the medium valves as written. -/
theorem stationInUse_of_written {f : StationFields} {medium : Word16}
    (mem : medium ∈ [f.rinse, f.recovered, f.caustic, f.acid, f.sanitiser, f.air]) (present : medium ≠ 0xFFFF)
    (barred : s.mediumBarred medium.toNat = true) : s.stationInUse n (some f) = true := by
  have listed : medium.toNat ∈ (stationValveFields f).filterMap indexOf16 :=
    List.mem_filterMap.2 ⟨medium, mem, if_neg present⟩
  have any : ((stationValveFields f).filterMap indexOf16).any s.mediumBarred = true :=
    List.any_eq_true.2 ⟨_, listed, barred⟩
  unfold State.stationInUse
  rw [Option.any_some, any, Bool.or_true]

/-- R23. -/
theorem headerInUse_of_claimed {h : HeaderId} {l : HeaderLoad} {k : Slot} (load : (s.header h).load = some l)
    (claimed : s.segState l.segment = .claimed k) : s.headerInUse h.val = true := by
  unfold State.headerInUse State.headerOwner
  rw [headerAt_val, Option.any_some, load, Option.bind_some, claimed]
  rfl

/-- R26. -/
theorem routeInUse_of_slot {k : Slot} (active : s.active k = true) (named : (s.round k).route = n) :
    s.routeInUse n = true :=
  List.any_eq_true.2 ⟨k, mem_allSlots k, by simp [active, named]⟩

theorem recipeInUse_of_slot {k : Slot} (active : s.active k = true) (named : (s.round k).recipe = n) :
    s.recipeInUse n = true :=
  List.any_eq_true.2 ⟨k, mem_allSlots k, by simp [active, named]⟩

end refusals

/-- Settles O25: each judgement of R2 in its order, and the in-use condition of each table by its own lemma. -/
theorem tableWriteRefused : Obligations.TableWriteRefused := by
  intro a w s listens
  refine ⟨fun code e => ?unknown, fun t index content form => ?entry⟩
  case unknown =>
    subst e
    exact exec_tableWrite_refused listens rfl
  have judged : s.refuseWrite w = s.refuseEntry t index.toNat content := by
    obtain ⟨rfl, rfl⟩ | ⟨x, rfl, rfl, rfl⟩ := form <;> rfl
  refine ⟨fun out => exec_tableWrite_refused listens (judged.trans (refuseEntry_badIndex out)), fun range => ?_⟩
  have refuses : ∀ {r}, s.inUse t index.toNat content = some r →
      exec (.tableWrite a w) s = .next (s.opened.closing a r) :=
    fun busy => exec_tableWrite_refused listens (judged.trans (refuseEntry_inUse range busy))
  refine ⟨?nodeMap, ?segment, ?valve, ?valveWritten, ?drive, ?pointHeader, ?pointStation, ?station, ?stationWritten,
    ?header, ?route, ?recipe, ?content⟩
  case nodeMap =>
    rintro k rfl active lowest
    exact refuses (roundsActive_eq_some active lowest)
  case segment =>
    rintro rfl busy
    exact refuses (inUseWhen_true (bne_iff_ne.2 busy))
  case valve =>
    rintro v side n rfl full busy
    exact refuses (inUseWhen_true (valveInUse_of_entry _ full busy))
  case valveWritten =>
    rintro f side rfl rfl on present busy
    exact refuses (inUseWhen_true (valveInUse_of_written on present busy))
  case drive =>
    rintro st l rfl load granted named
    exact refuses (inUseWhen_true (driveInUse_of_granted load granted named))
  case pointHeader =>
    rintro k r h l rfl active past route header load named
    exact refuses (inUseWhen_true (pointInUse_of_slot active past (couldResolve_of_header route header load named)))
  case pointStation =>
    rintro k r x l rfl active past route mem load named
    exact refuses (inUseWhen_true (pointInUse_of_slot active past (couldResolve_of_station route mem load named)))
  case station =>
    rintro st rfl named busy
    exact refuses (inUseWhen_true (named ▸ stationInUse_of_station _ busy))
  case stationWritten =>
    rintro f medium v rfl rfl mem present full busy
    exact refuses (inUseWhen_true (stationInUse_of_written mem present (mediumBarred_of_entry full busy)))
  case header =>
    rintro h l k rfl named load claimed
    exact refuses (inUseWhen_true (named ▸ headerInUse_of_claimed load claimed))
  case route =>
    rintro k rfl active named
    exact refuses (inUseWhen_true (routeInUse_of_slot active named))
  case recipe =>
    rintro k rfl active named
    exact refuses (inUseWhen_true (recipeInUse_of_slot active named))
  case content =>
    intro free code subject fails
    have failure : firstFailure (s.entryChecks t index.toNat content) = some ⟨code, subject⟩ := by
      cases content <;> exact fails
    exact exec_tableWrite_refused listens (judged.trans (refuseEntry_badContent range free failure))

end Sys2Proof.Machine

/-! ## The entry after a taken write (R2, R29, R208) -/

namespace Sys2Proof.Machine

open Sys2Proof

/-! ### Fields read back -/

section fields

@[simp] theorem octet_toNat (o : Octet) : octet o.toNat = o := BitVec.ofNat_toNat .. |>.trans (BitVec.setWidth_eq o)

theorem octet_of_toNat {o : Octet} {n : Nat} (h : o.toNat = n) : octet n = o := h ▸ octet_toNat o

@[simp] theorem word_toNat (w : Word16) : BitVec.ofNat 16 w.toNat = w :=
  BitVec.ofNat_toNat .. |>.trans (BitVec.setWidth_eq w)

@[simp] theorem fieldOctet_indexOf (o : Octet) : fieldOctet (indexOf o) = o := by
  unfold indexOf
  split
  next absent => exact absent.symm
  next => exact octet_toNat o

@[simp] theorem fieldWord_indexOf16 (w : Word16) : fieldWord (indexOf16 w) = w := by
  unfold indexOf16
  split
  next absent => exact absent.symm
  next => exact word_toNat w

theorem NodeKind.octet_code {o : Octet} {k : NodeKind} (h : NodeKind.ofCode o = some k) : octet k.code = o := by
  unfold NodeKind.ofCode at h
  split at h <;> cases h <;> exact octet_of_toNat ‹_›

theorem SegmentKind.octet_code {o : Octet} {k : SegmentKind} (h : SegmentKind.ofCode o = some k) :
    octet k.code = o := by
  unfold SegmentKind.ofCode at h
  split at h <;> cases h <;> exact octet_of_toNat ‹_›

theorem ValveKind.octet_code {o : Octet} {k : ValveKind} (h : ValveKind.ofCode o = some k) : octet k.code = o := by
  unfold ValveKind.ofCode at h
  split at h <;> cases h <;> exact octet_of_toNat ‹_›

theorem DriveKind.octet_code {o : Octet} {k : DriveKind} (h : DriveKind.ofCode o = some k) : octet k.code = o := by
  unfold DriveKind.ofCode at h
  split at h <;> cases h <;> exact octet_of_toNat ‹_›

theorem PointKind.octet_code {o : Octet} {k : PointKind} (h : PointKind.ofCode o = some k) : octet k.code = o := by
  unfold PointKind.ofCode at h
  split at h <;> cases h <;> exact octet_of_toNat ‹_›

theorem Medium.octet_code {o : Octet} {m : Medium} (h : Medium.ofCode o = some m) : octet m.code = o := by
  unfold Medium.ofCode at h
  split at h <;> cases h <;> exact octet_of_toNat ‹_›

theorem Disposition.octet_code {o : Octet} {d : Disposition} (h : Disposition.ofCode o = some d) :
    octet d.code = o := by
  unfold Disposition.ofCode at h
  split at h <;> cases h <;> exact octet_of_toNat ‹_›

theorem Role.octet_code {o : Octet} {r : Role} (h : Role.ofCode o = some r) : octet r.code = o := by
  unfold Role.ofCode at h
  split at h <;> cases h <;> exact octet_of_toNat ‹_›

theorem Comparison.octet_code {o : Octet} {c : Comparison} (h : Comparison.ofCode o = some c) : octet c.code = o := by
  unfold Comparison.ofCode at h
  split at h <;> cases h <;> exact octet_of_toNat ‹_›

/-- The medium AIR has the code 05h alone. -/
theorem ofCode_eq_air {o : Octet} : Medium.ofCode o = some .air ↔ o = 0x05 := by
  constructor
  · exact fun h => (Medium.octet_code h).symm
  · rintro rfl
    rfl

end fields

/-! ### Entries of the topology tables -/

section topology

variable {s : State} {n : Nat}

theorem stationAt_eq_some {st : StationId} : stationAt n = some st ↔ st.val = n := by
  constructor
  · intro h
    simpa using List.find?_some h
  · rintro rfl
    exact stationAt_val st

theorem headerAt_eq_some {h : HeaderId} : headerAt n = some h ↔ h.val = n := by
  constructor
  · intro e
    simpa using List.find?_some e
  · rintro rfl
    exact headerAt_val h

theorem nodeEntryOf_kept {f : NodeFields} {e : NodeEntry} (address : e.address = f.address)
    (kind : e.kind = (NodeKind.ofCode f.kind).getD .valveCluster) : nodeEntryOf f (some e) = e :=
  if_pos ⟨address, kind⟩

theorem nodeEntryOf_fresh {f : NodeFields} {old : Option NodeEntry} (other : ∀ e, old = some e →
    ¬(e.address = f.address ∧ e.kind = (NodeKind.ofCode f.kind).getD .valveCluster)) : nodeEntryOf f old
      = ⟨f.address, (NodeKind.ofCode f.kind).getD .valveCluster, none, true, Timer.off⟩ := by
  cases old with
  | none => rfl
  | some e => exact if_neg (other e rfl)

theorem kind_nodeEntryOf (f : NodeFields) (old : Option NodeEntry) :
    (nodeEntryOf f old).kind = (NodeKind.ofCode f.kind).getD .valveCluster := by
  unfold nodeEntryOf
  split
  · dsimp only
    split
    next same => exact same.2
    next => rfl
  · rfl

theorem nodeEntryOf_fields {f : NodeFields} (kind : (NodeKind.ofCode f.kind).isSome = true) (old : Option NodeEntry) :
    (nodeEntryOf f old).fields = f := by
  obtain ⟨k, hk⟩ := Option.isSome_iff_exists.1 kind
  unfold NodeEntry.fields
  rw [address_nodeEntryOf, kind_nodeEntryOf, hk, Option.getD_some, NodeKind.octet_code hk]

/-- The header of a RETURN segment, or none, as carried (R12). -/
theorem segmentHeader_field {f : SegmentFields} (fits : segmentHeaderFits f = true) :
    fieldOctet (((indexOf f.header).bind headerAt).map Fin.val) = f.header := by
  unfold segmentHeaderFits at fits
  split at fits
  · have lt : f.header.toNat < 4 := of_decide_eq_true fits
    have present : f.header ≠ 0xFF := fun e => by rw [e] at lt; exact absurd lt (by decide)
    unfold indexOf
    rw [if_neg present, Option.bind_some, headerAt_eq_some (h := ⟨f.header.toNat, lt⟩) |>.2 rfl]
    exact octet_toNat f.header
  · rw [eq_of_beq fits]
    rfl

theorem segmentEntryOf_fields {f : SegmentFields} (kind : (SegmentKind.ofCode f.kind).isSome = true)
    (header : segmentHeaderFits f = true) : (segmentEntryOf f).fields = f := by
  obtain ⟨k, hk⟩ := Option.isSome_iff_exists.1 kind
  unfold SegmentEntry.fields segmentEntryOf
  rw [hk, Option.getD_some, SegmentKind.octet_code hk, segmentHeader_field header, fieldOctet_indexOf]

/-- A valve entry as written: the loaded fields and the owner. -/
theorem valveEntryOf_loaded (f : ValveFields) (old : Option ValveEntry) :
    (valveEntryOf f old).kind = (ValveKind.ofCode f.kind).getD .singleSeat
    ∧ (valveEntryOf f old).sideA = indexOf f.sideA ∧ (valveEntryOf f old).sideB = indexOf f.sideB
    ∧ (valveEntryOf f old).owner = none := by
  unfold valveEntryOf
  split
  · dsimp only
    split <;> exact ⟨rfl, rfl, rfl, rfl⟩
  · exact ⟨rfl, rfl, rfl, rfl⟩

theorem valveEntryOf_kept {f : ValveFields} {e : ValveEntry} (same : e.place = (f.node, f.slot.toNat)) :
    valveEntryOf f (some e) = { valveEntryOf f (some e) with
      commanded := e.commanded, requested := e.requested, feedback := e.feedback
      changed := e.changed, misses := e.misses } := by
  unfold valveEntryOf
  dsimp only
  rw [if_pos (Prod.mk.inj same)]

theorem valveEntryOf_fresh {f : ValveFields} {old : Option ValveEntry}
    (other : ∀ e, old = some e → e.place ≠ (f.node, f.slot.toNat)) :
    valveEntryOf f old = { valveEntryOf f old with
      commanded := none, requested := none, feedback := .unknown, changed := none, misses := 0 } := by
  cases old with
  | none => rfl
  | some e =>
    have ne : ¬(e.node = f.node ∧ e.slot = f.slot.toNat) := fun same => other e rfl (Prod.ext same.1 same.2)
    unfold valveEntryOf
    dsimp only
    rw [if_neg ne]

theorem valveEntryOf_fields {f : ValveFields} (kind : (ValveKind.ofCode f.kind).isSome = true)
    (old : Option ValveEntry) : (valveEntryOf f old).fields = f := by
  obtain ⟨k, hk⟩ := Option.isSome_iff_exists.1 kind
  obtain ⟨node, slot⟩ := Prod.mk.inj (place_valveEntryOf f old)
  obtain ⟨kindEq, sideA, sideB, -⟩ := valveEntryOf_loaded f old
  unfold ValveEntry.fields
  rw [node, slot, kindEq, sideA, sideB, hk, Option.getD_some, ValveKind.octet_code hk, octet_toNat,
    fieldOctet_indexOf, fieldOctet_indexOf]

/-- A drive entry as written: the loaded fields and the owner. -/
theorem driveEntryOf_loaded (f : DriveFields) (old : Option DriveEntry) :
    (driveEntryOf f old).kind = (DriveKind.ofCode f.kind).getD .pump
    ∧ (driveEntryOf f old).minimum = f.minimum.toNat ∧ (driveEntryOf f old).maximum = f.maximum.toNat
    ∧ (driveEntryOf f old).owner = none := by
  unfold driveEntryOf
  split
  · dsimp only
    split
    · split <;> exact ⟨rfl, rfl, rfl, rfl⟩
    · exact ⟨rfl, rfl, rfl, rfl⟩
  · exact ⟨rfl, rfl, rfl, rfl⟩

/-- At the same node and channel the status stays, and the values with the kind (R18). -/
theorem driveEntryOf_kept {f : DriveFields} {e : DriveEntry} (same : e.place = (f.node, f.channel.toNat)) :
    (driveEntryOf f (some e)).status = e.status
    ∧ (e.kind = (DriveKind.ofCode f.kind).getD .pump → (driveEntryOf f (some e)).commanded = e.commanded
      ∧ (driveEntryOf f (some e)).requested = e.requested ∧ (driveEntryOf f (some e)).value = e.value)
    ∧ (e.kind ≠ (DriveKind.ofCode f.kind).getD .pump → (driveEntryOf f (some e)).commanded = none
      ∧ (driveEntryOf f (some e)).requested = none ∧ (driveEntryOf f (some e)).value = none) := by
  unfold driveEntryOf
  dsimp only
  rw [if_pos (Prod.mk.inj same)]
  split
  next kind => exact ⟨rfl, fun _ => ⟨rfl, rfl, rfl⟩, fun ne => absurd kind ne⟩
  next ne => exact ⟨rfl, fun kind => absurd kind ne, fun _ => ⟨rfl, rfl, rfl⟩⟩

theorem driveEntryOf_fresh {f : DriveFields} {old : Option DriveEntry}
    (other : ∀ e, old = some e → e.place ≠ (f.node, f.channel.toNat)) :
    driveEntryOf f old = { driveEntryOf f old with
      commanded := none, requested := none, status := .unknown, value := none } := by
  cases old with
  | none => rfl
  | some e =>
    have ne : ¬(e.node = f.node ∧ e.channel = f.channel.toNat) := fun same => other e rfl (Prod.ext same.1 same.2)
    unfold driveEntryOf
    dsimp only
    rw [if_neg ne]

theorem driveEntryOf_fields {f : DriveFields} (kind : (DriveKind.ofCode f.kind).isSome = true)
    (old : Option DriveEntry) : (driveEntryOf f old).fields = f := by
  obtain ⟨k, hk⟩ := Option.isSome_iff_exists.1 kind
  obtain ⟨node, channel⟩ := Prod.mk.inj (place_driveEntryOf f old)
  obtain ⟨kindEq, minimum, maximum, -⟩ := driveEntryOf_loaded f old
  unfold DriveEntry.fields
  rw [node, channel, kindEq, minimum, maximum, hk, Option.getD_some, DriveKind.octet_code hk, octet_toNat,
    word_toNat, word_toNat]

theorem kind_pointEntryOf (f : PointFields) (old : Option PointEntry) :
    (pointEntryOf f old).kind = (PointKind.ofCode f.kind).getD .cond := by
  unfold pointEntryOf
  split
  · dsimp only
    split
    next same => exact same.2.2
    next => rfl
  · rfl

theorem pointEntryOf_kept {f : PointFields} {e : PointEntry} (same : e.place = (f.node, f.channel.toNat))
    (kind : e.kind = (PointKind.ofCode f.kind).getD .cond) : pointEntryOf f (some e) = e := by
  obtain ⟨node, channel⟩ := Prod.mk.inj same
  exact if_pos ⟨node, channel, kind⟩

theorem pointEntryOf_fresh {f : PointFields} {old : Option PointEntry} (other : ∀ e, old = some e →
    ¬(e.node = f.node ∧ e.channel = f.channel.toNat ∧ e.kind = (PointKind.ofCode f.kind).getD .cond)) :
    pointEntryOf f old = ⟨f.node, f.channel.toNat, (PointKind.ofCode f.kind).getD .cond, none, .none, none⟩ := by
  cases old with
  | none => rfl
  | some e => exact if_neg (other e rfl)

theorem pointEntryOf_fields {f : PointFields} (kind : (PointKind.ofCode f.kind).isSome = true)
    (old : Option PointEntry) : (pointEntryOf f old).fields = f := by
  obtain ⟨k, hk⟩ := Option.isSome_iff_exists.1 kind
  obtain ⟨node, channel⟩ := Prod.mk.inj (place_pointEntryOf f old)
  unfold PointEntry.fields
  rw [node, channel, kind_pointEntryOf, hk, Option.getD_some, PointKind.octet_code hk, octet_toNat]

theorem stationLoadOf_fields (f : StationFields) : (stationLoadOf f).fields = f := by
  simp only [StationLoad.fields, stationLoadOf, fieldWord_indexOf16, fieldOctet_indexOf, octet_toNat]

theorem headerLoadFor_fields (f : HeaderFields) : (headerLoadFor f).fields = f := by
  simp only [HeaderLoad.fields, headerLoadFor, fieldWord_indexOf16, fieldOctet_indexOf, octet_toNat, word_toNat]

end topology

/-! ### Routes (R24, R25) -/

section routes

/-- A list element is its valve index, its code, and zeros between them. -/
theorem elementOf_parts {w : Word16} (fits : elementFits w = true) : elementOf (elementValve w) (elementCode w) = w := by
  have between : w.toNat / 512 % 64 = 0 := eq_of_beq fits
  have bound : w.toNat < 65536 := w.isLt
  have top : elementCode w = true ↔ w.toNat / 32768 % 2 = 1 := by
    simp [elementCode, BitVec.getLsbD, Nat.testBit_eq_decide_div_mod_eq]
  apply BitVec.eq_of_toNat_eq
  by_cases code : elementCode w = true
  · have one := top.1 code
    simp only [elementOf, elementValve, code, if_true, BitVec.toNat_ofNat]
    omega
  · have zero := mt top.2 code
    simp only [elementOf, elementValve, code, BitVec.toNat_ofNat]
    simp only [Bool.false_eq_true, if_false]
    omega

theorem outer_eq_b (code : Bool) : ((if code then Side.b else Side.a) == Side.b) = code := by
  cases code <;> rfl

theorem setting_fields {l : List Word16} (fits : l.all elementFits = true) :
    (l.map fun w => (⟨elementValve w, elementCode w⟩ : SettingItem)).map (fun i => elementOf i.valve i.opened) = l := by
  rw [List.map_map]
  exact (List.map_congr_left fun w mem => elementOf_parts (List.all_eq_true.1 fits w mem)).trans (List.map_id l)

theorem boundary_fields {l : List Word16} (fits : l.all elementFits = true) :
    (l.map fun w => (⟨elementValve w, if elementCode w then .b else .a⟩ : BoundaryItem)).map
      (fun b => elementOf b.valve (b.outer == .b)) = l := by
  rw [List.map_map]
  refine (List.map_congr_left fun w mem => ?_).trans (List.map_id l)
  simp only [Function.comp, outer_eq_b]
  exact elementOf_parts (List.all_eq_true.1 fits w mem)

theorem stations_fields {l : List StationPair} (fits : ∀ p ∈ l, p.station.toNat < 3) :
    (l.filterMap stationItemOf).map (fun i => (⟨octet i.station.val, BitVec.ofNat 16 i.valve⟩ : StationPair)) = l := by
  induction l with
  | nil => rfl
  | cons p l ih =>
    have lt : p.station.toNat < 3 := fits p List.mem_cons_self
    have item : stationItemOf p = some ⟨⟨p.station.toNat, lt⟩, p.valve.toNat⟩ := by
      unfold stationItemOf
      rw [stationAt_eq_some (st := ⟨p.station.toNat, lt⟩) |>.2 rfl]
      rfl
    rw [List.filterMap_cons_some item, List.map_cons, ih fun q mem => fits q (List.mem_cons_of_mem p mem), octet_toNat,
      word_toNat]

theorem routeContentChecks_pass {f : RouteFields} (h : firstFailure (routeContentChecks f) = none) :
    f.setting.all elementFits = true ∧ f.boundary.all elementFits = true
    ∧ ∀ p ∈ f.stations, p.station.toNat < 3 := by
  simp only [routeContentChecks, firstFailure_cons_eq_none, demand_eq_none, refuted_eq_none] at h
  obtain ⟨-, -, -, -, -, setting, boundary, stations, -⟩ := h
  refine ⟨setting, boundary, fun p mem => ?_⟩
  have both := List.all_eq_true.1 stations p mem
  simp only [Bool.and_eq_true, decide_eq_true_eq] at both
  exact both.1

theorem routeEntryOf_fields {f : RouteFields} (h : firstFailure (routeContentChecks f) = none) :
    (routeEntryOf f).fields = f := by
  obtain ⟨setting, boundary, stations⟩ := routeContentChecks_pass h
  have segments : (f.segments.map (·.toNat)).map octet = f.segments := by
    rw [List.map_map]
    exact (List.map_congr_left fun o _ => octet_toNat o).trans (List.map_id _)
  unfold Route.fields routeEntryOf
  rw [segments, setting_fields setting, boundary_fields boundary, stations_fields stations, word_toNat, word_toNat,
    word_toNat]

end routes

end Sys2Proof.Machine

namespace Sys2Proof.Machine

open Sys2Proof

/-! ### Recipes (R27 to R30) -/

section recipes

theorem criterionRanges_pass {i position : Nat} {f : CriterionFields}
    (h : firstFailure (criterionRanges i position f) = none) :
    (Role.ofCode f.role).isSome = true ∧ (Comparison.ofCode f.comparison).isSome = true := by
  simp only [criterionRanges, firstFailure_cons_eq_none, demand_eq_none] at h
  obtain ⟨role, comparison, -⟩ := h
  exact ⟨role, comparison⟩

theorem criterionEntryOf_fields {i position : Nat} {f : CriterionFields}
    (h : firstFailure (criterionRanges i position f) = none) : (criterionEntryOf f).fields = f := by
  obtain ⟨role, comparison⟩ := criterionRanges_pass h
  obtain ⟨r, hr⟩ := Option.isSome_iff_exists.1 role
  obtain ⟨c, hc⟩ := Option.isSome_iff_exists.1 comparison
  unfold Criterion.fields criterionEntryOf
  rw [hr, hc, Option.getD_some, Option.getD_some, Role.octet_code hr, Comparison.octet_code hc, word_toNat,
    octet_toNat, octet_toNat]

/-- What the checks of a step say about the fields whose codes could be lost. -/
structure StepFits (i : Nat) (f : StepFields) : Prop where
  medium : (Medium.ofCode f.medium).isSome = true
  choice : f.choice.toNat ≤ 3
  keep : f.keep.toNat ≤ 1
  disposition : (Disposition.ofCode f.disposition).isSome = true
  count : f.count.toNat ≤ 3
  criteria : ∀ p ∈ criterionSlots f, firstFailure (criterionRanges i p.1 p.2) = none

theorem firstFailure_flatMap {α : Type} {g : α → List (Option ContentFailure)} {l : List α} :
    firstFailure (l.flatMap g) = none ↔ ∀ x ∈ l, firstFailure (g x) = none := by
  induction l with
  | nil => simp
  | cons x l ih => simp [ih]

theorem stepContentChecks_pass {i : Nat} {f : StepFields} (h : firstFailure (stepContentChecks i f) = none) :
    StepFits i f := by
  simp only [stepContentChecks, firstFailure_append_eq_none, firstFailure_cons_eq_none, demand_eq_none,
    firstFailure_flatMap, decide_eq_true_eq] at h
  obtain ⟨⟨⟨medium, choice, keep, -, -, -, -, -, disposition, -, -, count, -⟩, criteria⟩, -⟩ := h
  exact ⟨medium, choice, keep, disposition, count, criteria⟩

/-- The criterion slot at a place: as carried below the count, zero beyond it. -/
theorem slot_stepEntryOf {i : Nat} {f : StepFields} (fits : StepFits i f) {n position : Nat} {g : CriterionFields}
    (place : [(13, f.crit1), (18, f.crit2), (23, f.crit3)][n]? = some (position, g)) :
    (stepEntryOf f).slot n = if n < f.count.toNat then g else emptySlot := by
  have criteria : (stepEntryOf f).criteria[n]? = if n < f.count.toNat then some (criterionEntryOf g) else none := by
    show ((criterionSlots f).map fun p => criterionEntryOf p.2)[n]? = _
    unfold criterionSlots
    rw [List.getElem?_map, List.getElem?_take]
    split
    · rw [place]
      rfl
    · rfl
  unfold RecipeStep.slot
  rw [criteria]
  by_cases below : n < f.count.toNat
  · have mem : (position, g) ∈ criterionSlots f := by
      refine List.mem_of_getElem? (i := n) ?_
      unfold criterionSlots
      rw [List.getElem?_take, if_pos below, place]
    rw [if_pos below, if_pos below]
    exact criterionEntryOf_fields (fits.criteria _ mem)
  · rw [if_neg below, if_neg below]

/-- A station choice is a station's index, or 3 for ANY (R27). -/
theorem choice_field {f : StepFields} (h : f.choice.toNat ≤ 3) : (stepEntryOf f).fields.choice = f.choice := by
  unfold RecipeStep.fields stepEntryOf
  dsimp only
  cases named : stationAt f.choice.toNat with
  | some k => exact octet_of_toNat (stationAt_eq_some.1 named).symm
  | none =>
    have three : f.choice.toNat = 3 := by
      by_contra ne
      rw [stationAt_eq_some (st := ⟨f.choice.toNat, by omega⟩) |>.2 rfl] at named
      cases named
    exact octet_of_toNat three

theorem keep_field {o : Octet} (h : o.toNat ≤ 1) : flagOctet (o == 0x01) = o := by
  unfold flagOctet
  split
  next one => exact (eq_of_beq one).symm
  next other =>
    have zero : o.toNat = 0 := by
      have ne : o.toNat ≠ 1 := fun e => other (beq_iff_eq.2 (BitVec.eq_of_toNat_eq e))
      omega
    exact octet_of_toNat zero

/-- The pump speed of an AIR step is stored as 0 (R29). -/
theorem pump_field (f : StepFields) :
    octet (if Medium.ofCode f.medium = some .air then 0 else f.pump.toNat) = if f.medium = 0x05 then 0 else f.pump := by
  by_cases air : f.medium = 0x05
  · rw [if_pos air, if_pos (ofCode_eq_air.2 air)]
    rfl
  · rw [if_neg air, if_neg (air ∘ ofCode_eq_air.1), octet_toNat]

theorem count_field {f : StepFields} (h : f.count.toNat ≤ 3) : octet (stepEntryOf f).criteria.length = f.count := by
  refine octet_of_toNat ?_
  show f.count.toNat = ((criterionSlots f).map fun p => criterionEntryOf p.2).length
  rw [List.length_map, criterionSlots, List.length_take]
  exact (Nat.min_eq_left h).symm

theorem stepEntryOf_fields {i : Nat} {f : StepFields} (h : firstFailure (stepContentChecks i f) = none) :
    (stepEntryOf f).fields = storedStep f := by
  have fits := stepContentChecks_pass h
  obtain ⟨m, hm⟩ := Option.isSome_iff_exists.1 fits.medium
  obtain ⟨d, hd⟩ := Option.isSome_iff_exists.1 fits.disposition
  have medium : octet (stepEntryOf f).medium.code = f.medium := by
    show octet ((Medium.ofCode f.medium).getD .rinse).code = f.medium
    rw [hm, Option.getD_some, Medium.octet_code hm]
  have disposition : octet (stepEntryOf f).disposition.code = f.disposition := by
    show octet ((Disposition.ofCode f.disposition).getD .drain).code = f.disposition
    rw [hd, Option.getD_some, Disposition.octet_code hd]
  have pump : octet (stepEntryOf f).pump = if f.medium = 0x05 then 0 else f.pump := pump_field f
  have choice := choice_field fits.choice
  have keep : flagOctet (stepEntryOf f).keep = f.keep := keep_field fits.keep
  unfold RecipeStep.fields storedStep
  rw [medium, disposition, pump, keep, count_field fits.count, slot_stepEntryOf fits (n := 0) rfl,
    slot_stepEntryOf fits (n := 1) rfl, slot_stepEntryOf fits (n := 2) rfl]
  simp only [stepEntryOf, fieldWord_indexOf16, word_toNat, octet_toNat, StepFields.mk.injEq, true_and]
  exact ⟨choice, rfl, rfl, rfl⟩

theorem stepsContentChecks_fields {steps : List StepFields} : ∀ {i : Nat},
    firstFailure (stepsContentChecks i steps) = none →
    (steps.map stepEntryOf).map RecipeStep.fields = steps.map storedStep := by
  induction steps with
  | nil => exact fun _ => rfl
  | cons f steps ih =>
    intro i h
    obtain ⟨first, rest⟩ := firstFailure_append_eq_none.1 h
    rw [List.map_cons, List.map_cons, List.map_cons, stepEntryOf_fields first, ih rest]

end recipes

/-! ### The entry written, and every other one -/

section contents

variable {s : State} {n m : Nat} {t : TableId} {content : Content}

/-- A full entry that passes its checks reads as it was written. -/
theorem contentAt_putContent_self (range : n < (Content.table content).size)
    (checks : firstFailure (s.contentChecks n content) = none) :
    (s.putContent n content).contentAt (Content.table content) n = some (storedContent content) := by
  cases content with
  | nodeMap f =>
    show (Table.entry (Table.put _ _ _) n).map _ = _
    rw [Table.entry_put_self, Option.map_some, nodeEntryOf_fields (nodeChecks_pass checks).1]
    rfl
  | segment f =>
    obtain ⟨kind, header⟩ := segmentChecks_pass checks
    show (Table.entry (Table.put _ _ _) n).map _ = _
    rw [Table.entry_put_self, Option.map_some, segmentEntryOf_fields kind header]
    rfl
  | valve f =>
    show (Table.entry (Table.put _ _ _) n).map _ = _
    rw [Table.entry_put_self, Option.map_some, valveEntryOf_fields (valveChecks_pass checks).1]
    rfl
  | drive f =>
    show (Table.entry (Table.put _ _ _) n).map _ = _
    rw [Table.entry_put_self, Option.map_some, driveEntryOf_fields (driveChecks_pass checks).1]
    rfl
  | point f =>
    show (Table.entry (Table.put _ _ _) n).map _ = _
    rw [Table.entry_put_self, Option.map_some, pointEntryOf_fields (pointChecks_pass checks).1]
    rfl
  | station f =>
    have named : stationAt n = some ⟨n, range⟩ := stationAt_eq_some.2 rfl
    simp only [State.putContent, State.contentAt, Content.table, named, Option.bind_some, State.station_updStation,
      Option.map_some, stationLoadOf_fields, storedContent]
  | header f =>
    have named : headerAt n = some ⟨n, range⟩ := headerAt_eq_some.2 rfl
    simp only [State.putContent, State.contentAt, Content.table, named, Option.bind_some, State.header_updHeader,
      Option.map_some, headerLoadFor_fields, storedContent]
  | route f =>
    show (Table.entry (Table.put _ _ _) n).map _ = _
    rw [Table.entry_put_self, Option.map_some, routeEntryOf_fields checks]
    rfl
  | recipe steps =>
    obtain ⟨-, checked⟩ := firstFailure_cons_eq_none.1 checks
    show (Table.entry (Table.put _ _ _) n).map _ = _
    rw [Table.entry_put_self, Option.map_some, stepsContentChecks_fields checked]
    rfl

/-- A write leaves the other tables alone. -/
theorem contentAt_putContent_of_table_ne (other : t ≠ Content.table content) :
    (s.putContent n content).contentAt t m = s.contentAt t m := by
  cases content with
  | station f =>
    unfold State.putContent
    dsimp only
    split
    · cases t with
      | station => exact absurd rfl other
      | _ => rfl
    · rfl
  | header f =>
    unfold State.putContent
    dsimp only
    split
    · cases t with
      | header => exact absurd rfl other
      | _ => rfl
    · rfl
  | nodeMap _ => cases t with | nodeMap => exact absurd rfl other | _ => rfl
  | segment _ => cases t with | segment => exact absurd rfl other | _ => rfl
  | valve _ => cases t with | valve => exact absurd rfl other | _ => rfl
  | drive _ => cases t with | drive => exact absurd rfl other | _ => rfl
  | point _ => cases t with | point => exact absurd rfl other | _ => rfl
  | route _ => cases t with | route => exact absurd rfl other | _ => rfl
  | recipe _ => cases t with | recipe => exact absurd rfl other | _ => rfl

/-- A station's change leaves the entries at other indexes alone. -/
theorem contentAt_station_updStation {st : StationId} {f : Station → Station} (other : m ≠ st.val) :
    (s.updStation st f).contentAt .station m = s.contentAt .station m := by
  unfold State.contentAt
  dsimp only
  cases named : stationAt m with
  | none => rfl
  | some k =>
    have ne : k ≠ st := fun e => other (e ▸ stationAt_eq_some.1 named).symm
    rw [Option.bind_some, Option.bind_some, State.station_updStation_ne _ _ ne]

/-- A header's change leaves the entries at other indexes alone. -/
theorem contentAt_header_updHeader {h : HeaderId} {f : Header → Header} (other : m ≠ h.val) :
    (s.updHeader h f).contentAt .header m = s.contentAt .header m := by
  unfold State.contentAt
  dsimp only
  cases named : headerAt m with
  | none => rfl
  | some k =>
    have ne : k ≠ h := fun e => other (e ▸ headerAt_eq_some.1 named).symm
    rw [Option.bind_some, Option.bind_some, State.header_updHeader_ne _ _ ne]

/-- A write leaves the other entries of its table alone. -/
theorem contentAt_putContent_of_index_ne (other : m ≠ n) :
    (s.putContent n content).contentAt (Content.table content) m = s.contentAt (Content.table content) m := by
  cases content with
  | station f =>
    unfold State.putContent
    dsimp only
    split
    next st named => exact contentAt_station_updStation (stationAt_eq_some.1 named ▸ other)
    next => rfl
  | header f =>
    unfold State.putContent
    dsimp only
    split
    next h named => exact contentAt_header_updHeader (headerAt_eq_some.1 named ▸ other)
    next => rfl
  | _ => exact congrArg (Option.map _) (Table.entry_put_ne _ _ other)

/-- An entry written as empty reads as empty. -/
theorem contentAt_removeEntry_self (t : TableId) (n : Nat) : (s.removeEntry t n).contentAt t n = none := by
  cases t with
  | station =>
    unfold State.removeEntry State.contentAt
    dsimp only
    cases named : stationAt n with
    | none => rfl
    | some k => simp only [Option.bind_some, State.station_updStation, Station.empty, Option.map_none]
  | header =>
    unfold State.removeEntry State.contentAt
    dsimp only
    cases named : headerAt n with
    | none => rfl
    | some k => simp only [Option.bind_some, State.header_updHeader, Header.empty, Option.map_none]
  | _ => exact congrArg (Option.map _) (Table.entry_remove_self n _)

theorem contentAt_removeEntry_of_table_ne {u : TableId} (other : u ≠ t) :
    (s.removeEntry t n).contentAt u m = s.contentAt u m := by
  cases t with
  | station =>
    unfold State.removeEntry
    dsimp only
    split
    · cases u with
      | station => exact absurd rfl other
      | _ => rfl
    · rfl
  | header =>
    unfold State.removeEntry
    dsimp only
    split
    · cases u with
      | header => exact absurd rfl other
      | _ => rfl
    · rfl
  | nodeMap => cases u with | nodeMap => exact absurd rfl other | _ => rfl
  | segment => cases u with | segment => exact absurd rfl other | _ => rfl
  | valve => cases u with | valve => exact absurd rfl other | _ => rfl
  | drive => cases u with | drive => exact absurd rfl other | _ => rfl
  | point => cases u with | point => exact absurd rfl other | _ => rfl
  | route => cases u with | route => exact absurd rfl other | _ => rfl
  | recipe => cases u with | recipe => exact absurd rfl other | _ => rfl

theorem contentAt_removeEntry_of_index_ne (other : m ≠ n) :
    (s.removeEntry t n).contentAt t m = s.contentAt t m := by
  cases t with
  | station =>
    unfold State.removeEntry
    dsimp only
    split
    next st named => exact contentAt_station_updStation (stationAt_eq_some.1 named ▸ other)
    next => rfl
  | header =>
    unfold State.removeEntry
    dsimp only
    split
    next h named => exact contentAt_header_updHeader (headerAt_eq_some.1 named ▸ other)
    next => rfl
  | _ => exact congrArg (Option.map _) (Table.entry_remove_ne _ other)

end contents

end Sys2Proof.Machine

namespace Sys2Proof.Machine

open Sys2Proof

/-! ### The dynamic fields after a taken write (R10, R13, R15, R18, R19, R21, R23) -/

section dynamics

variable {s : State} {index : Word16}

theorem node_applyWrite {f : NodeFields} {e : NodeEntry}
    (h : Table.entry (s.applyWrite (.full index (.nodeMap f))).nodes index.toNat = some e) :
    (∀ old, Table.entry s.nodes index.toNat = some old → old.address = e.address → old.kind = e.kind → e = old)
    ∧ ((∀ old, Table.entry s.nodes index.toNat = some old → ¬(old.address = e.address ∧ old.kind = e.kind)) →
      e.lastReply = none ∧ e.silent = true ∧ e.silence.mode = .stopped) := by
  obtain rfl : nodeEntryOf f (Table.entry s.nodes index.toNat) = e :=
    Option.some.inj ((Table.entry_put_self _ _ _).symm.trans h)
  rw [address_nodeEntryOf, kind_nodeEntryOf]
  refine ⟨fun old full address kind => ?_, fun other => ?_⟩
  · rw [full]
    exact nodeEntryOf_kept address kind
  · rw [nodeEntryOf_fresh other]
    exact ⟨rfl, rfl, rfl⟩

theorem segment_applyWrite {f : SegmentFields} (taken : s.refuseWrite (.full index (.segment f)) = none) :
    s.segState index.toNat = .free ∧ (s.applyWrite (.full index (.segment f))).segState index.toNat = .free := by
  obtain ⟨-, free, -⟩ := refuseWrite_full.1 taken
  refine ⟨?_, ?_⟩
  · by_contra busy
    have refused : s.inUse .segment index.toNat (some (.segment f)) = some (Reply.refuse .inUse) :=
      inUseWhen_true (bne_iff_ne.2 busy)
    cases free.symm.trans refused
  · have written : Table.entry (s.applyWrite (.full index (.segment f))).segments index.toNat
        = some (segmentEntryOf f) := Table.entry_put_self _ _ _
    unfold State.segState
    rw [written]
    rfl

theorem valve_applyWrite {f : ValveFields} {v : ValveEntry}
    (h : Table.entry (s.applyWrite (.full index (.valve f))).valves index.toNat = some v) :
    v.owner = none
    ∧ (∀ old, Table.entry s.valves index.toNat = some old → old.node = v.node → old.slot = v.slot →
      v = { v with
        commanded := old.commanded, requested := old.requested, feedback := old.feedback
        changed := old.changed, misses := old.misses })
    ∧ ((∀ old, Table.entry s.valves index.toNat = some old → ¬(old.node = v.node ∧ old.slot = v.slot)) →
      v.commanded = none ∧ v.requested = none ∧ v.feedback = .unknown ∧ v.changed = none ∧ v.misses = 0) := by
  obtain rfl : valveEntryOf f (Table.entry s.valves index.toNat) = v :=
    Option.some.inj ((Table.entry_put_self _ _ _).symm.trans h)
  obtain ⟨node, slot⟩ := Prod.mk.inj (place_valveEntryOf f (Table.entry s.valves index.toNat))
  obtain ⟨-, -, -, owner⟩ := valveEntryOf_loaded f (Table.entry s.valves index.toNat)
  refine ⟨owner, fun old full sameNode sameSlot => ?_, fun other => ?_⟩
  · have same : old.place = (f.node, f.slot.toNat) := Prod.ext (sameNode.trans node) (sameSlot.trans slot)
    rw [full]
    exact valveEntryOf_kept same
  · rw [node, slot] at other
    rw [valveEntryOf_fresh fun e full same => other e full (Prod.mk.inj same)]
    exact ⟨rfl, rfl, rfl, rfl, rfl⟩

theorem drive_applyWrite {f : DriveFields} {d : DriveEntry}
    (h : Table.entry (s.applyWrite (.full index (.drive f))).drives index.toNat = some d) :
    d.owner = none
    ∧ (∀ old, Table.entry s.drives index.toNat = some old → old.node = d.node → old.channel = d.channel →
      d.status = old.status
      ∧ (old.kind = d.kind → d.commanded = old.commanded ∧ d.requested = old.requested ∧ d.value = old.value)
      ∧ (old.kind ≠ d.kind → d.commanded = none ∧ d.requested = none ∧ d.value = none))
    ∧ ((∀ old, Table.entry s.drives index.toNat = some old → ¬(old.node = d.node ∧ old.channel = d.channel)) →
      d.commanded = none ∧ d.requested = none ∧ d.status = .unknown ∧ d.value = none) := by
  obtain rfl : driveEntryOf f (Table.entry s.drives index.toNat) = d :=
    Option.some.inj ((Table.entry_put_self _ _ _).symm.trans h)
  obtain ⟨node, channel⟩ := Prod.mk.inj (place_driveEntryOf f (Table.entry s.drives index.toNat))
  obtain ⟨kind, -, -, owner⟩ := driveEntryOf_loaded f (Table.entry s.drives index.toNat)
  rw [node, channel, kind]
  refine ⟨owner, fun old full sameNode sameChannel => ?_, fun other => ?_⟩
  · rw [full]
    exact driveEntryOf_kept (Prod.ext sameNode sameChannel)
  · rw [driveEntryOf_fresh fun e full same => other e full (Prod.mk.inj same)]
    exact ⟨rfl, rfl, rfl, rfl⟩

theorem point_applyWrite {f : PointFields} {p : PointEntry}
    (h : Table.entry (s.applyWrite (.full index (.point f))).points index.toNat = some p) :
    (∀ old, Table.entry s.points index.toNat = some old → old.node = p.node → old.channel = p.channel →
      old.kind = p.kind → p = old)
    ∧ ((∀ old, Table.entry s.points index.toNat = some old →
        ¬(old.node = p.node ∧ old.channel = p.channel ∧ old.kind = p.kind)) →
      p.value = none ∧ p.quality = .none ∧ p.time = none) := by
  obtain rfl : pointEntryOf f (Table.entry s.points index.toNat) = p :=
    Option.some.inj ((Table.entry_put_self _ _ _).symm.trans h)
  obtain ⟨node, channel⟩ := Prod.mk.inj (place_pointEntryOf f (Table.entry s.points index.toNat))
  rw [node, channel, kind_pointEntryOf]
  refine ⟨fun old full sameNode sameChannel kind => ?_, fun other => ?_⟩
  · rw [full]
    exact pointEntryOf_kept (Prod.ext sameNode sameChannel) kind
  · rw [pointEntryOf_fresh other]
    exact ⟨rfl, rfl, rfl⟩

/-- R21: a written station is FREE with an empty queue. -/
theorem station_applyWrite {f : StationFields} {st : StationId} (named : st.val = index.toNat) :
    (s.applyWrite (.full index (.station f))).station st = ⟨some (stationLoadOf f), none, false, []⟩ := by
  simp only [State.applyWrite, State.putContent, stationAt_eq_some.2 named, State.station_updStation, Station.empty]

/-- R23: a written header is STEADY on DRAIN. -/
theorem header_applyWrite {f : HeaderFields} {h : HeaderId} (named : h.val = index.toNat) :
    (s.applyWrite (.full index (.header f))).header h
      = ⟨some (headerLoadFor f), .drain, none, .steady, Timer.off, Timer.off⟩ := by
  simp only [State.applyWrite, State.putContent, headerAt_eq_some.2 named, State.header_updHeader, Header.empty]

end dynamics

/-- Settles O24: the entry is read back field by field, the frame of a write is its own entry, and the dynamic fields
follow the entry functions of each table. -/
theorem writtenEntry : Obligations.WrittenEntry := by
  refine ⟨fun s => ⟨fun index content taken => ?full, fun table index taken => ?empty⟩, ?dynamic⟩
  case full =>
    obtain ⟨range, -, checks⟩ := refuseWrite_full.1 taken
    refine ⟨contentAt_putContent_self range checks, fun t n other => ?_⟩
    by_cases same : t = Content.table content
    · subst same
      exact contentAt_putContent_of_index_ne (other.resolve_left (not_not.2 rfl))
    · exact contentAt_putContent_of_table_ne same
  case empty =>
    refine ⟨contentAt_removeEntry_self table index.toNat, fun t n other => ?_⟩
    by_cases same : t = table
    · subst same
      exact contentAt_removeEntry_of_index_ne (other.resolve_left (not_not.2 rfl))
    · exact contentAt_removeEntry_of_table_ne same
  case dynamic =>
    rintro s index n rfl
    exact ⟨fun _ _ _ full => node_applyWrite full, fun _ taken => segment_applyWrite taken,
      fun _ _ _ full => valve_applyWrite full, fun _ _ _ full => drive_applyWrite full,
      fun _ _ _ full => point_applyWrite full, fun f _ _ named => ⟨stationLoadOf f, station_applyWrite named⟩,
      fun f _ _ named => ⟨headerLoadFor f, header_applyWrite named⟩⟩

end Sys2Proof.Machine

/-! ## ROUND_START refused (R33, R187) -/

namespace Sys2Proof.Machine

open Sys2Proof

/-! ### The octets of the request -/

section octets

variable {o : Octet} {k : Slot}

theorem find?_allSlots_val (k : Slot) : allSlots.find? (·.val == k.val) = some k := by
  revert k
  decide

theorem slotAt_eq_some : slotAt o = some k ↔ o.toNat = k.val := by
  unfold slotAt
  constructor
  · intro found
    have named : (k.val == o.toNat) = true := List.find?_some (p := fun j : Slot => j.val == o.toNat) found
    exact (beq_iff_eq.1 named).symm
  · intro named
    rw [named]
    exact find?_allSlots_val k

theorem slotAt_eq_none_of_le (out : 16 ≤ o.toNat) : slotAt o = none :=
  Option.eq_none_iff_forall_ne_some.2 fun k found => by
    have named := slotAt_eq_some.1 found
    omega

theorem RoundClass.ofCode_eq_none : RoundClass.ofCode o = none ↔ 2 < o.toNat := by
  unfold RoundClass.ofCode
  split
  case h_1 code | h_2 code | h_3 code => simp [code]
  case h_4 notA notB notC =>
    rw [imp_false] at notA notB notC
    exact iff_of_true rfl (by omega)

theorem RoundClass.ofCode_eq_some_of_le (known : o.toNat ≤ 2) : ∃ g, RoundClass.ofCode o = some g :=
  Option.ne_none_iff_exists'.1 fun unknown => Nat.not_lt.2 known (RoundClass.ofCode_eq_none.1 unknown)

end octets

/-! ### The validity checks, in the order of R33 -/

section validity

variable {s : State} {recipe route : Nat}

/-! The validity checks look at neither the port nor the buffer. -/

theorem returnPlace_opened (s : State) (l : List Nat) : s.opened.returnPlace l = s.returnPlace l := by
  induction l with
  | nil => rfl
  | cons n l ih =>
    cases l with
    | nil => rfl
    | cons m l => exact congrArg (fun rest => if s.isReturn n then some ⟨4, n⟩ else rest) ih

theorem routeChecks_opened (s : State) (r : Route) : s.opened.routeChecks r = s.routeChecks r := by
  unfold State.routeChecks
  rw [returnPlace_opened]
  rfl

theorem driveLimit_opened (s : State) (i : Nat) (st : RecipeStep) (ks : List StationId) :
    s.opened.driveLimit i st ks = s.driveLimit i st ks := by
  induction ks with
  | nil => rfl
  | cons k ks ih =>
    unfold State.driveLimit
    rw [ih]
    rfl

theorem criterionRoles_opened (s : State) (h : Option HeaderLoad) (ks : List StationId) (i : Nat) (l : List Criterion) :
    ∀ n, s.opened.criterionRoles h ks i l n = s.criterionRoles h ks i l n := by
  induction l with
  | nil => exact fun _ => rfl
  | cons c l ih =>
    intro n
    unfold State.criterionRoles
    rw [ih]
    cases c.role <;> rfl

theorem stepChecks_opened (s : State) (r : Route) (i : Nat) (st : RecipeStep) :
    s.opened.stepChecks r i st = s.stepChecks r i st := by
  unfold State.stepChecks State.supplyChecks
  dsimp only
  rw [driveLimit_opened, criterionRoles_opened]
  rfl

theorem recipeChecks_opened (s : State) (r : Route) (steps : List RecipeStep) :
    ∀ i, s.opened.recipeChecks r i steps = s.recipeChecks r i steps := by
  induction steps with
  | nil => exact fun _ => rfl
  | cons st steps ih =>
    intro i
    unfold State.recipeChecks
    rw [stepChecks_opened, ih]

theorem invalid_opened (s : State) (recipe route : Nat) : s.opened.invalid recipe route = s.invalid recipe route := by
  unfold State.invalid
  simp only [routeChecks_opened, recipeChecks_opened]
  rfl

theorem invalid_of_no_route (empty : Table.entry s.routes route = none) :
    s.invalid recipe route = some ⟨1, route⟩ := by
  unfold State.invalid
  rw [empty]

theorem invalid_of_no_recipe (full : Table.entry s.routes route ≠ none) (empty : Table.entry s.recipes recipe = none) :
    s.invalid recipe route = some ⟨2, recipe⟩ := by
  obtain ⟨r, entry⟩ := Option.ne_none_iff_exists'.1 full
  unfold State.invalid
  rw [entry, empty]

theorem invalid_of_entries {r : Route} {steps : List RecipeStep} (routeFull : Table.entry s.routes route = some r)
    (recipeFull : Table.entry s.recipes recipe = some steps) :
    s.invalid recipe route = (s.routeChecks r ++ s.recipeChecks r 0 steps).findSome? id := by
  unfold State.invalid
  rw [routeFull, recipeFull]

end validity

/-! ### The refusals, in the order of R187 -/

section refusals

variable {s : State} {slot recipe route cls : Octet} {k : Slot}

/-- A taken request whose action refuses it: the reply is placed, and nothing else is done. -/
theorem requestArrives_refused {a : Ask} {act : Action} {r : Reply} (h : s.listens)
    (refuses : act s.opened = (s.opened, r)) : s.requestArrives a act = s.opened.closing a r := by
  have arrives := requestArrives_taken h a act (by rw [refuses]; exact h.2.2)
  rwa [refuses] at arrives

theorem exec_roundStart_refused {a : Ask} {r : Reply} (h : s.listens)
    (refuses : startAction slot recipe route cls s.opened = (s.opened, r)) :
    exec (.roundStart a slot recipe route cls) s = .next (s.opened.closing a r) :=
  congrArg Host.Outcome.next (requestArrives_refused h refuses)

theorem startAction_badIndex (out : 16 ≤ slot.toNat ∨ 24 ≤ recipe.toNat ∨ 48 ≤ route.toNat) :
    startAction slot recipe route cls s = (s, Reply.refuse .badIndex) := by
  unfold startAction
  obtain slotOut | entryOut := out
  · rw [slotAt_eq_none_of_le slotOut]
  · split
    · rfl
    · exact if_pos (by simpa using entryOut)

theorem startAction_badRequest (named : slot.toNat = k.val) (recipeIn : recipe.toNat < 24) (routeIn : route.toNat < 48)
    (unknown : 2 < cls.toNat) : startAction slot recipe route cls s = (s, Reply.refuse .badRequest) := by
  unfold startAction
  rw [slotAt_eq_some.2 named, RoundClass.ofCode_eq_none.2 unknown]
  exact if_neg (by simp [recipeIn, routeIn])

/-- With the three indexes in range and the class known, the slot's state is judged before the checks of R33. -/
theorem startAction_slotBusy (named : slot.toNat = k.val) (recipeIn : recipe.toNat < 24) (routeIn : route.toNat < 48)
    (known : cls.toNat ≤ 2) (busy : (s.round k).state ≠ .idle) :
    startAction slot recipe route cls s = (s, ⟨.slotBusy, some (s.round k).state.code, none, []⟩) := by
  obtain ⟨grade, code⟩ := RoundClass.ofCode_eq_some_of_le known
  unfold startAction
  rw [slotAt_eq_some.2 named, code]
  exact (if_neg (by simp [recipeIn, routeIn])).trans (if_pos busy)

theorem startAction_routeInvalid {f : CheckFailure} (named : slot.toNat = k.val) (recipeIn : recipe.toNat < 24)
    (routeIn : route.toNat < 48) (known : cls.toNat ≤ 2) (idle : (s.round k).state = .idle)
    (fails : s.invalid recipe.toNat route.toNat = some f) :
    startAction slot recipe route cls s = (s, ⟨.routeInvalid, some f.check, some f.subject, []⟩) := by
  obtain ⟨grade, code⟩ := RoundClass.ofCode_eq_some_of_le known
  unfold startAction
  rw [slotAt_eq_some.2 named, code, fails]
  exact (if_neg (by simp [recipeIn, routeIn])).trans (if_neg (not_not.2 idle))

end refusals

/-- Settles O29: each judgement of R187 in its order; past the slot's state, every refusal is what the validity
judgement of R33 answers. -/
theorem roundStartRefused : Obligations.RoundStartRefused := by
  intro a slot recipe route cls s listens
  refine ⟨fun out => exec_roundStart_refused listens (startAction_badIndex out),
    fun k named recipeIn routeIn => ⟨fun unknown => ?unknown, fun known => ⟨fun busy => ?busy, fun idle => ?idle⟩⟩⟩
  case unknown => exact exec_roundStart_refused listens (startAction_badRequest named recipeIn routeIn unknown)
  case busy => exact exec_roundStart_refused listens (startAction_slotBusy named recipeIn routeIn known busy)
  case idle =>
    have refuses : ∀ {f}, s.invalid recipe.toNat route.toNat = some f →
        exec (.roundStart a slot recipe route cls) s
          = .next (s.opened.closing a ⟨.routeInvalid, some f.check, some f.subject, []⟩) := fun fails =>
      exec_roundStart_refused listens
        (startAction_routeInvalid named recipeIn routeIn known idle ((invalid_opened ..).trans fails))
    exact ⟨fun empty => refuses (invalid_of_no_route empty),
      fun full empty => refuses (invalid_of_no_recipe full empty),
      fun r steps f routeFull recipeFull fails => refuses ((invalid_of_entries routeFull recipeFull).trans fails)⟩

end Sys2Proof.Machine

/-! ## Conflict and claimability (R45, R46) -/

namespace Sys2Proof.Machine

open Sys2Proof

section claimable

variable {s : State} {r q : Route} {n m : Nat} {v : ValveEntry} {l : List Nat} {side : Option Nat}

@[simp] theorem sideIn_eq_true : sideIn l side = true ↔ ∃ m ∈ l, side = some m := by
  cases side <;> simp [sideIn]

@[simp] theorem sideOut_eq_true : sideOut l side = true ↔ ∃ m, m ∉ l ∧ side = some m := by
  cases side <;> simp [sideOut]

/-- The edge valves of a segment list, and their outer segments (R46). -/
theorem outerSegment_eq_some : outerSegment l v = some m ↔ ∃ n ∈ l, m ∉ l
    ∧ (v.sideA = some n ∧ v.sideB = some m ∨ v.sideB = some n ∧ v.sideA = some m) := by
  unfold outerSegment
  split
  next h =>
    rw [Bool.and_eq_true, sideIn_eq_true, sideOut_eq_true] at h
    obtain ⟨⟨a, ha, ea⟩, b, hb, eb⟩ := h
    rw [ea, eb]
    grind
  next h =>
    rw [Bool.and_eq_true, sideIn_eq_true, sideOut_eq_true] at h
    split
    next g =>
      rw [Bool.and_eq_true, sideIn_eq_true, sideOut_eq_true] at g
      obtain ⟨⟨b, hb, eb⟩, a, ha, ea⟩ := g
      rw [ea, eb]
      grind
    next g =>
      rw [Bool.and_eq_true, sideIn_eq_true, sideOut_eq_true] at g
      grind

/-- What an edge valve owes to its outer segment (R46): a SUSPECT one bars it, a PRODUCT one wants a MIXPROOF valve
that the claim neither sets, nor feeds through, nor diverts. -/
def State.edgeHolds (s : State) (r : Route) (n : Nat) (v : ValveEntry) (outer : Nat) : Prop :=
  (∀ c, s.segState outer ≠ .suspect c)
  ∧ (s.segState outer = .product → v.kind = .mixproof ∧ n ∉ r.setting.map (·.valve) ∧ n ∉ r.stations.map (·.valve)
    ∧ n ∉ s.routeDiverters r)

theorem edgePasses_eq_true : s.edgePasses r n v = true ↔
    ∀ outer, outerSegment r.segments v = some outer → s.edgeHolds r n v outer := by
  unfold State.edgePasses State.edgeHolds
  split
  next inner => simp [inner]
  next outer edge =>
    cases state : s.segState outer <;> simp [edge, state, and_assoc]

theorem segregated_eq_true : s.segregated r = true ↔ ∀ x ∈ s.valves, ∀ inner outer,
    (x.2.sideA = some inner ∧ x.2.sideB = some outer ∨ x.2.sideB = some inner ∧ x.2.sideA = some outer) →
    inner ∈ r.segments → outer ∉ r.segments → s.edgeHolds r x.1 x.2 outer := by
  unfold State.segregated
  rw [Option.isNone_iff_eq_none, Table.first_eq_none]
  refine forall₂_congr fun x _ => ?_
  rw [Bool.not_eq_false', edgePasses_eq_true]
  refine ⟨fun h inner outer sides mem out => h outer (outerSegment_eq_some.2 ⟨inner, mem, out, sides⟩),
    fun h outer edge => ?_⟩
  obtain ⟨inner, mem, out, sides⟩ := outerSegment_eq_some.1 edge
  exact h inner outer sides mem out

theorem valveOwner_isNone : (s.valveOwner n).isNone = true ↔ ∀ v, Table.entry s.valves n = some v → v.owner = none := by
  unfold State.valveOwner
  split
  next v full => simp [full]
  next empty => simp [empty]

/-- The items of R45, each against the state. -/
theorem claimable_eq_true : s.claimable r = true ↔
    (∀ n ∈ r.segments, s.segState n = .free ∧ Table.entry s.segments n ≠ none)
    ∧ (∀ n ∈ r.setting.map (·.valve) ++ r.stations.map (·.valve) ++ s.routeDiverters r, ∀ v,
      Table.entry s.valves n = some v → v.owner = none)
    ∧ (∀ n ∈ r.setting.map (·.valve) ++ r.boundary.map (·.valve) ++ r.stations.map (·.valve),
      Table.entry s.valves n ≠ none)
    ∧ ∀ x ∈ s.valves, ∀ inner outer,
      (x.2.sideA = some inner ∧ x.2.sideB = some outer ∨ x.2.sideB = some inner ∧ x.2.sideA = some outer) →
      inner ∈ r.segments → outer ∉ r.segments → s.edgeHolds r x.1 x.2 outer := by
  simp only [State.claimable, Bool.and_eq_true, segregated_eq_true, List.all_eq_true, beq_iff_eq, valveOwner_isNone,
    Option.isSome_iff_ne_none]
  constructor
  · rintro ⟨⟨⟨⟨free, owners⟩, edges⟩, full⟩, valves⟩
    exact ⟨fun n mem => ⟨free n mem, full n mem⟩, owners, valves, edges⟩
  · rintro ⟨segments, owners, valves, edges⟩
    exact ⟨⟨⟨⟨fun n mem => (segments n mem).1, owners⟩, edges⟩, fun n mem => (segments n mem).2⟩, valves⟩

theorem conflicts_eq_true : r.conflicts q = true ↔ (∃ n ∈ r.segments, n ∈ q.segments)
    ∨ ∃ n ∈ r.setting.map (·.valve), n ∈ q.setting.map (·.valve) := by
  simp only [Route.conflicts, Bool.or_eq_true, List.any_eq_true, List.contains_iff_mem]

end claimable

/-- Settles O58: the items of R45 one by one, the edge valves of R46 by the state of their outer segment. -/
theorem claimableRoutes : Obligations.ClaimableRoutes := by
  intro s r q _
  refine ⟨claimable_eq_true.trans ?_, conflicts_eq_true⟩
  refine and_congr_right fun _ => and_congr_right fun _ => and_congr_right fun _ => ?_
  refine forall₂_congr fun x _ => forall₂_congr fun inner outer => forall₃_congr fun _ _ _ => ?_
  unfold State.edgeHolds
  dsimp only
  cases s.segState outer with
  | free | claimed k | suspect c => simp
  | product => exact ⟨fun ⟨_, apart⟩ => apart rfl, fun apart => ⟨fun _ => SegmentState.noConfusion, fun _ => apart⟩⟩

/-! ## The walk of the route claim queue (R47, R48) -/

section walk

variable {s : State} {k : Slot} {older : List Slot}

/-- When the walk grants a waiting round (R48). -/
theorem grantable_eq_true : s.grantable k older = true ↔ ∃ r, s.routeOf k = some r ∧ s.claimable r = true
    ∧ ∀ j ∈ older, ∀ q, s.routeOf j = some q → r.conflicts q = false := by
  unfold State.grantable
  split
  next r route => simp [route, Option.any_eq_false]
  next empty => simp [empty]

/-- The walk passes over waiting rounds none of which is grantable after those before it. -/
theorem walkFrom_passed {passed : List Slot} (rest : List Slot)
    (h : ∀ prior j later, passed = prior ++ j :: later → s.grantable j (older ++ prior) = false) :
    State.walkFrom (passed ++ rest) older s = State.walkFrom rest (older ++ passed) s := by
  induction passed generalizing older with
  | nil => simp
  | cons k passed ih =>
    have first : s.grantable k older = false := by simpa using h [] k passed rfl
    rw [List.cons_append, State.walkFrom, first, if_neg Bool.false_ne_true, ih fun prior j later e => ?_,
      List.append_assoc, List.singleton_append]
    simpa using h (k :: prior) j later (by rw [e, List.cons_append])

theorem walkFrom_granted {rest : List Slot} (h : s.grantable k older = true) :
    State.walkFrom (k :: rest) older s = State.walkFrom rest older (s.grantClaim k) := by
  rw [State.walkFrom, h, if_pos rfl]

/-- A claimable round that conflicts with an older one is not grantable. -/
theorem grantable_eq_false (h : ∀ r, s.routeOf k = some r → s.claimable r = true →
    ∃ j ∈ older, ∃ q, s.routeOf j = some q ∧ r.conflicts q = true) : s.grantable k older = false := by
  rw [← Bool.not_eq_true, grantable_eq_true]
  rintro ⟨r, route, claimable, apart⟩
  obtain ⟨j, mem, q, other, conflict⟩ := h r route claimable
  exact absurd conflict (by simp [apart j mem q other])

end walk

/-- Settles O59: the walk passes over the rounds before the first grantable one, and with none it passes over all. -/
theorem walkNeverOvertakes : Obligations.WalkNeverOvertakes := by
  refine ⟨fun s barred => ?quiet, fun s before after k r queue _ route claimable apart barred => ?grants⟩
  case quiet =>
    have passes := walkFrom_passed (s := s) (older := []) (passed := s.claimQueue) [] fun prior j later e =>
      grantable_eq_false (barred prior j later e)
    rw [List.append_nil] at passes
    exact passes
  case grants =>
    rw [State.walk, queue, walkFrom_passed _ fun prior j later e => grantable_eq_false (barred prior j later e)]
    exact walkFrom_granted (grantable_eq_true.2 ⟨r, route, claimable, apart⟩)

end Sys2Proof.Machine

/-! ## Marks of a segment (R57 to R62) -/

namespace Sys2Proof.Machine

open Sys2Proof

namespace Table

variable {α : Type} {p : Nat → α → Bool} {t : Table α} {n : Nat} {v : α}

/-- In a canonical table, the entry of lowest index that satisfies a condition is the first one found. -/
theorem first_of_lowest (wf : wf t = true) (mem : (n, v) ∈ t) (holds : p n v = true)
    (lower : ∀ x ∈ t, x.1 < n → p x.1 x.2 = false) : first p t = some n := by
  induction t with
  | nil => simp at mem
  | cons x t ih =>
    obtain ⟨k, w⟩ := x
    obtain ⟨above, tail⟩ := (wf_cons k w t).1 wf
    obtain head | mem := List.mem_cons.1 mem
    · obtain ⟨rfl, rfl⟩ := Prod.mk.inj head
      exact if_pos holds
    · have skip : p k w = false := lower (k, w) List.mem_cons_self (above _ mem)
      rw [first, if_neg (by simp [skip])]
      exact ih tail mem fun x hx => lower x (List.mem_cons_of_mem _ hx)

end Table

section marks

variable {s : State} {a : Ask} {segment : Octet} {act : Nat → SegmentState → Action} {e : SegmentEntry} {n : Nat}
  {v : ValveEntry} {r : Reply}

/-! ### The segment a request names -/

theorem onSegment_empty (empty : Table.entry s.segments segment.toNat = none) :
    onSegment segment act s = (s, Reply.refuse .badIndex) := by
  rw [onSegment, empty]

theorem onSegment_out (out : 192 ≤ segment.toNat) : onSegment segment act s = (s, Reply.refuse .badIndex) := by
  unfold onSegment
  split
  · exact if_neg (Nat.not_lt.2 out)
  · rfl

theorem onSegment_full (full : Table.entry s.segments segment.toNat = some e) (range : segment.toNat < 192) :
    onSegment segment act s = act segment.toNat e.state s := by
  rw [onSegment, full]
  exact if_pos range

/-! ### The valves that bar a PRODUCT mark (R58) -/

theorem claimSlot_sideState {side : Option Nat} :
    (claimSlot (s.sideState side)).isSome = true ↔ ∃ m k, side = some m ∧ s.segState m = .claimed k := by
  cases side with
  | none => simp [State.sideState, claimSlot]
  | some m =>
    unfold State.sideState claimSlot
    cases state : s.segState m <;> simp [state]

theorem barsMark_eq_true : s.barsMark n v = true ↔
    (v.sideA = some n ∧ (∃ m k, v.sideB = some m ∧ s.segState m = .claimed k)
      ∨ v.sideB = some n ∧ ∃ m k, v.sideA = some m ∧ s.segState m = .claimed k)
    ∧ (v.kind = .singleSeat ∨ v.owner ≠ none) := by
  simp only [State.barsMark, Bool.and_eq_true, Bool.or_eq_true, beq_iff_eq, claimSlot_sideState, ne_eq,
    Option.isSome_iff_ne_none (o := v.owner)]

/-! ### What a taken request on a segment does -/

/-- A segment that becomes FREE, and the walk that follows, leave the link as it is. -/
theorem linkSilent_setFree (s : State) (n : Nat) : (s.setSegState n .free).walk.linkSilent = s.linkSilent :=
  linkSilent_walk _

/-- A taken request on a segment in range: its action, and the answer. -/
theorem requestArrives_onSegment {t : State} (h : s.listens) (full : Table.entry s.segments segment.toNat = some e)
    (range : segment.toNat < 192) (acts : act segment.toNat e.state s.opened = (t, r))
    (quiet : t.linkSilent = s.linkSilent) : s.requestArrives a (onSegment segment act) = t.closing a r := by
  have named : onSegment segment act s.opened = (t, r) := (onSegment_full (s := s.opened) full range).trans acts
  have arrives := requestArrives_taken h a (onSegment segment act) (by rw [named]; exact quiet.trans h.2.2)
  rwa [named] at arrives

/-- An index that names no full entry of the table. -/
theorem requestArrives_badSegment (h : s.listens)
    (out : 192 ≤ segment.toNat ∨ Table.entry s.segments segment.toNat = none) :
    s.requestArrives a (onSegment segment act) = s.opened.closing a ⟨.badIndex, none, none, []⟩ := by
  refine requestArrives_refused h ?_
  obtain out | empty := out
  · exact onSegment_out out
  · exact onSegment_empty (s := s.opened) empty

/-! ### The marks, by the segment's state -/

theorem markProduct_free (clear : ∀ x ∈ s.valves, s.barsMark n x.2 = false) :
    markProduct n .free s = (s.setSegState n .product, Reply.ok) := by
  have unbarred : Table.first (fun _ v => s.barsMark n v) s.valves = none := Table.first_eq_none.2 clear
  unfold markProduct
  dsimp only
  rw [unbarred]

theorem markProduct_barred {x : Nat × ValveEntry} (wf : Table.wf s.valves = true) (mem : x ∈ s.valves)
    (bars : s.barsMark n x.2 = true) (lower : ∀ y ∈ s.valves, y.1 < x.1 → s.barsMark n y.2 = false) :
    markProduct n .free s = (s, ⟨.segregation, none, some x.1, []⟩) := by
  have barred : Table.first (fun _ v => s.barsMark n v) s.valves = some x.1 :=
    Table.first_of_lowest wf mem bars lower
  unfold markProduct
  dsimp only
  rw [barred]

theorem markProduct_product : markProduct n .product s = (s, Reply.ok) := rfl

theorem markProduct_claimed {k : Slot} : markProduct n (.claimed k) s = (s, ⟨.inUse, none, some k.val, []⟩) := rfl

theorem markProduct_suspect {c : SuspectCause} : markProduct n (.suspect c) s = (s, ⟨.wrongState, some 3, none, []⟩) :=
  rfl

theorem markFree_product : markFree n .product s = ((s.setSegState n .free).walk, Reply.ok) := rfl

theorem markFree_free : markFree n .free s = (s, Reply.ok) := rfl

theorem markFree_claimed {k : Slot} : markFree n (.claimed k) s = (s, ⟨.inUse, none, some k.val, []⟩) := rfl

theorem markFree_suspect {c : SuspectCause} : markFree n (.suspect c) s = (s, ⟨.wrongState, some 3, none, []⟩) := rfl

theorem clearSuspect_suspect {c : SuspectCause} :
    clearSuspect n (.suspect c) s = ((s.setSegState n .free).walk, Reply.ok) := rfl

end marks

end Sys2Proof.Machine

/-! The statements about the marks have the names of the model's actions, so they stand in a namespace of their own. -/

namespace Sys2Proof.Machine.Marks

open Sys2Proof

/-- Settles O37: the segment's state first, then the valves toward CLAIMED segments in table order. -/
theorem markProduct : Obligations.MarkProduct := by
  intro a segment s listens canonical
  dsimp only
  refine ⟨fun empty => congrArg Host.Outcome.next (requestArrives_badSegment listens (.inr empty)), fun e full => ?_⟩
  have range : segment.toNat < 192 := canonical.2.1.2 _ (Table.mem_of_entry full)
  have answered := fun {t r} => requestArrives_onSegment (a := a) (act := Machine.markProduct) (t := t) (r := r)
    listens full range
  refine ⟨fun free clear => congrArg Host.Outcome.next (answered ?marks rfl),
    fun x mem free bars lower => congrArg Host.Outcome.next (answered ?bars rfl),
    fun product => congrArg Host.Outcome.next (answered (product ▸ markProduct_product) rfl),
    fun k claimed => congrArg Host.Outcome.next (answered (claimed ▸ markProduct_claimed) rfl),
    fun c suspect => congrArg Host.Outcome.next (answered (suspect ▸ markProduct_suspect) rfl)⟩
  case marks =>
    rw [free]
    exact markProduct_free fun x mem => Bool.eq_false_iff.2 fun bars => clear x mem (barsMark_eq_true.1 bars)
  case bars =>
    obtain ⟨-, -, ⟨wf, -⟩, -⟩ := canonical
    rw [free]
    exact markProduct_barred (s := s.opened) wf mem (barsMark_eq_true.2 bars) fun y memy below =>
      Bool.eq_false_iff.2 fun bars => lower y memy below (barsMark_eq_true.1 bars)

/-- Settles O38: by the segment's state; a PRODUCT segment is freed before the walk. -/
theorem markFree : Obligations.MarkFree := by
  intro a segment s listens range
  dsimp only
  refine ⟨fun empty => congrArg Host.Outcome.next (requestArrives_badSegment listens (.inr empty)), fun e full => ?_⟩
  have answered := fun {t r} => requestArrives_onSegment (a := a) (act := Machine.markFree) (t := t) (r := r)
    listens full range
  exact ⟨fun product => congrArg Host.Outcome.next (answered (product ▸ markFree_product) (linkSilent_setFree ..)),
    fun free => congrArg Host.Outcome.next (answered (free ▸ markFree_free) rfl),
    fun k claimed => congrArg Host.Outcome.next (answered (claimed ▸ markFree_claimed) rfl),
    fun c suspect => congrArg Host.Outcome.next (answered (suspect ▸ markFree_suspect) rfl)⟩

/-- Settles O39: a SUSPECT segment is freed before the walk; any other keeps its state, whose code is the answer's. -/
theorem suspectClear : Obligations.SuspectClear := by
  intro a segment s listens
  dsimp only
  refine ⟨fun out => congrArg Host.Outcome.next (requestArrives_badSegment listens out), fun e range full => ?_⟩
  have answered := fun {t r} => requestArrives_onSegment (a := a) (act := clearSuspect) (t := t) (r := r)
    listens full range
  refine ⟨fun c suspect => congrArg Host.Outcome.next
      (answered (suspect ▸ clearSuspect_suspect) (linkSilent_setFree ..)),
    fun clean => congrArg Host.Outcome.next (answered ?refused rfl)⟩
  cases state : e.state with
  | free | product | claimed k => rfl
  | suspect c => exact absurd state (clean c)

end Sys2Proof.Machine.Marks

/-! ## PRODUCT and CLAIMED kept apart (R56) -/

namespace Sys2Proof.Machine

open Sys2Proof

/-! ### What the law of R56 reads -/

/-- What a valve joins, and with what kind of seat. -/
def ValveEntry.joint (v : ValveEntry) : ValveKind × Option Nat × Option Nat := (v.kind, v.sideA, v.sideB)

/-- What R56 reads of a state: the state of each segment, and the joints of the valves. -/
def State.layout (s : State) : (Nat → SegmentState) × Table (ValveKind × Option Nat × Option Nat) :=
  (s.segState, Table.keys ValveEntry.joint s.valves)

section layout

variable {s t : State}

theorem layout_eq (segments : ∀ n, t.segState n = s.segState n)
    (joints : Table.keys ValveEntry.joint t.valves = Table.keys ValveEntry.joint s.valves) : t.layout = s.layout :=
  Prod.ext (funext segments) joints

/-- States with the same segments and joints. -/
theorem layout_of_segments (segments : t.segments = s.segments)
    (joints : Table.keys ValveEntry.joint t.valves = Table.keys ValveEntry.joint s.valves) : t.layout = s.layout :=
  layout_eq (fun n => by unfold State.segState; rw [segments]) joints

/-- A valve joins two segments. -/
def ValveEntry.joins (v : ValveEntry) (m n : Nat) : Prop :=
  v.sideA = some m ∧ v.sideB = some n ∨ v.sideB = some m ∧ v.sideA = some n

theorem sideState_eq_some {side : Option Nat} {st : SegmentState} :
    s.sideState side = some st ↔ ∃ n, side = some n ∧ s.segState n = st := by
  cases side <;> simp [State.sideState]

/-- The law of R56, valve by valve and segment by segment. -/
theorem productApart_iff : s.productApart ↔ ∀ x ∈ s.valves, ∀ claimed product k, x.2.joins claimed product →
    s.segState claimed = .claimed k → s.segState product = .product → x.2.kind = .mixproof := by
  refine forall₂_congr fun x _ => ?_
  simp only [sideState_eq_some, claimSlot_sideState]
  constructor
  · rintro h m n k (⟨a, b⟩ | ⟨b, a⟩) claimed product
    · exact h (.inr ⟨⟨n, b, product⟩, m, k, a, claimed⟩)
    · exact h (.inl ⟨⟨n, a, product⟩, m, k, b, claimed⟩)
  · rintro h (⟨⟨n, a, product⟩, m, k, b, claimed⟩ | ⟨⟨n, b, product⟩, m, k, a, claimed⟩)
    · exact h m n k (.inr ⟨b, a⟩) claimed product
    · exact h m n k (.inl ⟨a, b⟩) claimed product

/-- Where no segment turns PRODUCT or CLAIMED and no joint changes, the law goes on holding. -/
theorem productApart_of_calmed (apart : s.productApart)
    (joints : Table.keys ValveEntry.joint t.valves = Table.keys ValveEntry.joint s.valves)
    (calmed : ∀ n, s.segState n = t.segState n ∨ t.segState n = .free ∨ ∃ c, t.segState n = .suspect c) :
    t.productApart := by
  refine productApart_iff.2 fun x mem m n k joins claimed product => ?_
  have listed : (x.1, x.2.joint) ∈ Table.keys ValveEntry.joint s.valves := joints ▸ List.mem_map_of_mem mem
  obtain ⟨y, old, same⟩ := List.mem_map.1 listed
  simp only [ValveEntry.joint, Prod.mk.injEq] at same
  obtain ⟨-, kind, sideA, sideB⟩ := same
  have claimed' : s.segState m = .claimed k := by simpa [claimed] using calmed m
  have product' : s.segState n = .product := by simpa [product] using calmed n
  rw [← kind]
  refine productApart_iff.1 apart y old m n k ?_ claimed' product'
  rwa [ValveEntry.joins, sideA, sideB]

theorem productApart_of_layout (h : t.layout = s.layout) (apart : s.productApart) : t.productApart := by
  obtain ⟨segments, joints⟩ := Prod.mk.inj h
  exact productApart_of_calmed apart joints fun n => .inl (congrFun segments n).symm

theorem productApart_foldl {β : Type} {f : State → β → State} (h : ∀ s x, s.productApart → (f s x).productApart)
    (l : List β) : ∀ s, s.productApart → (l.foldl f s).productApart := by
  induction l with
  | nil => exact fun _ => id
  | cons x l ih => exact fun s apart => ih _ (h s x apart)

/-- A state with no valves. -/
theorem productApart_of_nil (h : s.valves = []) : s.productApart := by
  intro x mem
  simp [h] at mem

end layout

/-! ### What leaves the layout alone -/

section quiet

variable {s t : State} {k : Slot}

theorem layout_foldl {β : Type} {f : State → β → State} (h : ∀ s x, (f s x).layout = s.layout) (l : List β) :
    ∀ s, (l.foldl f s).layout = s.layout := by
  induction l with
  | nil => exact fun _ => rfl
  | cons x l ih => exact fun s => (ih _).trans (h s x)

/-- The sequencer writes owners, commanded positions and times of valves, and no segment. -/
theorem layout_of_work {P : Slot → Prop} {Q : Prop} (w : Work P Q s t) : t.layout = s.layout := by
  obtain ⟨fields, valves, -⟩ := w.frame
  exact layout_of_segments (by rw [fields]) (Table.keys_eq_of_part valves fun _ => rfl)

/-- Settled and rebuilt frames write requested and commanded positions. -/
theorem layout_of_settled (h : Settled s t) : t.layout = s.layout :=
  layout_of_segments (by rw [h.fields]) (Table.keys_eq_of_part h.valves fun _ => rfl)

theorem layout_updValve (n : Nat) {f : ValveEntry → ValveEntry} (h : ∀ v, (f v).joint = v.joint) :
    (s.updValve n f).layout = s.layout := layout_of_segments rfl (Table.keys_adjust h _)

@[simp] theorem layout_ownValve (o : Option Slot) (n : Nat) : (s.ownValve o n).layout = s.layout :=
  layout_updValve n fun _ => rfl

@[simp] theorem layout_updRound (k : Slot) (f : Round → Round) : (s.updRound k f).layout = s.layout := rfl

@[simp] theorem layout_updStation (st : StationId) (f : Station → Station) :
    (s.updStation st f).layout = s.layout := rfl

@[simp] theorem layout_updHeader (h : HeaderId) (f : Header → Header) : (s.updHeader h f).layout = s.layout := rfl

@[simp] theorem layout_offer (e : Event) : (s.offer e).layout = s.layout :=
  layout_of_work (.offer (P := fun _ => True) (Q := True) e)

@[simp] theorem layout_enter (k : Slot) (st : RoundState) : (s.enter k st).layout = s.layout :=
  layout_of_work (.enter (P := fun _ => True) (Q := True) .rfl' trivial st)

@[simp] theorem layout_cascade (ts : List Task) : (s.cascade ts).layout = s.layout :=
  layout_of_work (.anyCascade .rfl' ts)

@[simp] theorem layout_pass (n : Nat) : (s.pass n).layout = s.layout :=
  layout_of_segments (State.pass_segments s n) (by rw [State.pass_valves])

@[simp] theorem layout_noteSilent (k : Slot) (nodes : List Octet) : (s.noteSilent k nodes).layout = s.layout := rfl

@[simp] theorem layout_sendF (l : List Octet) : (s.sendF l).layout = s.layout := rfl

@[simp] theorem layout_sendU (x : SentU) : (s.sendU x).layout = s.layout := rfl

@[simp] theorem layout_clearOwners (k : Slot) : (s.clearOwners k).layout = s.layout := by
  unfold State.clearOwners
  refine layout_of_segments rfl ?_
  dsimp only
  refine Table.keys_each (fun _ v => ?_) _
  split <;> rfl

/-! ### The frame path -/

@[simp] theorem layout_linkHeard : s.linkHeard.layout = s.layout := by
  by_cases silent : s.linkSilent = true
  · exact (layout_of_work (linkHeard_work s silent)).trans rfl
  · unfold State.linkHeard
    rw [if_neg silent]
    rfl

@[simp] theorem layout_linkExpires : s.linkExpires.layout = s.layout :=
  (layout_of_work (linkExpires_work s)).trans rfl

@[simp] theorem layout_blankNode (i : Nat) (a : Octet) : (s.blankNode i a).layout = s.layout := by
  unfold State.blankNode
  refine layout_of_segments rfl ?_
  dsimp only
  refine Table.keys_each (fun _ v => ?_) _
  split <;> rfl

@[simp] theorem layout_nodeExpires (i : Nat) (a : Octet) : (s.nodeExpires i a).layout = s.layout :=
  (layout_of_work (nodeExpires_work s i a)).trans (layout_blankNode i a)

@[simp] theorem layout_rebuild (a : Octet) (cause : RebuildCause) : (s.rebuild a cause).layout = s.layout := by
  have drives := layout_of_settled (.rebuildDrives a 4 0 s)
  have valves := layout_of_settled (.rebuildValves a 16 0 s)
  unfold State.rebuild
  dsimp only
  split
  · rw [layout_offer, layout_sendF, drives]
  · rw [layout_offer, layout_sendF, valves]

@[simp] theorem layout_wrongForm (f : Frame) (octets : List Octet) : (s.wrongForm f octets).layout = s.layout := by
  unfold State.wrongForm
  split <;> simp

@[simp] theorem layout_relayGood (f : Frame) (octets : List Octet) : (s.relayGood f octets).layout = s.layout := by
  have drives := fun l => layout_of_settled (.settleDrives f.dest l 0 s)
  have valves := fun l => layout_of_settled (.settleValves f.dest l 0 s)
  unfold State.relayGood State.relayCommand
  split
  · split
    · split <;> simp [valves]
    · split <;> simp [drives]
    · simp
  · simp

@[simp] theorem layout_relayBad (octets : List Octet) : (s.relayBad octets).layout = s.layout := by
  unfold State.relayBad
  split
  · split <;> simp
  · simp

theorem layout_writeValves (a : Octet) (l : List Feedback) : ∀ (slot : Nat) (s : State),
    (s.writeValves a slot l).layout = s.layout := by
  induction l with
  | nil => exact fun _ _ => rfl
  | cons x l ih =>
    intro slot s
    unfold State.writeValves
    rw [ih]
    split
    · exact layout_updValve _ fun _ => rfl
    · rfl

theorem layout_writeDrives (a : Octet) (l : List (DriveStatus × Nat)) : ∀ (channel : Nat) (s : State),
    (s.writeDrives a channel l).layout = s.layout := by
  induction l with
  | nil => exact fun _ _ => rfl
  | cons x l ih =>
    intro channel s
    unfold State.writeDrives
    rw [ih]
    split <;> rfl

theorem layout_writePoints (a : Octet) (l : List (Nat × Quality × Nat)) : ∀ s : State,
    (s.writePoints a l).layout = s.layout := by
  induction l with
  | nil => exact fun _ => rfl
  | cons x l ih =>
    intro s
    unfold State.writePoints
    rw [ih]
    split <;> rfl

@[simp] theorem layout_writeReading (a : Octet) (r : Reading) : (s.writeReading a r).layout = s.layout := by
  cases r with
  | valves l => exact layout_writeValves a l 0 s
  | drives l => exact layout_writeDrives a l 0 s
  | points l => exact layout_writePoints a l s

@[simp] theorem layout_arriveF (octets : List Octet) : (s.arriveF octets).layout = s.layout := by
  unfold State.arriveF
  rw [layout_sendU]
  split
  · exact (layout_of_work (deliver_work _ _ _)).trans
      ((layout_writeReading _ _).trans ((layout_of_work (hearNode_work s _ _)).trans rfl))
  · rfl

end quiet

/-! ### Claims given and given up -/

section claims

variable {s t : State} {k : Slot} {n m : Nat} {l : List Nat} {st : SegmentState}

/-- The state of a segment after a write. -/
theorem segState_setSegState : (s.setSegState n st).segState m
    = if m = n ∧ Table.entry s.segments m ≠ none then st else s.segState m := by
  unfold State.segState
  rw [State.setSegState_segments, Table.entry_adjust]
  by_cases named : m = n
  · cases Table.entry s.segments m <;> simp [named]
  · simp [named]

theorem entry_setSegState_ne_none :
    Table.entry (s.setSegState n st).segments m ≠ none ↔ Table.entry s.segments m ≠ none := by
  rw [State.setSegState_segments, Table.entry_adjust]
  split <;> simp

/-- The state of a segment after the segments of a list have been written. -/
theorem segState_setSegStates : (s.setSegStates l st).segState m
    = if m ∈ l ∧ Table.entry s.segments m ≠ none then st else s.segState m := by
  unfold State.setSegStates
  induction l generalizing s with
  | nil => simp
  | cons n l ih =>
    simp only [List.foldl_cons, ih, segState_setSegState, entry_setSegState_ne_none]
    grind

@[simp] theorem valves_setSegStates : (s.setSegStates l st).valves = s.valves := by
  unfold State.setSegStates
  induction l generalizing s with
  | nil => rfl
  | cons n l ih => exact ih

/-- Segments that become FREE or SUSPECT. -/
theorem productApart_setSegStates (calm : st = .free ∨ ∃ c, st = .suspect c) (apart : s.productApart) :
    (s.setSegStates l st).productApart := by
  refine productApart_of_calmed apart (by rw [valves_setSegStates]) fun n => ?_
  rw [segState_setSegStates]
  split
  · exact .inr calm
  · exact .inl rfl

theorem productApart_setSegState (calm : st = .free ∨ ∃ c, st = .suspect c) (apart : s.productApart) :
    (s.setSegState n st).productApart := productApart_setSegStates (l := [n]) calm apart

/-- R46 at a claim: a valve between a PRODUCT segment and a segment of the claimed route is an edge valve whose outer
segment is PRODUCT, and such a valve passes only as MIXPROOF. -/
theorem productApart_claimSegments {r : Route} (claimable : s.claimable r = true) (apart : s.productApart) :
    (s.setSegStates r.segments (.claimed k)).productApart := by
  obtain ⟨segments, -, -, edges⟩ := claimable_eq_true.1 claimable
  have state : ∀ n, (s.setSegStates r.segments (.claimed k)).segState n
      = if n ∈ r.segments then .claimed k else s.segState n := by
    intro n
    rw [segState_setSegStates]
    exact if_congr (and_iff_left_of_imp fun mem => (segments n mem).2) rfl rfl
  refine productApart_iff.2 fun x mem m n j joins claimed product => ?_
  rw [valves_setSegStates] at mem
  rw [state] at claimed product
  have outside : n ∉ r.segments := fun inside => by simp [inside] at product
  rw [if_neg outside] at product
  by_cases inside : m ∈ r.segments
  · exact ((edges x mem m n joins inside outside).2 product).1
  · rw [if_neg inside] at claimed
    exact productApart_iff.1 apart x mem m n j joins claimed product

/-- A claim grant (R50): after the segments, only owners, commands, the header and the round itself. -/
theorem layout_takeClaim (k : Slot) (r : Route) :
    (s.takeClaim k r).layout = (s.setSegStates r.segments (.claimed k)).layout := by
  have owners : ∀ u : State, ((s.claimValves r).foldl (fun s n => s.ownValve (some k) n) u).layout = u.layout :=
    layout_foldl (fun _ n => layout_ownValve (some k) n) _
  have queue : State.layout (State.setSegStates r.segments (.claimed k)
      { s with claimQueue := s.claimQueue.filter (· != k) }) = (s.setSegStates r.segments (.claimed k)).layout := by
    refine layout_eq (fun n => ?_) (by rw [valves_setSegStates, valves_setSegStates])
    rw [segState_setSegStates, segState_setSegStates]
    rfl
  exact (owners _).trans queue

theorem layout_grantClaim {r : Route} (route : s.routeOf k = some r) :
    (s.grantClaim k).layout = (s.setSegStates r.segments (.claimed k)).layout := by
  have commanded : ((s.takeClaim k r).commandValves r.positions).layout
      = (s.setSegStates r.segments (.claimed k)).layout :=
    (layout_of_work (.commandValves (P := fun _ => True) (Q := True) .rfl' r.positions)).trans (layout_takeClaim k r)
  have switched : ∀ (u : State) (h : HeaderId), (u.switch h .drain).layout = u.layout := fun u h =>
    layout_of_work (.switch (P := fun _ => True) (Q := True) .rfl' h .drain)
  have held : ∀ u : State, (u.enterHolding k .setting).layout = u.layout := fun u =>
    layout_of_work (.enterHolding (P := fun _ => True) (Q := True) .rfl' trivial .setting)
  unfold State.grantClaim
  rw [route]
  dsimp only
  split
  · rw [layout_cascade, layout_enter, commanded]
  · split
    · rw [layout_enter, layout_updRound, layout_noteSilent, switched, commanded]
    · rw [held, layout_updRound, layout_noteSilent, switched, commanded]

/-- The walk grants only claimable routes. -/
theorem productApart_walkFrom (waiting : List Slot) : ∀ (older : List Slot) (s : State), s.productApart →
    (State.walkFrom waiting older s).productApart := by
  induction waiting with
  | nil => exact fun _ _ apart => apart
  | cons k waiting ih =>
    intro older s apart
    unfold State.walkFrom
    split
    next granted =>
      obtain ⟨r, route, claimable, -⟩ := grantable_eq_true.1 granted
      exact ih _ _ (productApart_of_layout (layout_grantClaim route) (productApart_claimSegments claimable apart))
    next => exact ih _ _ apart

theorem productApart_walk (apart : s.productApart) : s.walk.productApart := productApart_walkFrom _ _ s apart

theorem productApart_startRound (recipe route : Nat) (grade : RoundClass) (apart : s.productApart) :
    (s.startRound k recipe route grade).productApart :=
  productApart_walk (productApart_of_layout (layout_enter _ _) (productApart_of_layout rfl apart))

/-- A claim that is given up leaves its segments FREE or SUSPECT (R52, R53). -/
theorem productApart_giveUpClaim (calm : st = .free ∨ ∃ c, st = .suspect c) (apart : s.productApart) :
    (s.giveUpClaim k st).productApart := by
  have released : ∀ h, (s.releaseHeader h).layout = s.layout := fun h =>
    layout_of_work (.releaseHeader (P := fun _ => True) (Q := True) .rfl' h)
  unfold State.giveUpClaim
  dsimp only
  refine productApart_of_layout ((layout_updRound k _).trans (layout_clearOwners k)) ?_
  split
  · refine productApart_setSegStates calm ?_
    split
    · exact productApart_of_layout (released _) apart
    · exact apart
  · split
    · exact productApart_of_layout (released _) apart
    · exact apart

theorem layout_enterDone : (s.enterDone k).layout = s.layout := layout_enter _ _

theorem productApart_finishRound (apart : s.productApart) : (s.finishRound k).productApart :=
  productApart_walk (productApart_of_layout layout_enterDone (productApart_giveUpClaim (.inl rfl) apart))

theorem productApart_releaseBreach (apart : s.productApart) : (s.releaseBreach k).productApart :=
  productApart_of_layout layout_enterDone (productApart_giveUpClaim (.inr ⟨_, rfl⟩) apart)

theorem productApart_abandonWait (apart : s.productApart) : (s.abandonWait k).productApart :=
  productApart_of_layout layout_enterDone
    (productApart_walk (s := { s with claimQueue := s.claimQueue.filter (· != k) }) apart)

end claims

/-! ### The proof scan -/

section scan

variable {s : State}

theorem productApart_arrive (x : Handover) (apart : s.productApart) : (s.arrive x).productApart := by
  have suspect : ∀ n, (s.setSegState n (.suspect .breach)).productApart := fun _ =>
    productApart_setSegState (.inr ⟨_, rfl⟩) apart
  cases x with
  | marking n =>
    unfold State.arrive State.markBreach
    dsimp only
    split
    · exact productApart_walk (suspect n)
    · exact suspect n
    · exact apart
  | breach k n => exact productApart_of_layout (layout_cascade _) apart
  | mismatch k n => exact productApart_of_layout (layout_cascade _) apart

theorem productApart_takeHanded (apart : s.productApart) : s.takeHanded.productApart :=
  productApart_foldl (fun _ => productApart_arrive) s.handed { s with handed := [] } apart

theorem productApart_handOver (waits : Bool) (l : List Handover) (apart : s.productApart) :
    (s.handOver waits l).productApart := by
  cases waits with
  | true => exact apart
  | false =>
    exact productApart_takeHanded (s := { s with handed := s.handed ++ l, freeCount := s.freeCount + 1 }) apart

theorem productApart_judgeValve (waits : Bool) (n : Nat) (v : ValveEntry) (want : Feedback) (apart : s.productApart) :
    (s.judgeValve waits n v want).productApart := by
  unfold State.judgeValve
  split
  · exact productApart_handOver _ _ (productApart_of_layout (layout_offer _) apart)
  · split
    · exact productApart_handOver _ _ apart
    · exact productApart_of_layout (layout_offer _) apart

@[simp] theorem layout_setMisses (n count : Nat) : (s.setMisses n count).layout = s.layout :=
  layout_updValve n fun _ => rfl

theorem productApart_visit (waits : Bool) (n : Nat) (v : ValveEntry) (apart : s.productApart) :
    (s.visit waits n v).productApart := by
  have missed : ∀ count, (s.setMisses n count).productApart := fun count =>
    productApart_of_layout (layout_setMisses n count) apart
  unfold State.visit
  split
  · exact missed 0
  · split
    · exact missed 0
    · split
      · exact missed 1
      · exact productApart_judgeValve _ _ _ _ (missed 0)

theorem productApart_scan (apart : s.productApart) : s.scan.productApart := by
  have passed : ∀ u : State, u.clearPassed.layout = u.layout := fun u =>
    layout_foldl (fun _ n => layout_setMisses n 0) u.passedOver u
  have cleared := productApart_of_layout
    (passed { s with visitTimer := Timer.start s.config.visitPeriod.toNat }) apart
  unfold State.scan State.scanWith
  dsimp only
  split
  next x _ => exact productApart_visit _ _ _ (productApart_of_layout rfl cleared)
  next => exact cleared

end scan

/-! ### Taken table writes -/

section writes

variable {s : State} {n : Nat}

/-- A side as written that a taken valve write leaves beside a segment is FREE (R16). -/
theorem free_of_written {o : Octet} (idle : s.writtenSideBusy o = false) (side : indexOf o = some n) :
    s.segState n = .free := by
  rw [State.writtenSideBusy, side, Bool.eq_false_iff, ne_eq, sideBusy_some, not_not] at idle
  exact idle

/-- R16: a valve is written between segments that are FREE. -/
theorem productApart_putValve {f : ValveFields} (idle : s.valveInUse n (some f) = false) (apart : s.productApart) :
    (s.putContent n (.valve f)).productApart := by
  simp only [State.valveInUse, Option.any_some, Bool.or_eq_false_iff] at idle
  obtain ⟨-, idleA, idleB⟩ := idle
  refine productApart_iff.2 fun x mem m p k joins claimed product => ?_
  obtain rfl | old := Table.mem_put mem
  · obtain ⟨-, sideA, sideB, -⟩ := valveEntryOf_loaded f (Table.entry s.valves n)
    have free : s.segState m = .free := joins.elim
      (fun sides => free_of_written idleA (sideA.symm.trans sides.1))
      (fun sides => free_of_written idleB (sideB.symm.trans sides.1))
    exact absurd (free.symm.trans claimed) SegmentState.noConfusion
  · exact productApart_iff.1 apart x old m p k joins claimed product

/-- R13: a segment is FREE after a taken write. -/
theorem productApart_putSegment (f : SegmentFields) (apart : s.productApart) :
    (s.putContent n (.segment f)).productApart := by
  refine productApart_of_calmed apart rfl fun m => ?_
  unfold State.segState State.putContent
  by_cases named : m = n
  · exact .inr (.inl (by simp [named, Table.entry_put_self, segmentEntryOf]))
  · exact .inl (by simp [Table.entry_put_ne _ _ named])

theorem productApart_putContent {content : Content} (idle : s.inUse (Content.table content) n (some content) = none)
    (apart : s.productApart) : (s.putContent n content).productApart := by
  cases content with
  | segment f => exact productApart_putSegment f apart
  | valve f =>
    refine productApart_putValve (Bool.eq_false_iff.2 fun busy => ?_) apart
    cases (inUseWhen_true busy).symm.trans idle
  | station f | header f =>
    unfold State.putContent
    dsimp only
    split
    · exact productApart_of_layout rfl apart
    · exact apart
  | nodeMap f | drive f | point f | route f | recipe l => exact productApart_of_layout rfl apart

theorem productApart_removeEntry (table : TableId) (apart : s.productApart) :
    (s.removeEntry table n).productApart := by
  cases table with
  | segment =>
    refine productApart_of_calmed apart rfl fun m => ?_
    unfold State.segState State.removeEntry
    by_cases named : m = n
    · exact .inr (.inl (by simp [named, Table.entry_remove_self]))
    · exact .inl (by simp [Table.entry_remove_ne _ named])
  | valve => exact fun x mem => apart x (List.mem_of_mem_filter mem)
  | station | header =>
    unfold State.removeEntry
    dsimp only
    split
    · exact productApart_of_layout rfl apart
    · exact apart
  | nodeMap | drive | point | route | recipe => exact productApart_of_layout rfl apart

theorem productApart_takeWrite {w : TableWrite} (taken : s.refuseWrite w = none) (apart : s.productApart) :
    (s.takeWrite w).productApart := by
  have applied : (s.applyWrite w).productApart := by
    cases w with
    | unknown code => exact apart
    | empty table index => exact productApart_removeEntry table apart
    | full index content =>
      obtain ⟨-, idle, -⟩ := refuseWrite_full.1 taken
      exact productApart_putContent idle apart
  unfold State.takeWrite
  dsimp only
  split
  · exact productApart_walk applied
  · exact applied

end writes

/-! ### Requests -/

section requests

variable {s : State} {k : Slot}

/-- An action after which PRODUCT and CLAIMED are still apart. -/
def Action.keepsApart (act : Action) : Prop := ∀ s : State, s.productApart → (act s).1.productApart

theorem Action.keepsApart_of_layout {act : Action} (h : ∀ s, (act s).1.layout = s.layout) : act.keepsApart :=
  fun s => productApart_of_layout (h s)

theorem productApart_requestArrives {act : Action} (keeps : act.keepsApart) (a : Ask) (apart : s.productApart) :
    (s.requestArrives a act).productApart := by
  refine productApart_of_layout layout_linkHeard ?_
  unfold State.takeRequest
  split
  · exact productApart_of_layout (layout_sendU _) apart
  · split
    · exact productApart_of_layout (layout_sendU _) apart
    · exact productApart_of_layout (layout_sendU _) (keeps _ apart)

theorem badRequest_keepsApart : badRequest.keepsApart := fun _ => id

theorem writeConfig_keepsApart (r : ConfigRecord) : (writeConfig r).keepsApart := by
  refine Action.keepsApart_of_layout fun s => ?_
  unfold writeConfig
  split <;> rfl

theorem writeTable1_keepsApart (w : TableWrite) : (writeTable1 w).keepsApart := by
  intro s apart
  unfold writeTable1
  split
  next => exact apart
  next taken =>
    rw [dropStaging_eq]
    refine productApart_takeWrite (s := { s with staging := stagingAfter w s.staging }) (Eq.trans ?_ taken) apart
    cases w <;> rfl

theorem stageFirst_keepsApart (index : Word16) (count : Octet) (steps : List StepFields) :
    (stageFirst index count steps).keepsApart := by
  refine Action.keepsApart_of_layout fun s => ?_
  unfold stageFirst
  split <;> rfl

theorem completeRecipe_keepsApart (index : Word16) (steps : List StepFields) :
    (completeRecipe index steps).keepsApart := by
  intro s apart
  unfold completeRecipe
  split
  · exact apart
  · split
    · exact apart
    · dsimp only
      split
      next => exact apart
      next taken => exact productApart_takeWrite taken apart

theorem readTable_keepsApart (code : Octet) (index : Word16) (part : Option Octet) :
    (readTable code index part).keepsApart := by
  refine Action.keepsApart_of_layout fun s => ?_
  unfold readTable
  repeat' split
  all_goals rfl

theorem startAction_keepsApart (slot recipe route cls : Octet) : (startAction slot recipe route cls).keepsApart := by
  intro s apart
  unfold startAction
  split
  · exact apart
  · split
    · exact apart
    · split
      · exact apart
      · split
        · exact apart
        · split
          · exact apart
          · exact productApart_startRound _ _ _ apart

/-- A round control action keeps the law where every outcome it gives does. -/
theorem control_keepsApart {act : Slot → State → Option State}
    (h : ∀ {k s t}, act k s = some t → s.productApart → t.productApart) (slot : Octet) :
    (control act slot).keepsApart := by
  intro s apart
  unfold control
  split
  · exact apart
  · split
    next e => exact h e apart
    next => exact apart

theorem layout_pauseRound {t : State} (h : pauseRound k s = some t) : t.layout = s.layout := by
  have suspended : (s.suspend k).layout = s.layout :=
    layout_of_work (suspend_work (P := fun _ => True) (Q := True) trivial)
  unfold pauseRound at h
  split at h
  · exact Option.some.inj h ▸ suspended
  · exact Option.some.inj h ▸ suspended
  · cases h

theorem layout_resumeRound {t : State} (h : resumeRound k s = some t) : t.layout = s.layout := by
  unfold resumeRound at h
  split at h
  · exact Option.some.inj h ▸ layout_cascade _
  · cases h

theorem productApart_abortRound {t : State} (h : abortRound k s = some t) (apart : s.productApart) :
    t.productApart := by
  have ending : (s.cascade [.ending k .aborted]).productApart := productApart_of_layout (layout_cascade _) apart
  have waiting : ((s.leaveQueues k).cascade [.ending k .aborted]).productApart :=
    productApart_of_layout (layout_of_work (Work.anyCascade (Work.leaveQueues .rfl' trivial) _)) apart
  unfold abortRound at h
  cases state : (s.round k).state <;> rw [state] at h <;> dsimp only at h
  case idle | done | faulted => cases h
  case waitRoute => exact Option.some.inj h ▸ productApart_abandonWait apart
  case waitStation => exact Option.some.inj h ▸ waiting
  case setting | stepFill | stepTiming | paused => exact Option.some.inj h ▸ ending
  case ending => exact Option.some.inj h ▸ apart
  case holding =>
    split at h
    · exact Option.some.inj h ▸ apart
    · exact Option.some.inj h ▸ ending

theorem productApart_releaseRound {t : State} (h : releaseRound k s = some t) (apart : s.productApart) :
    t.productApart := by
  unfold releaseRound at h
  split at h
  · split at h
    · exact Option.some.inj h ▸ productApart_releaseBreach apart
    · exact Option.some.inj h ▸ productApart_of_layout (layout_cascade _) apart
  · cases h

theorem layout_clearRound {t : State} (h : clearRound k s = some t) : t.layout = s.layout := by
  unfold clearRound at h
  split at h
  · exact Option.some.inj h ▸ layout_enter _ _
  · cases h

theorem pause_keepsApart (slot : Octet) : (control pauseRound slot).keepsApart :=
  control_keepsApart (fun h => productApart_of_layout (layout_pauseRound h)) slot

theorem resume_keepsApart (slot : Octet) : (control resumeRound slot).keepsApart :=
  control_keepsApart (fun h => productApart_of_layout (layout_resumeRound h)) slot

theorem abort_keepsApart (slot : Octet) : (control abortRound slot).keepsApart :=
  control_keepsApart productApart_abortRound slot

theorem release_keepsApart (slot : Octet) : (control releaseRound slot).keepsApart :=
  control_keepsApart productApart_releaseRound slot

theorem clear_keepsApart (slot : Octet) : (control clearRound slot).keepsApart :=
  control_keepsApart (fun h => productApart_of_layout (layout_clearRound h)) slot

theorem controlAction_keepsApart (slot action : Octet) : (controlAction slot action).keepsApart := by
  unfold controlAction
  split
  · exact pause_keepsApart slot
  · exact resume_keepsApart slot
  · exact abort_keepsApart slot
  · exact release_keepsApart slot
  · exact clear_keepsApart slot
  · refine Action.keepsApart_of_layout fun s => ?_
    split <;> rfl

theorem readRound_keepsApart (slot : Octet) : (readRound slot).keepsApart := by
  refine Action.keepsApart_of_layout fun s => ?_
  unfold readRound
  split <;> rfl

theorem onSegment_keepsApart {act : Nat → SegmentState → Action} (h : ∀ n st, (act n st).keepsApart)
    (segment : Octet) : (onSegment segment act).keepsApart := by
  intro s apart
  unfold onSegment
  split
  · split
    · exact h _ _ s apart
    · exact apart
  · exact apart

/-- R58 at a mark: a valve between the marked segment and a CLAIMED one bars the mark unless it is MIXPROOF. -/
theorem productApart_setProduct {n : Nat} (clear : ∀ x ∈ s.valves, s.barsMark n x.2 = false) (apart : s.productApart) :
    (s.setSegState n .product).productApart := by
  refine productApart_iff.2 fun x mem m p k joins claimed product => ?_
  have before : s.segState m = .claimed k := by
    rw [segState_setSegState] at claimed
    split at claimed
    · cases claimed
    · exact claimed
  by_cases marked : p = n
  · by_contra seat
    have single : x.2.kind = .singleSeat := by
      cases kind : x.2.kind with
      | singleSeat => rfl
      | mixproof => exact absurd kind seat
    have toward : x.2.sideA = some n ∧ (∃ m k, x.2.sideB = some m ∧ s.segState m = .claimed k)
        ∨ x.2.sideB = some n ∧ ∃ m k, x.2.sideA = some m ∧ s.segState m = .claimed k := by
      subst marked
      exact joins.elim (fun ⟨a, b⟩ => .inr ⟨b, m, k, a, before⟩) (fun ⟨b, a⟩ => .inl ⟨a, m, k, b, before⟩)
    exact absurd (barsMark_eq_true.2 ⟨toward, .inl single⟩) (by simp [clear x mem])
  · rw [segState_setSegState, if_neg (fun h => marked h.1)] at product
    exact productApart_iff.1 apart x mem m p k joins before product

/-- A segment that becomes FREE, and the walk that follows (R60, R62). -/
theorem productApart_setFree (n : Nat) (apart : s.productApart) : (s.setSegState n .free).walk.productApart :=
  productApart_walk (productApart_setSegState (.inl rfl) apart)

theorem markProduct_keepsApart (n : Nat) (st : SegmentState) : (markProduct n st).keepsApart := by
  intro s apart
  unfold markProduct
  split
  · split
    next => exact apart
    next clear => exact productApart_setProduct (Table.first_eq_none.1 clear) apart
  · exact apart
  · exact apart

theorem markFree_keepsApart (n : Nat) (st : SegmentState) : (markFree n st).keepsApart := by
  intro s apart
  unfold markFree
  split
  · exact apart
  · exact productApart_setFree n apart
  · exact apart

theorem clearSuspect_keepsApart (n : Nat) (st : SegmentState) : (clearSuspect n st).keepsApart := by
  intro s apart
  unfold clearSuspect
  split
  · exact productApart_setFree n apart
  · exact apart

theorem markAction_keepsApart (segment mark : Octet) : (markAction segment mark).keepsApart := by
  unfold markAction
  split
  · exact onSegment_keepsApart markFree_keepsApart segment
  · exact onSegment_keepsApart markProduct_keepsApart segment
  · exact onSegment_keepsApart (fun _ _ => badRequest_keepsApart) segment

theorem fetchTake_keepsApart (count : Octet) : (fetchTake count).keepsApart := by
  refine Action.keepsApart_of_layout fun s => ?_
  unfold fetchTake
  split <;> rfl

theorem fetchRepeat_keepsApart (count : Octet) : (fetchRepeat count).keepsApart := by
  refine Action.keepsApart_of_layout fun s => ?_
  unfold fetchRepeat
  repeat' split
  all_goals rfl

theorem fetchAction_keepsApart (mode count : Octet) : (fetchAction mode count).keepsApart := by
  unfold fetchAction
  split
  · exact fetchTake_keepsApart count
  · exact fetchRepeat_keepsApart count
  · exact badRequest_keepsApart

/-! ### RESTART (R204) -/

/-- Part 1 of R204: the segments of a FAULTED round become SUSPECT. -/
theorem productApart_suspectRoute (apart : s.productApart) : (s.suspectRoute k).productApart := by
  unfold State.suspectRoute
  split
  · exact productApart_setSegStates (.inr ⟨_, rfl⟩) apart
  · exact apart

theorem layout_dropRound : (s.dropRound k).layout = s.layout := by
  unfold State.dropRound
  split <;> rfl

theorem layout_dropOwners : s.dropOwners.layout = s.layout :=
  layout_of_segments rfl (Table.keys_each (f := fun _ v => { v with owner := none }) (fun _ _ => rfl) s.valves)

theorem layout_freeAll : s.freeAll.layout = s.layout :=
  (layout_foldl (fun _ _ => layout_updHeader _ _) allHeaders _).trans
    (layout_foldl (fun _ _ => layout_updStation _ _) allStations s)

theorem layout_restarted : s.restarted.layout = s.layout := (layout_offer _).trans rfl

/-- Parts 2 to 5 of R204 write records, owners, grant states, diverter states and events. -/
theorem restartAction_keepsApart : restartAction.keepsApart := by
  intro s apart
  unfold restartAction
  split
  · exact apart
  · have dropped : ∀ u : State, (allSlots.foldl (fun s k => s.dropRound k) u).layout = u.layout :=
      layout_foldl (fun _ _ => layout_dropRound) allSlots
    refine productApart_of_layout ?_
      (productApart_foldl (fun _ k => productApart_suspectRoute (k := k)) allSlots s apart)
    exact layout_restarted.trans (layout_freeAll.trans (layout_dropOwners.trans (dropped _)))

/-- Every request of the table (R183). -/
theorem actionOf_keepsApart (r : Request) : (actionOf r).keepsApart := by
  cases r with
  | configWrite record => exact writeConfig_keepsApart record
  | configRead => exact fun _ => id
  | tableWrite w => exact writeTable1_keepsApart w
  | recipeFirstPart index count steps => exact stageFirst_keepsApart index count steps
  | recipeSecondPart index steps => exact completeRecipe_keepsApart index steps
  | tableRead table index part => exact readTable_keepsApart table index part
  | roundStart slot recipe route cls => exact startAction_keepsApart slot recipe route cls
  | roundControl slot action => exact controlAction_keepsApart slot action
  | roundRead slot => exact readRound_keepsApart slot
  | segmentMark segment mark => exact markAction_keepsApart segment mark
  | suspectClear segment => exact onSegment_keepsApart clearSuspect_keepsApart segment
  | eventFetch mode count => exact fetchAction_keepsApart mode count
  | restart => exact restartAction_keepsApart

theorem frameAction_keepsApart (f : Frame) : (frameAction f).keepsApart := by
  unfold frameAction
  split
  · split
    · exact actionOf_keepsApart _
    · exact badRequest_keepsApart
  · exact badRequest_keepsApart

theorem productApart_arriveU (octets : List Octet) (apart : s.productApart) : (s.arriveU octets).productApart := by
  unfold State.arriveU
  split
  · split
    · exact productApart_requestArrives (frameAction_keepsApart _) _ apart
    · exact productApart_of_layout (layout_linkHeard.trans (layout_relayGood _ _)) apart
  · exact productApart_of_layout (layout_relayBad _) apart

end requests

/-! ### The image -/

section image

variable {s : State}

theorem layout_imageBad (cause : ImageCause) (record : Option Nat) : (s.imageBad cause record).layout = s.layout :=
  layout_offer _

theorem layout_imageLoaded (applied : Nat) : (s.imageLoaded applied).layout = s.layout := layout_offer _

theorem layout_readHeader (octets : List Octet) : (s.readHeader octets).layout = s.layout := by
  unfold State.readHeader
  split
  · split
    · rfl
    · split
      · exact layout_offer _
      · exact layout_imageBad _ _
  · exact layout_imageBad _ _

theorem layout_endFirstPass (length : Nat) (check : Word16) (octets : List Octet) :
    (s.endFirstPass length check octets).layout = s.layout := by
  unfold State.endFirstPass
  split
  · exact layout_imageBad _ _
  · split
    · exact layout_imageBad _ _
    · split
      · exact layout_imageLoaded _
      · rfl

/-- A record that fails leaves no valve (R202). -/
theorem productApart_failRecord (cause : ImageCause) (record : Nat) : (s.failRecord cause record).productApart :=
  productApart_of_layout (layout_imageBad _ _) (productApart_of_nil rfl)

theorem productApart_applyRecord {r : ImageRecord} {t : State} (h : s.applyRecord r = some t) (apart : s.productApart) :
    t.productApart := by
  unfold State.applyRecord at h
  split at h
  · split at h
    · cases h
    · exact Option.some.inj h ▸ apart
  · split at h
    next => cases h
    next taken => exact Option.some.inj h ▸ productApart_takeWrite taken apart

theorem productApart_takeRecord (length position applied n : Nat) (octets : List Octet) (apart : s.productApart) :
    (s.takeRecord length position applied n octets).productApart := by
  unfold State.takeRecord
  split
  next => exact productApart_failRecord _ _
  next t taken =>
    obtain ⟨r, -, applied⟩ := Option.bind_eq_some_iff.1 taken
    have apart := productApart_applyRecord applied apart
    split
    · exact productApart_of_layout (layout_imageLoaded _) apart
    · exact apart

theorem productApart_readRecord (length position applied : Nat) (octets : List Octet) (apart : s.productApart) :
    (s.readRecord length position applied octets).productApart := by
  unfold State.readRecord
  dsimp only
  split
  · exact productApart_failRecord _ _
  · split <;> exact productApart_failRecord _ _
  · split
    · exact productApart_failRecord _ _
    · split
      · exact productApart_failRecord _ _
      · exact productApart_takeRecord _ _ _ _ _ apart

end image

/-! ### Timers -/

section timers

variable {s : State} {k : Slot}

theorem productApart_expire {effect : State → State} (h : ∀ u, u.productApart → (effect u).productApart) (x : Timer)
    (apart : s.productApart) : (s.expire x effect).productApart := by
  unfold State.expire
  split
  · exact h _ (productApart_of_layout (layout_pass _) apart)
  · exact apart

/-- An expiry whose effect writes no segment and no joint. -/
theorem productApart_expire_of_layout {effect : State → State} (h : ∀ u, (effect u).layout = u.layout) (x : Timer)
    (apart : s.productApart) : (s.expire x effect).productApart :=
  productApart_expire (fun u => productApart_of_layout (h u)) x apart

theorem layout_age : (s.age k).layout = s.layout := by
  unfold State.age
  split
  · exact layout_offer _
  · exact layout_offer _
  · rfl

theorem layout_liftElapses : (s.liftElapses k).layout = s.layout := by
  have lifted : ∀ n p, (s.startLifted k n p).layout = s.layout := fun n p =>
    layout_of_work (Work.startLifted (P := fun _ => True) (Q := True) .rfl' trivial n p)
  unfold State.liftElapses State.nextPulse
  split
  · exact layout_of_work (Work.startClosed (P := fun _ => True) (Q := True) .rfl' trivial _ _)
  · split
    · exact lifted _ _
    · split
      · exact lifted _ _
      · exact layout_cascade _
  · rfl

theorem layout_takePending (h : HeaderId) : (s.takePending h).layout = s.layout :=
  layout_of_work (Work.takePending (P := fun _ => True) (Q := True) .rfl' h)

theorem layout_finishIn (h : HeaderId) : (s.finishIn h).layout = s.layout :=
  layout_of_work (Work.finishIn (P := fun _ => True) (Q := True) .rfl' h)

theorem layout_interfaceLong (h : HeaderId) : (s.interfaceLong h).layout = s.layout :=
  layout_of_work (Work.interfaceLong (P := fun _ => True) (Q := True) .rfl' h)

theorem productApart_drainElapses (apart : s.productApart) :
    (if (s.round k).state = .ending then s.finishRound k else s).productApart := by
  split
  · exact productApart_finishRound apart
  · exact apart

theorem productApart_tick (apart : s.productApart) : s.tick.productApart := by
  unfold State.tick
  split
  · exact productApart_takeHanded apart
  · exact productApart_of_layout (layout_pass 1) apart
  · exact apart

end timers

/-! ### The step -/

/-- A command that ends in a state where the law holds. -/
theorem productApart_of_next {t u : State} (e : Host.Outcome.next (φ := Fault) (ρ := Refusal) u = .next t)
    (apart : u.productApart) : t.productApart := by
  cases e
  exact apart

theorem productApart_exec {i : Instr} {s t : State} (apart : s.productApart) (e : exec i s = .next t) :
    t.productApart := by
  have request : ∀ {act : Action} (_ : act.keepsApart) (a : Ask),
      .next (s.requestArrives a act) = Host.Outcome.next (φ := Fault) (ρ := Refusal) t → t.productApart :=
    fun keeps a e => productApart_of_next e (productApart_requestArrives keeps a apart)
  have quiet : ∀ {u : State}, u.layout = s.layout → .next u = Host.Outcome.next (φ := Fault) (ρ := Refusal) t →
      t.productApart := fun same e => productApart_of_next e (productApart_of_layout same apart)
  have timer : ∀ {effect : State → State} {x : Timer}, (∀ u, (effect u).layout = u.layout) →
      .next (s.expire x effect) = Host.Outcome.next (φ := Fault) (ρ := Refusal) t → t.productApart :=
    fun same e => productApart_of_next e (productApart_expire_of_layout same _ apart)
  cases i with
  | powerOn => exact productApart_of_next e (productApart_of_nil rfl)
  | imageHeaderRead octets =>
    simp only [exec, execImageHeaderRead] at e
    split at e
    · exact quiet (layout_readHeader octets) e
    · exact quiet rfl e
  | imageFirstPassEnd octets =>
    simp only [exec, execImageFirstPassEnd] at e
    split at e
    · exact quiet (layout_endFirstPass _ _ octets) e
    · exact quiet rfl e
  | imageRecordApply octets =>
    simp only [exec, execImageRecordApply] at e
    split at e
    · exact productApart_of_next e (productApart_readRecord _ _ _ octets apart)
    · exact quiet rfl e
  | frameArrivalU octets =>
    exact productApart_of_next e (productApart_arriveU (s := { s with rxU := [] }) (s.rxU ++ octets) apart)
  | frameArrivalF octets => exact quiet ((layout_arriveF (s := { s with rxF := [] }) (s.rxF ++ octets)).trans rfl) e
  | linkSilenceExpiry => exact timer (fun _ => layout_linkExpires) e
  | nodeSilenceExpiry node =>
    simp only [exec, execNodeSilenceExpiry] at e
    split at e
    · exact timer (fun _ => layout_nodeExpires _ _) e
    · exact quiet rfl e
  | answerSent => exact quiet (u := s.answerLeaves) rfl e
  | configWrite a record => exact request (writeConfig_keepsApart record) a e
  | configRead a => exact request (act := readConfig) (fun _ => id) a e
  | tableWrite a w => exact request (writeTable1_keepsApart w) a e
  | recipeFirstPart a index count steps =>
    refine request (act := if steps.length = 6 then stageFirst index count steps else badRequest) ?_ a e
    split
    · exact stageFirst_keepsApart index count steps
    · exact badRequest_keepsApart
  | recipeSecondPart a index steps => exact request (completeRecipe_keepsApart index steps) a e
  | tableRead a table index part =>
    refine request (act := if part.isSome = (table == tableCode .recipe) then readTable table index part
      else badRequest) ?_ a e
    split
    · exact readTable_keepsApart table index part
    · exact badRequest_keepsApart
  | roundStart a slot recipe route cls => exact request (startAction_keepsApart slot recipe route cls) a e
  | pause a slot => exact request (pause_keepsApart slot) a e
  | resume a slot => exact request (resume_keepsApart slot) a e
  | abort a slot => exact request (abort_keepsApart slot) a e
  | release a slot => exact request (release_keepsApart slot) a e
  | clear a slot => exact request (clear_keepsApart slot) a e
  | roundRead a slot => exact request (readRound_keepsApart slot) a e
  | segmentMarkProduct a n => exact request (onSegment_keepsApart markProduct_keepsApart n) a e
  | segmentMarkFree a n => exact request (onSegment_keepsApart markFree_keepsApart n) a e
  | suspectClear a n => exact request (onSegment_keepsApart clearSuspect_keepsApart n) a e
  | eventFetchTake a count => exact request (fetchTake_keepsApart count) a e
  | eventFetchRepeat a count => exact request (fetchRepeat_keepsApart count) a e
  | restart a => exact request restartAction_keepsApart a e
  | ageingTimerExpiry k => exact timer (fun _ => layout_age) e
  | liftTimerExpiry k => exact timer (fun _ => layout_liftElapses) e
  | travelTimerExpiry k | fillTimerExpiry k | wallTimerExpiry k | holdLimitExpiry k | drainMaximumExpiry k =>
    exact timer (fun _ => layout_cascade _) e
  | holdTimeReached k =>
    simp only [exec, execHoldTimeReached] at e
    split at e
    · exact quiet ((layout_cascade _).trans (layout_pass _)) e
    · exact quiet (layout_cascade _) e
  | drainHoldElapse k =>
    exact productApart_of_next e (productApart_expire (fun _ => productApart_drainElapses) _ apart)
  | interfaceOutHoldElapse h =>
    simp only [exec, execInterfaceOutHoldElapse] at e
    split at e
    · exact timer (fun _ => layout_takePending h) e
    · exact quiet rfl e
  | interfaceInHoldElapse h =>
    simp only [exec, execInterfaceInHoldElapse] at e
    split at e
    · exact timer (fun _ => layout_finishIn h) e
    · exact quiet rfl e
  | interfaceMaximumExpiry h => exact timer (fun _ => layout_interfaceLong h) e
  | visitTimerExpiry =>
    exact productApart_of_next e (productApart_expire (fun _ => productApart_scan) _ (productApart_takeHanded apart))

/-- Settles O53: a segment turns CLAIMED only through a claimable route (R46) and PRODUCT only through a mark that no
valve bars (R58), a valve is written only between FREE segments (R16), and everything else leaves joints alone and turns
segments FREE or SUSPECT at most. -/
theorem stepKeepsProductApart : Obligations.StepKeepsProductApart := by
  intro s t apart e
  unfold step at e
  split at e
  next i rest _ => exact productApart_exec (s := { s with pending := rest }) apart e
  next => exact productApart_of_next e (productApart_tick apart)

end Sys2Proof.Machine

/-! ## The choice of a FREE station, and the grant (R69, R70) -/

namespace Sys2Proof.Machine

open Sys2Proof

namespace RoundClass

variable {grade other : RoundClass}

theorem code_injective (same : grade.code = other.code) : grade = other := by
  revert same
  cases grade <;> cases other <;> decide

theorem one_le_code (notA : grade ≠ .a) : 1 ≤ grade.code := by
  cases grade with
  | a => exact absurd rfl notA
  | b | c => decide

theorem eq_c (notA : grade ≠ .a) (notB : grade ≠ .b) : grade = .c := by
  cases grade with
  | a => exact absurd rfl notA
  | b => exact absurd rfl notB
  | c => rfl

end RoundClass

section choice

variable {s : State} {st : StationId} {k : Slot} {q : List Slot} {grade : RoundClass}

/-- R69's order: a waiting round stands in a queue behind lower classes only, and before none of a higher class. A
lower code is a higher class. -/
def State.leads (s : State) (k : Slot) (q : List Slot) : Prop :=
  ∃ before after, q = before ++ k :: after
    ∧ (∀ j ∈ before, (s.round k).effective.code < (s.round j).effective.code)
    ∧ ∀ j ∈ after, (s.round k).effective.code ≤ (s.round j).effective.code

/-- The earliest round of a class leads a queue that holds no higher class. -/
theorem leads_of_earliest (found : q.find? (fun j => (s.round j).effective == grade) = some k)
    (highest : ∀ j ∈ q, grade.code ≤ (s.round j).effective.code) : s.leads k q := by
  obtain ⟨ofGrade, before, after, cut, passed⟩ := List.find?_eq_some_iff_append.1 found
  have atGrade : (s.round k).effective = grade := beq_iff_eq.1 ofGrade
  refine ⟨before, after, cut, fun j mem => ?_, fun j mem => ?_⟩
  · have le := highest j (by simp [cut, mem])
    have ne : (s.round j).effective ≠ grade := by simpa using passed j mem
    rw [atGrade]
    exact lt_of_le_of_ne le fun same => ne (RoundClass.code_injective same).symm
  · rw [atGrade]
    exact highest j (by simp [cut, mem])

theorem bestWaiting_eq_none : s.bestWaiting st = none ↔ (s.station st).queue = [] := by
  refine ⟨fun nobody => ?_, fun empty => by simp [State.bestWaiting, empty]⟩
  unfold State.bestWaiting at nobody
  dsimp only at nobody
  split at nobody
  next => cases nobody
  next =>
    split at nobody
    next => cases nobody
    next => exact List.head?_eq_none_iff.1 nobody

/-- The choice looks for class A, then for class B; with neither in the queue every round is of class C, and the
first in the queue is the earliest of them. -/
theorem leads_of_bestWaiting (best : s.bestWaiting st = some k) : s.leads k (s.station st).queue := by
  unfold State.bestWaiting at best
  dsimp only at best
  split at best
  next foundA =>
    cases best
    exact leads_of_earliest foundA fun j _ => Nat.zero_le _
  next noA =>
    have notA : ∀ j ∈ (s.station st).queue, (s.round j).effective ≠ .a := by simpa using noA
    split at best
    next foundB =>
      cases best
      exact leads_of_earliest foundB fun j mem => RoundClass.one_le_code (notA j mem)
    next noB =>
      have notB : ∀ j ∈ (s.station st).queue, (s.round j).effective ≠ .b := by simpa using noB
      have allC : ∀ j ∈ (s.station st).queue, (s.round j).effective = .c := fun j mem =>
        RoundClass.eq_c (notA j mem) (notB j mem)
      obtain ⟨after, cut⟩ := List.head?_eq_some_iff.1 best
      refine leads_of_earliest (grade := .c) ?_ fun j mem => (congrArg RoundClass.code (allC j mem)).ge
      rw [cut, List.find?_cons_of_pos]
      exact beq_iff_eq.2 (allC k (cut ▸ List.mem_cons_self))

end choice

section grant

variable (s : State) (k : Slot) (st : StationId)

/-! ### What the parts of a grant leave alone -/

/-- A grant takes valves and drives (R65). -/
theorem takeOwnership_eq : s.takeOwnership k st =
    { s with valves := (s.takeOwnership k st).valves, drives := (s.takeOwnership k st).drives } :=
  List.foldlRecOn (motive := fun t : State => t = { s with valves := t.valves, drives := t.drives }) _ _
    (List.foldlRecOn (motive := fun t : State => t = { s with valves := t.valves, drives := t.drives }) _ _ rfl
      fun t owned _ _ => by rw [owned]; rfl)
    fun t owned _ _ => by rw [owned]; rfl

@[simp] theorem round_takeOwnership (j : Slot) : (s.takeOwnership k st).round j = s.round j := by
  rw [takeOwnership_eq]
  rfl

@[simp] theorem station_takeOwnership (j : StationId) : (s.takeOwnership k st).station j = s.station j := by
  rw [takeOwnership_eq]
  rfl

/-- Leaving the queues ends the promotion of the round (R68). -/
theorem effective_leaveQueues : ((s.leaveQueues k).round k).effective = (s.round k).given := by
  simp [State.leaveQueues, allStations]

/-! ### Parts 1 and 2 of R70 -/

/-- The round has left the queues and holds the station: the first two parts of a grant (R70). -/
def State.seat (s : State) (k : Slot) (st : StationId) : State :=
  ((s.leaveQueues k).updStation st fun x => { x with granted := some k, linked := false }).updRound k fun r =>
    { r with held := some st, linked := false }

theorem seat_granted : ((s.seat k st).station st).granted = some k := by simp [State.seat]

theorem seat_queue : ((s.seat k st).station st).queue = (s.station st).queue.filter (· != k) := by
  simp [State.seat, Cascade.leaveQueues_queue]

theorem seat_held : ((s.seat k st).round k).held = some st := by simp [State.seat]

theorem seat_effective : ((s.seat k st).round k).effective = (s.round k).given := by
  simp [State.seat, effective_leaveQueues]

/-- Whatever the judgement of part 3, the parts that follow leave the stations as parts 1 and 2 made them, and of the
round the station it holds and its class. -/
theorem grant_keeps_seat : ((s.grant st k).1.station st) = (s.seat k st).station st
    ∧ ((s.grant st k).1.round k).held = ((s.seat k st).round k).held
    ∧ ((s.grant st k).1.round k).effective = ((s.seat k st).round k).effective := by
  unfold State.grant
  dsimp only
  rw [← State.seat]
  split
  next fit =>
    split
    next role unbound => simp
    next bound => simp [State.noteSilent, State.resolve]
  next unfit => exact ⟨rfl, rfl, rfl⟩

/-! ### The examination -/

variable {s k st}

theorem examine_of_granted (granted : (s.station st).granted ≠ none) : s.examine st = (s, []) := by
  unfold State.examine
  rw [if_pos (Option.isSome_iff_ne_none.2 granted)]

theorem examine_of_empty (empty : (s.station st).queue = []) : s.examine st = (s, []) := by
  unfold State.examine
  rw [bestWaiting_eq_none.2 empty, ite_self]

theorem examine_of_free (free : (s.station st).granted = none) (best : s.bestWaiting st = some k) :
    s.examine st = s.grant st k := by
  unfold State.examine
  rw [free, best]
  rfl

end grant

/-- Settles O60: the choice by the three searches of R69, the grant by its first two parts. -/
theorem grantOrder : Obligations.GrantOrder := by
  intro s st
  refine ⟨bestWaiting_eq_none, fun k => leads_of_bestWaiting,
    fun quiet => quiet.elim examine_of_granted examine_of_empty, fun k free best => ?_⟩
  obtain ⟨station, held, effective⟩ := grant_keeps_seat s k st
  rw [examine_of_free free best, station, held, effective]
  refine ⟨seat_granted s k st, ?_, seat_held s k st, seat_effective s k st⟩
  simp [seat_queue]

end Sys2Proof.Machine

/-! ## The ageing timer of a waiting round (R71) -/

namespace Sys2Proof.Machine

open Sys2Proof

theorem Timer.eq_off {t : Timer} (stopped : t.mode = .stopped) (zero : t.elapsed = 0) (unlimited : t.limit = 0) :
    t = Timer.off := by
  cases t
  exact (Timer.mk.injEq ..).mpr ⟨stopped, zero, unlimited⟩

section ageing

variable {s : State} {k : Slot} {st : StationId} (grade : RoundClass) (timer : Timer)

/-- A round that waits at one station waits there (R79). -/
theorem waitsAt_of_only (here : k ∈ (s.station st).queue) (only : ∀ j, j ≠ st → k ∉ (s.station j).queue) :
    s.waitsAt k = some st := by
  have found : (s.waitsAt k).isSome := List.find?_isSome.2 ⟨st, Cascade.mem_allStations st, by simpa using here⟩
  obtain ⟨j, e⟩ := Option.isSome_iff_exists.1 found
  have there : k ∈ (s.station j).queue := by simpa using List.find?_some e
  rw [e, not_imp_comm.1 (only j) (not_not.2 there)]

/-! ### A promotion -/

theorem events_offer_updRound (f : Round → Round) (e : Event) :
    ((s.updRound k f).offer e).events = (s.offer e).events :=
  (State.offer_congr (s := s) (t := s.updRound k f) e rfl rfl rfl).1

theorem promote_eq : s.promote k grade timer = { s with
    rounds := (s.promote k grade timer).rounds
    events := (s.promote k grade timer).events
    overflow := (s.promote k grade timer).overflow } := by
  unfold State.promote
  dsimp only
  rw [State.offer_eq]
  rfl

theorem round_promote :
    (s.promote k grade timer).round k = { s.round k with effective := grade, ageing := timer } := by
  simp [State.promote]

theorem round_promote_ne {j : Slot} (ne : j ≠ k) : (s.promote k grade timer).round j = s.round j := by
  simp [State.promote, State.round_updRound_ne _ _ ne]

/-- The PRIORITY_AGED of a promotion names the station the round waits for. -/
theorem promote_events (waits : s.waitsAt k = some st) : (s.promote k grade timer).events
    = (s.offer { bareEvent .priorityAged s.partTime with
        slot := some k, subject := some (.station st.val), value := some (.cls grade) }).events := by
  have waits' : (s.updRound k fun r => { r with effective := grade, ageing := timer }).waitsAt k = some st := waits
  unfold State.promote
  dsimp only
  rw [waits', events_offer_updRound]
  rfl

/-! ### The expiry -/

theorem age_of_c (class_c : (s.round k).effective = .c) :
    s.age k = s.promote k .b ⟨.running, 0, 1000 * s.config.ageB.toNat⟩ := by
  unfold State.age
  rw [class_c, Nat.mul_comm]
  rfl

theorem age_of_b (class_b : (s.round k).effective = .b) : s.age k = s.promote k .a Timer.off := by
  unfold State.age
  rw [class_b]

/-- A running ageing timer that expires lets the part time pass that it lacks (log 4). -/
theorem exec_ageingTimerExpiry_of_running (running : (s.round k).ageing.mode = .running) :
    exec (.ageingTimerExpiry k) s = .next ((s.pass (s.round k).ageing.lacks).age k) :=
  congrArg Host.Outcome.next (if_pos running)

end ageing

/-- Settles O44: the class after the expiry by the class before it, which no passing of time changes. -/
theorem ageingPromotes : Obligations.AgeingPromotes := by
  intro k s st running here only lacks p grade timer promotes
  have waits : p.waitsAt k = some st := waitsAt_of_only
    (by rw [State.station_pass]; exact here) fun j ne => by rw [State.station_pass]; exact only j ne
  have effective : (p.round k).effective = (s.round k).effective := by rw [State.round_pass]; rfl
  have aged : p.age k = p.promote k grade timer := by
    obtain ⟨class_c, rfl, rfl⟩ | ⟨class_b, rfl, stopped, zero, unlimited⟩ := promotes
    · rw [age_of_c (effective.trans class_c), State.pass_config]
    · rw [age_of_b (effective.trans class_b), Timer.eq_off stopped zero unlimited]
  refine ⟨p.promote k grade timer, ?_, promote_eq grade timer, fun j => round_promote_ne grade timer,
    round_promote grade timer, promote_events grade timer waits⟩
  rw [← aged]
  exact exec_ageingTimerExpiry_of_running running

end Sys2Proof.Machine

/-! ## The round controls: how a request reaches its action (R188) -/

namespace Sys2Proof.Machine

open Sys2Proof

/-! ### What an offered record meets -/

section eventQueue

variable {s t : State} (k : Slot)

/-- What the offer of a record depends on (R190, R192, R193): the part time, the mask, the queue and its overflow. -/
def State.eventQueue (s : State) : PartTime × ConfigRecord × List Event × Bool :=
  (s.partTime, s.config, s.events, s.overflow)

theorem eventQueue_congr (time : t.partTime = s.partTime) (config : t.config = s.config) (events : t.events = s.events)
    (overflow : t.overflow = s.overflow) : t.eventQueue = s.eventQueue := by
  rw [State.eventQueue, time, config, events, overflow, State.eventQueue]

theorem events_of_eventQueue (same : t.eventQueue = s.eventQueue) : t.events = s.events :=
  congrArg (·.2.2.1) same

theorem overflow_of_eventQueue (same : t.eventQueue = s.eventQueue) : t.overflow = s.overflow :=
  congrArg (·.2.2.2) same

theorem partTime_of_eventQueue (same : t.eventQueue = s.eventQueue) : t.partTime = s.partTime := congrArg (·.1) same

/-- Offers to like queues leave like queues. -/
theorem eventQueue_offer_congr (e : Event) (same : t.eventQueue = s.eventQueue) :
    (t.offer e).eventQueue = (s.offer e).eventQueue := by
  obtain ⟨time, config, events, overflow⟩ : t.partTime = s.partTime ∧ t.config = s.config ∧ t.events = s.events
      ∧ t.overflow = s.overflow := by simpa [State.eventQueue] using same
  obtain ⟨events', overflow'⟩ := State.offer_congr e config events overflow
  exact eventQueue_congr (by simp [time]) (by simp [config]) events' overflow'

@[simp] theorem eventQueue_updRound (f : Round → Round) : (s.updRound k f).eventQueue = s.eventQueue := rfl

/-- The record that an entry offers is the ROUND_STATE of R112. -/
theorem enter_eq (st : RoundState) : s.enter k st = (s.updRound k fun r => { r with state := st }).offer
    (roundStateEvent k st (if st = .done then (s.round k).result else none) s.partTime) := by
  unfold State.enter roundStateEvent
  dsimp only
  rw [State.round_updRound]
  split <;> rfl

theorem eventQueue_enter (st : RoundState) : (s.enter k st).eventQueue = (s.offer
    (roundStateEvent k st (if st = .done then (s.round k).result else none) s.partTime)).eventQueue := by
  rw [enter_eq]
  exact eventQueue_offer_congr _ rfl

/-- The queue after an entry of a state that meets the queue of another, for every state but DONE. -/
theorem eventQueue_enter_of {st : RoundState} (same : t.eventQueue = s.eventQueue) (notDone : st ≠ .done) :
    (t.enter k st).eventQueue = (s.offer (roundStateEvent k st none s.partTime)).eventQueue := by
  rw [eventQueue_enter, if_neg notDone, partTime_of_eventQueue same]
  exact eventQueue_offer_congr _ same

end eventQueue

/-! ### A round control -/

section control

variable {s t : State} {a : Ask} {slot : Octet} {k : Slot} {act : Slot → State → Option State}

/-- A round control that has an outcome in the round's state: the outcome, and OK. -/
theorem control_taken (named : slot.toNat = k.val) (outcome : act k s = some t) :
    control act slot s = (t, Reply.ok) := by
  unfold control
  rw [slotAt_eq_some.2 named]
  dsimp only
  rw [outcome]

theorem control_refused (named : slot.toNat = k.val) (inert : act k s = none) :
    control act slot s = (s, ⟨.wrongState, some (s.round k).state.code, none, []⟩) := by
  unfold control
  rw [slotAt_eq_some.2 named]
  dsimp only
  rw [inert]

theorem control_badIndex (out : 16 ≤ slot.toNat) : control act slot s = (s, Reply.refuse .badIndex) := by
  unfold control
  rw [slotAt_eq_none_of_le out]

/-- A round control that is taken while the engine listens (R182, R188). -/
theorem requestArrives_control (listens : s.listens) (named : slot.toNat = k.val)
    (outcome : act k s.opened = some t) (link : t.linkSilent = s.linkSilent) :
    s.requestArrives a (control act slot) = t.closing a ⟨.ok, none, none, []⟩ := by
  have taken := control_taken named outcome
  have arrives := requestArrives_taken listens a (control act slot) (by rw [taken]; exact link.trans listens.2.2)
  rwa [taken] at arrives

/-- A round control with no outcome in the round's state: WRONG_STATE, and the state's code (R188). -/
theorem requestArrives_control_refused (listens : s.listens) (named : slot.toNat = k.val)
    (inert : act k s.opened = none) : s.requestArrives a (control act slot)
      = s.opened.closing a ⟨.wrongState, some (s.round k).state.code, none, []⟩ :=
  requestArrives_refused listens (control_refused named inert)

/-! ### The states that take no action (the table after R111) -/

theorem pauseRound_eq_none (notFill : (s.round k).state ≠ .stepFill) (notTiming : (s.round k).state ≠ .stepTiming) :
    pauseRound k s = none := by
  unfold pauseRound
  split
  · exact absurd ‹_› notFill
  · exact absurd ‹_› notTiming
  · rfl

theorem resumeRound_eq_none (notPaused : (s.round k).state ≠ .paused) : resumeRound k s = none := by
  unfold resumeRound
  split
  · exact absurd ‹_› notPaused
  · rfl

theorem abortRound_eq_none (settled : (s.round k).state = .idle ∨ (s.round k).state = .done
    ∨ (s.round k).state = .faulted) : abortRound k s = none := by
  unfold abortRound
  obtain state | state | state := settled <;> rw [state]

theorem releaseRound_eq_none (notFaulted : (s.round k).state ≠ .faulted) : releaseRound k s = none := by
  unfold releaseRound
  split
  · exact absurd ‹_› notFaulted
  · rfl

theorem clearRound_eq_none (notDone : (s.round k).state ≠ .done) : clearRound k s = none := by
  unfold clearRound
  split
  · exact absurd ‹_› notDone
  · rfl

end control

/-- Settles O35: the slot first, then the states that take no action, control by control. -/
theorem roundControlRefused : Obligations.RoundControlRefused := by
  intro a slot s listens
  refine ⟨fun out i named => ?badIndex, fun k named => ?wrongState⟩
  case badIndex =>
    obtain rfl | rfl | rfl | rfl | rfl := named
    all_goals exact congrArg Host.Outcome.next (requestArrives_refused listens (control_badIndex out))
  case wrongState =>
    have refused := fun {act} => requestArrives_control_refused (a := a) (act := act) listens named
    exact ⟨fun notFill notTiming => congrArg Host.Outcome.next
        (refused (pauseRound_eq_none (s := s.opened) notFill notTiming)),
      fun notPaused => congrArg Host.Outcome.next (refused (resumeRound_eq_none (s := s.opened) notPaused)),
      fun settled => congrArg Host.Outcome.next (refused (abortRound_eq_none (s := s.opened) settled)),
      fun notFaulted => congrArg Host.Outcome.next (refused (releaseRound_eq_none (s := s.opened) notFaulted)),
      fun notDone => congrArg Host.Outcome.next (refused (clearRound_eq_none (s := s.opened) notDone))⟩

/-- Settles O34: DONE gives way to the power-on record and IDLE; every other state refuses. -/
theorem clearReturnsTheSlot : Obligations.ClearReturnsTheSlot := by
  intro a slot k s listens named
  refine ⟨fun done => ?taken, fun notDone => congrArg Host.Outcome.next
    (requestArrives_control_refused listens named (clearRound_eq_none (s := s.opened) notDone))⟩
  let cleared := s.opened.updRound k fun _ => Round.idle
  have outcome : clearRound k s.opened = some (cleared.enter k .idle) := by
    have state : (s.opened.round k).state = .done := done
    unfold clearRound
    rw [state]
  refine ⟨cleared.enter k .idle, congrArg Host.Outcome.next
    (requestArrives_control listens named outcome (by rw [State.enter_linkSilent]; rfl)), ?_, ?_, fun j ne => ?_, ?_⟩
  · rw [enter_eq, State.offer_eq]
    rfl
  · rw [State.round_enter, State.round_updRound]
    exact idle_asAtPowerOn
  · rw [State.round_enter_ne _ _ _ ne, State.round_updRound_ne _ _ ne]
    rfl
  · exact events_of_eventQueue (eventQueue_enter_of k (s := s) (t := cleared) rfl (by decide))

end Sys2Proof.Machine

/-! ## Commands to valves and drives, and the lift of a boundary valve (R85, R91, R97, R98) -/

namespace Sys2Proof.Machine

open Sys2Proof

section command

variable {s : State} {v : ValveEntry} {now : PartTime} {x : Position} {m n : Nat} {l : List (Nat × Position)}

/-! ### One valve -/

@[simp] theorem commanded_command : (v.command now x).commanded = some x := by
  unfold ValveEntry.command
  split
  next same => exact same
  next => rfl

@[simp] theorem owner_command : (v.command now x).owner = v.owner := by
  unfold ValveEntry.command
  split <;> rfl

theorem command_command : (v.command now x).command now x = v.command now x := if_pos commanded_command

theorem changed_command_of_ne (differs : v.commanded ≠ some x) : (v.command now x).changed = some now := by
  rw [ValveEntry.command, if_neg differs]

theorem command_of_eq (same : v.commanded = some x) : v.command now x = v := if_pos same

@[simp] theorem commandValve_partTime : (s.commandValve n x).partTime = s.partTime := rfl

theorem entry_commandValve : Table.entry (s.commandValve n x).valves m
    = (Table.entry s.valves m).map fun v => if m = n then v.command s.partTime x else v := by
  rw [State.commandValve, State.updValve_valves, Table.entry_adjust]
  split <;> simp

/-! ### Several valves -/

theorem commandValves_eq (l : List (Nat × Position)) (s : State) :
    s.commandValves l = { s with valves := (s.commandValves l).valves } := by
  induction l generalizing s with
  | nil => rfl
  | cons y l ih => exact ih (s.commandValve y.1 y.2)

theorem entry_commandValves_ne (other : ∀ y ∈ l, y.1 ≠ m) :
    Table.entry (s.commandValves l).valves m = Table.entry s.valves m := by
  induction l generalizing s with
  | nil => rfl
  | cons y l ih =>
    have ne : m ≠ y.1 := Ne.symm (other y List.mem_cons_self)
    have rest := ih (s := s.commandValve y.1 y.2) fun z mem => other z (List.mem_cons_of_mem _ mem)
    rw [entry_commandValve] at rest
    refine Eq.trans rest ?_
    simp [ne]

/-- A valve that a list commands to one position is commanded there. -/
theorem entry_commandValves (mem : (m, x) ∈ l) (agree : ∀ y ∈ l, y.1 = m → y.2 = x) :
    Table.entry (s.commandValves l).valves m = (Table.entry s.valves m).map (ValveEntry.command s.partTime x) := by
  induction l generalizing s with
  | nil => simp at mem
  | cons y l ih =>
    have agreeRest : ∀ z ∈ l, z.1 = m → z.2 = x := fun z mem => agree z (List.mem_cons_of_mem _ mem)
    change Table.entry ((s.commandValve y.1 y.2).commandValves l).valves m = _
    by_cases again : (m, x) ∈ l
    · rw [ih again agreeRest, entry_commandValve]
      by_cases named : m = y.1
      · have position := agree y List.mem_cons_self named.symm
        cases Table.entry s.valves m with
        | none => rfl
        | some v => simpa [named, position] using command_command
      · simp [named]
    · obtain rfl : y = (m, x) := ((List.mem_cons.1 mem).resolve_right again).symm
      rw [entry_commandValves_ne fun z mem same => again (by rwa [← same, ← agreeRest z mem same]), entry_commandValve]
      simp only [if_true]

/-! ### Drives -/

theorem entry_commandDrive {value : Nat} : Table.entry (s.commandDrive n value).drives m
    = (Table.entry s.drives m).map fun d => if m = n then { d with commanded := some value } else d := by
  rw [State.commandDrive, State.updDrive_drives, Table.entry_adjust]
  split <;> simp

variable {st : StationId} {load : StationLoad} {pump heater : Nat}

theorem commandDrives_eq (s : State) (st : StationId) (pump heater : Nat) :
    s.commandDrives st pump heater = { s with drives := (s.commandDrives st pump heater).drives } := by
  unfold State.commandDrives
  split
  · dsimp only
    split <;> rfl
  · rfl

/-- The heater's value is the one that stands where a station names one drive as pump and as heater. -/
theorem entry_commandDrives (loaded : (s.station st).load = some load) :
    Table.entry (s.commandDrives st pump heater).drives n = (Table.entry s.drives n).map fun d =>
      if load.heater = some n then { d with commanded := some heater }
      else if n = load.pump then { d with commanded := some pump } else d := by
  unfold State.commandDrives
  rw [loaded]
  dsimp only
  cases heated : load.heater with
  | none => simp [entry_commandDrive]
  | some h =>
    rw [entry_commandDrive, entry_commandDrive, Option.map_map]
    congr 1
    funext d
    by_cases isHeater : n = h
    · subst isHeater
      by_cases isPump : n = load.pump <;> simp [isPump]
    · simp [isHeater, Ne.symm isHeater]

end command

/-! ### Lift phases -/

section lift

variable {s : State} {k : Slot} {r : Route} {b : BoundaryItem} {m n pulse : Nat} {x : Position}

/-- The start of a phase (R97): a boundary valve is commanded, and the lift timer runs from 0.0. -/
def State.startPhase (k : Slot) (m : Nat) (x : Position) (lift : LiftProgress) (length : Nat) (s : State) : State :=
  (s.commandValve m x).updRound k fun r => { r with lift := lift, liftTimer := ⟨.running, 0, length⟩ }

theorem startLifted_eq_startPhase (route : s.routeOf k = some r) (item : r.boundary[n]? = some b) :
    s.startLifted k n pulse = s.startPhase k b.valve b.lift (.active n pulse .lifted) (s.liftLength k) := by
  have named : (s.routeOf k).bind (fun r => r.boundary[n]?) = some b := by rw [route]; exact item
  unfold State.startLifted
  rw [named]
  rfl

theorem startClosed_eq_startPhase (route : s.routeOf k = some r) (item : r.boundary[n]? = some b) :
    s.startClosed k n pulse = s.startPhase k b.valve .close (.active n pulse .closed) (s.liftLength k) := by
  have named : (s.routeOf k).bind (fun r => r.boundary[n]?) = some b := by rw [route]; exact item
  unfold State.startClosed
  rw [named]
  rfl

theorem liftLength_eq {step : RecipeStep} (current : s.stepOf k = some step) :
    s.liftLength k = 100 * step.liftLength := by
  rw [State.liftLength, current]
  exact Nat.mul_comm ..

/-- What the start of a phase changes: the valve's command, the lift progress and the lift timer. -/
theorem startPhase_effect (k : Slot) (m : Nat) (x : Position) (lift : LiftProgress) (length : Nat) (s : State) :
    let u := s.startPhase k m x lift length
    u = { s with valves := u.valves, rounds := u.rounds }
    ∧ (∀ j, j ≠ k → u.round j = s.round j)
    ∧ u.round k = { s.round k with lift := lift, liftTimer := ⟨.running, 0, length⟩ }
    ∧ (∀ y, Table.entry s.valves m = some y → (Table.entry u.valves m).map (·.commanded) = some (some x))
    ∧ ∀ i, i ≠ m → Table.entry u.valves i = Table.entry s.valves i := by
  refine ⟨rfl, fun j ne => State.round_updRound_ne _ _ ne, State.round_updRound _ _ _, fun y full => ?_,
    fun i ne => ?_⟩
  · rw [State.startPhase, State.updRound_valves, entry_commandValve, full]
    simp
  · rw [State.startPhase, State.updRound_valves, entry_commandValve]
    simp [ne]

/-! ### The next MIXPROOF valve -/

/-- A boundary list element names a full MIXPROOF valve. -/
def State.mixproofAt (s : State) (b : BoundaryItem) : Bool := (Table.entry s.valves b.valve).any (·.kind == .mixproof)

theorem nextMixproof_eq (l : List BoundaryItem) (n : Nat) :
    s.nextMixproof l n = (l.findIdx? s.mixproofAt).map (· + n) := by
  induction l generalizing n with
  | nil => rfl
  | cons b l ih =>
    unfold State.nextMixproof
    rw [List.findIdx?_cons, ← State.mixproofAt, ih]
    split
    · simp
    · rw [Option.map_map]
      congr 1
      funext i
      exact (Nat.succ_add_eq_add_succ i n).symm

theorem mixproofAt_eq_false (single : ∀ v, Table.entry s.valves b.valve = some v → v.kind = .singleSeat) :
    s.mixproofAt b = false := by
  unfold State.mixproofAt
  cases full : Table.entry s.valves b.valve with
  | none => rfl
  | some v => simp [single v full]

/-- The first MIXPROOF valve behind a place of the boundary list. -/
theorem nextMixproof_drop {l : List BoundaryItem} {c : BoundaryItem} {w : ValveEntry} (behind : n < m)
    (item : l[m]? = some c) (full : Table.entry s.valves c.valve = some w) (kind : w.kind = .mixproof)
    (between : ∀ i d x, n < i → i < m → l[i]? = some d → Table.entry s.valves d.valve = some x → x.kind = .singleSeat) :
    s.nextMixproof (l.drop (n + 1)) (n + 1) = some m := by
  have found : (l.drop (n + 1)).findIdx? s.mixproofAt = some (m - (n + 1)) := by
    rw [List.findIdx?_eq_some_iff_getElem]
    obtain ⟨inside, rfl⟩ := List.getElem?_eq_some_iff.1 item
    refine ⟨by rw [List.length_drop]; omega, ?_, fun i lt => ?_⟩
    · have place : n + 1 + (m - (n + 1)) = m := by omega
      simp [State.mixproofAt, place, full, kind]
    · rw [List.getElem_drop, Bool.not_eq_true]
      exact mixproofAt_eq_false fun v valve => between (n + 1 + i) _ v (by omega) (by omega)
        (List.getElem?_eq_getElem (by omega)) valve
  rw [nextMixproof_eq, found]
  exact congrArg some (show m - (n + 1) + (n + 1) = m by omega)

theorem nextMixproof_drop_none {l : List BoundaryItem}
    (rest : ∀ i d x, n < i → l[i]? = some d → Table.entry s.valves d.valve = some x → x.kind = .singleSeat) :
    s.nextMixproof (l.drop (n + 1)) (n + 1) = none := by
  have none : (l.drop (n + 1)).findIdx? s.mixproofAt = Option.none := by
    rw [List.findIdx?_eq_none_iff]
    intro b mem
    obtain ⟨i, item⟩ := List.mem_iff_getElem?.1 mem
    rw [List.getElem?_drop] at item
    exact mixproofAt_eq_false fun v valve => rest (n + 1 + i) b v (by omega) item valve
  rw [nextMixproof_eq, none]
  rfl

/-! ### The expiry of the lift timer -/

theorem liftElapses_lifted (timing : (s.round k).state = .stepTiming)
    (lifted : (s.round k).lift = .active n pulse .lifted) : s.liftElapses k = s.startClosed k n pulse := by
  unfold State.liftElapses
  rw [timing, lifted]

theorem liftElapses_closed (timing : (s.round k).state = .stepTiming)
    (closed : (s.round k).lift = .active n pulse .closed) : s.liftElapses k = s.nextPulse k n pulse := by
  unfold State.liftElapses
  rw [timing, closed]

theorem nextPulse_again {step : RecipeStep} (current : s.stepOf k = some step) (more : pulse < step.pulses) :
    s.nextPulse k n pulse = s.startLifted k n (pulse + 1) := by
  unfold State.nextPulse
  rw [current]
  exact if_pos more

theorem nextPulse_valve {step : RecipeStep} (current : s.stepOf k = some step) (last : step.pulses ≤ pulse)
    (route : s.routeOf k = some r) (next : s.nextMixproof (r.boundary.drop (n + 1)) (n + 1) = some m) :
    s.nextPulse k n pulse = s.startLifted k m 1 := by
  unfold State.nextPulse
  rw [current, route, Option.map_some, Option.getD_some, if_neg (Nat.not_lt.2 last), Option.bind_some, next]

/-- The lift sequence behind its last pulse (R97): DONE, and the lift timer stopped. -/
def State.endLifts (k : Slot) (s : State) : State :=
  s.updRound k fun r => { r with lift := .done, liftTimer := { r.liftTimer with mode := .stopped } }

theorem stepComplete_endLifts {step : RecipeStep} (current : s.stepOf k = some step)
    (early : (s.round k).holdAcc < 1000 * step.holdTime) : (s.endLifts k).stepComplete k = false := by
  have stepOf : (s.endLifts k).stepOf k = some step := by
    rw [← current]
    unfold State.stepOf State.recipeOf State.endLifts
    rw [State.round_updRound]
    rfl
  have late : ¬seconds step.holdTime ≤ (s.round k).holdAcc := by
    rw [seconds]
    omega
  have holdAcc : ((s.endLifts k).round k).holdAcc = (s.round k).holdAcc := by simp [State.endLifts]
  simp [State.stepComplete, State.holdTime, stepOf, holdAcc, late]

/-- Step completion judged in vain. -/
theorem cascade_judge_of_incomplete (incomplete : s.stepComplete k = false) : s.cascade [.judge k] = s := by
  have judged : s.judgeStep k = (s, []) := by
    unfold State.judgeStep
    rw [incomplete, if_neg Bool.false_ne_true]
  rw [Cascade.one, State.take, judged, Cascade.nil]

/-- The lifts of a step come to DONE before its hold time (R97). -/
theorem nextPulse_done {step : RecipeStep} (current : s.stepOf k = some step) (last : step.pulses ≤ pulse)
    (route : s.routeOf k = some r) (none : s.nextMixproof (r.boundary.drop (n + 1)) (n + 1) = none)
    (early : (s.round k).holdAcc < 1000 * step.holdTime) : s.nextPulse k n pulse = s.endLifts k := by
  unfold State.nextPulse
  rw [current, route, Option.map_some, Option.getD_some, if_neg (Nat.not_lt.2 last), Option.bind_some, none]
  exact cascade_judge_of_incomplete (stepComplete_endLifts current early)

end lift

section pass

variable {s : State} {k : Slot} (n : Nat)

/-! ### What the passing of part time keeps of a round (log 4) -/

@[simp] theorem state_pass : ((s.pass n).round k).state = (s.round k).state := by rw [State.round_pass]; rfl

@[simp] theorem lift_pass : ((s.pass n).round k).lift = (s.round k).lift := by rw [State.round_pass]; rfl

@[simp] theorem routeOf_pass : (s.pass n).routeOf k = s.routeOf k := by
  unfold State.routeOf
  rw [State.pass_routes, State.round_pass]
  rfl

@[simp] theorem stepOf_pass : (s.pass n).stepOf k = s.stepOf k := by
  unfold State.stepOf State.recipeOf
  rw [State.pass_recipes, State.round_pass]
  rfl

/-- A running timer that expires lets the part time pass that it lacks. -/
theorem expire_of_running {t : Timer} (effect : State → State) (running : t.mode = .running) :
    s.expire t effect = effect (s.pass (t.limit - t.elapsed)) := if_pos running

theorem expire_of_idle {t : Timer} (effect : State → State) (idle : t.mode ≠ .running) : s.expire t effect = s :=
  if_neg idle

end pass

/-- Settles O46: by the phase that ends, and behind a CLOSED phase by what pulse and boundary list leave to lift. -/
theorem liftPhases : Obligations.LiftPhases := by
  intro k s r b step n pulse v running timing current route item full p phase commands
  have timing' : (p.round k).state = .stepTiming := (state_pass _).trans timing
  have current' : p.stepOf k = some step := (stepOf_pass _).trans current
  have route' : p.routeOf k = some r := (routeOf_pass _).trans route
  have lift : (p.round k).lift = (s.round k).lift := lift_pass _
  have valves : p.valves = s.valves := State.pass_valves ..
  have starts : ∀ {c : BoundaryItem} {m : Nat} (i : Nat), r.boundary[m]? = some c →
      commands (p.startLifted k m i) c.valve c.lift (.active m i .lifted) := by
    intro c m i item
    rw [startLifted_eq_startPhase route' item, liftLength_eq current']
    have effect := startPhase_effect k c.valve c.lift (.active m i .lifted) phase.limit p
    rwa [valves] at effect
  refine ⟨p.liftElapses k, congrArg Host.Outcome.next (expire_of_running _ running), fun lifted => ?lifted,
    fun closed more => ?again, fun m c w closed last behind there valve kind between => ?valve,
    fun closed last rest early => ?done⟩
  case lifted =>
    rw [liftElapses_lifted timing' (lift.trans lifted), startClosed_eq_startPhase route' item, liftLength_eq current']
    have effect := startPhase_effect k b.valve .close (.active n pulse .closed) phase.limit p
    rwa [valves] at effect
  case again =>
    rw [liftElapses_closed timing' (lift.trans closed), nextPulse_again current' more]
    exact starts (pulse + 1) item
  case valve =>
    rw [liftElapses_closed timing' (lift.trans closed), nextPulse_valve current' last route'
      (nextMixproof_drop behind there (by rwa [valves]) kind (by rwa [valves]))]
    exact starts 1 there
  case done =>
    rw [liftElapses_closed timing' (lift.trans closed), nextPulse_done current' last route'
      (nextMixproof_drop_none (by rwa [valves])) early]
    exact ⟨rfl, fun j ne => State.round_updRound_ne _ _ ne, State.round_updRound _ _ _⟩

end Sys2Proof.Machine

/-! ## PAUSE (R98, R103) -/

namespace Sys2Proof.Machine

open Sys2Proof

section records

variable {s t : State} {k : Slot}

/-! ### What a slot's route and step depend on -/

theorem routeOf_congr (routes : t.routes = s.routes) (named : (t.round k).route = (s.round k).route) :
    t.routeOf k = s.routeOf k := by
  rw [State.routeOf, routes, named, State.routeOf]

theorem stepOf_congr (recipes : t.recipes = s.recipes) (named : (t.round k).recipe = (s.round k).recipe)
    (step : (t.round k).step = (s.round k).step) : t.stepOf k = s.stepOf k := by
  rw [State.stepOf, State.recipeOf, recipes, named, step, State.stepOf, State.recipeOf]

theorem holdLimitOf_eq {r : Route} (route : s.routeOf k = some r) : s.holdLimitOf k = 1000 * r.holdLimit := by
  rw [State.holdLimitOf, route]
  exact Nat.mul_comm ..

end records

/-! ### A lifted valve that is closed (R98) -/

section closeLift

variable {s : State} {k j : Slot} {r : Route} {b : BoundaryItem} {n pulse : Nat}

/-- The lift progress of a round that is suspended or ends: a LIFTED phase of STEP_TIMING is CLOSED (log 15). -/
def State.liftClosed (s : State) (k : Slot) : LiftProgress := ((s.closeLift k).round k).lift

theorem closeLift_eq (s : State) (k : Slot) : s.closeLift k
    = { s with valves := (s.closeLift k).valves, rounds := (s.closeLift k).rounds } := by
  unfold State.closeLift
  split <;> rfl

theorem closeLift_of_lifting (timing : (s.round k).state = .stepTiming)
    (lifted : (s.round k).lift = .active n pulse .lifted) (item : s.liftItem k = some b) :
    s.closeLift k = (s.commandValve b.valve .close).updRound k fun r => { r with lift := .active n pulse .closed } := by
  unfold State.closeLift
  rw [timing, lifted, item]

theorem closeLift_of_not_timing (other : (s.round k).state ≠ .stepTiming) : s.closeLift k = s := by
  unfold State.closeLift
  split
  · exact absurd ‹_› other
  · rfl

@[simp] theorem closeLift_partTime : (s.closeLift k).partTime = s.partTime := by rw [closeLift_eq]
@[simp] theorem closeLift_drives : (s.closeLift k).drives = s.drives := by rw [closeLift_eq]
@[simp] theorem closeLift_recipes : (s.closeLift k).recipes = s.recipes := by rw [closeLift_eq]
@[simp] theorem closeLift_eventQueue : (s.closeLift k).eventQueue = s.eventQueue := by rw [closeLift_eq]; rfl
@[simp] theorem station_closeLift (st : StationId) : (s.closeLift k).station st = s.station st := by
  rw [closeLift_eq]; rfl

@[simp] theorem round_closeLift : (s.closeLift k).round k = { s.round k with lift := s.liftClosed k } := by
  unfold State.liftClosed State.closeLift
  split
  · rw [State.round_updRound]
    rfl
  · rfl

theorem liftClosed_of_done (done : (s.round k).lift = .done) : s.liftClosed k = .done := by
  unfold State.liftClosed State.closeLift
  simp [done]

theorem liftItem_of_active {phase : LiftPhase} (active : (s.round k).lift = .active n pulse phase)
    (route : s.routeOf k = some r) : s.liftItem k = r.boundary[n]? := by
  unfold State.liftItem
  rw [active, route]

theorem liftClosed_of_lifted (timing : (s.round k).state = .stepTiming)
    (lifted : (s.round k).lift = .active n pulse .lifted) (item : s.liftItem k = some b) :
    s.liftClosed k = .active n pulse .closed := by
  rw [State.liftClosed, closeLift_of_lifting timing lifted item, State.round_updRound]

theorem lifting_of_item (timing : (s.round k).state = .stepTiming)
    (lifted : (s.round k).lift = .active n pulse .lifted) (item : s.liftItem k = some b) :
    s.lifting k b.valve = some b.lift := by
  unfold State.lifting
  rw [timing, lifted, item]
  exact if_pos rfl

theorem lifting_of_not_timing (other : (s.round k).state ≠ .stepTiming) : s.lifting k n = none := by
  unfold State.lifting
  split
  · exact absurd ‹_› other
  · rfl

/-- The valve a round lifts is commanded CLOSE, and no other. -/
theorem entry_closeLift : Table.entry (s.closeLift k).valves n = (Table.entry s.valves n).map fun v =>
    if (s.lifting k n).isSome then v.command s.partTime .close else v := by
  by_cases timing : (s.round k).state = .stepTiming
  · cases lift : (s.round k).lift with
    | done => simp [State.closeLift, State.lifting, timing, lift]
    | active p q phase => cases phase with
      | closed => simp [State.closeLift, State.lifting, timing, lift]
      | lifted => cases item : s.liftItem k with
        | none => simp [State.closeLift, State.lifting, timing, lift, item]
        | some b =>
          rw [closeLift_of_lifting timing lift item, State.updRound_valves, entry_commandValve, State.lifting, timing,
            lift, item]
          by_cases here : n = b.valve
          · simp [here]
          · simp [here, Ne.symm here]
  · simp [closeLift_of_not_timing timing, lifting_of_not_timing timing]

end closeLift

section suspend

variable {s : State} {k : Slot} {st : StationId} {l : StationLoad} {step : RecipeStep} {r : Route} {n : Nat}

/-- The step's medium valve, when the station has one, is commanded CLOSE (R103). -/
def State.shut (medium : Option Nat) (s : State) : State :=
  match medium with
  | some n => s.commandValve n .close
  | none => s

theorem shut_eq (medium : Option Nat) (s : State) :
    s.shut medium = { s with valves := (s.shut medium).valves } := by
  cases medium <;> rfl

theorem entry_shut {medium : Option Nat} : Table.entry (s.shut medium).valves n
    = (Table.entry s.valves n).map fun v => if medium = some n then v.command s.partTime .close else v := by
  cases medium with
  | none => simp [State.shut]
  | some m =>
    rw [State.shut, entry_commandValve]
    simp only [Option.some.injEq, eq_comm (a := n)]

/-- The actuators a suspended round stops (R98, R103): the lifted valve, the drives, the medium valve. -/
def State.stilled (s : State) (k : Slot) (st : StationId) (medium : Option Nat) : State :=
  ((s.closeLift k).commandDrives st 0 0).shut medium

theorem stilled_eq (s : State) (k : Slot) (st : StationId) (medium : Option Nat) : s.stilled k st medium
    = { s with
        valves := (s.stilled k st medium).valves
        drives := (s.stilled k st medium).drives
        rounds := (s.closeLift k).rounds } := by
  unfold State.stilled
  rw [shut_eq, commandDrives_eq, closeLift_eq]

theorem entry_valve_stilled {medium : Option Nat} : Table.entry (s.stilled k st medium).valves n
    = (Table.entry s.valves n).map fun v =>
      if (s.lifting k n).isSome ∨ medium = some n then v.command s.partTime .close else v := by
  unfold State.stilled
  rw [entry_shut, commandDrives_eq, entry_closeLift, Option.map_map]
  congr 1
  funext v
  by_cases lifted : (s.lifting k n).isSome <;> by_cases medium : medium = some n
  · simpa [lifted, medium] using command_command
  all_goals simp [lifted, medium]

theorem entry_drive_stilled {medium : Option Nat} (loaded : (s.station st).load = some l) :
    Table.entry (s.stilled k st medium).drives n = (Table.entry s.drives n).map fun d =>
      if n = l.pump ∨ l.heater = some n then { d with commanded := some 0 } else d := by
  have loaded' : ((s.closeLift k).station st).load = some l := by rwa [station_closeLift]
  unfold State.stilled
  rw [shut_eq, entry_commandDrives loaded', closeLift_drives]
  congr 1
  funext d
  by_cases heater : l.heater = some n <;> by_cases pump : n = l.pump <;> simp [heater, pump]

/-- PAUSE of a round that holds a station: the actuators, the record, and the entry into PAUSED (R103). -/
theorem suspend_eq (held : (s.round k).held = some st) (loaded : (s.station st).load = some l)
    (current : s.stepOf k = some step) : s.suspend k
      = ((s.stilled k st (l.valveFor step.medium)).updRound k fun r =>
        { r.pauseTimers with
          resume := some .stepFill
          holdLimit := ⟨.running, 0, s.holdLimitOf k⟩ }).enter k .paused := by
  have closed : (s.closeLift k).round k = { s.round k with lift := s.liftClosed k } := round_closeLift
  have held' : ((s.closeLift k).round k).held = some st := by rw [closed]; exact held
  have current' : (s.closeLift k).stepOf k = some step := by
    rw [← current]
    exact stepOf_congr closeLift_recipes (by rw [closed]) (by rw [closed])
  have loaded' : ((((s.closeLift k).commandDrives st 0 0).station st).load.bind fun l => l.valveFor step.medium)
      = l.valveFor step.medium := by
    rw [commandDrives_eq]
    show ((s.closeLift k).station st).load.bind _ = _
    rw [station_closeLift, loaded]
    rfl
  have limit : (s.stilled k st (l.valveFor step.medium)).holdLimitOf k = s.holdLimitOf k := by
    have route : (s.stilled k st (l.valveFor step.medium)).routeOf k = s.routeOf k := by
      rw [stilled_eq]
      exact routeOf_congr rfl (by show ((s.closeLift k).round k).route = _; rw [closed])
    rw [State.holdLimitOf, route, State.holdLimitOf]
  have stilled : ∀ u : State, u = s.stilled k st (l.valveFor step.medium) → (u.updRound k fun r =>
      { r.pauseTimers with resume := some .stepFill, holdLimit := Timer.start (u.holdLimitOf k) }).enter k .paused
      = ((s.stilled k st (l.valveFor step.medium)).updRound k fun r =>
        { r.pauseTimers with resume := some .stepFill, holdLimit := ⟨.running, 0, s.holdLimitOf k⟩ }).enter k .paused := by
    rintro _ rfl
    rw [limit]
    rfl
  unfold State.suspend
  dsimp only
  rw [held', current']
  dsimp only
  rw [loaded']
  refine stilled _ ?_
  unfold State.stilled State.shut
  cases l.valveFor step.medium <;> rfl

theorem pauseRound_eq_some (runs : (s.round k).state = .stepFill ∨ (s.round k).state = .stepTiming) :
    pauseRound k s = some (s.suspend k) := by
  unfold pauseRound
  obtain state | state := runs <;> rw [state]

end suspend

/-- Settles O30: the paused round keeps its station; the stilled actuators are its lifted valve, its drives and its
medium valve. -/
theorem pause : Obligations.Pause := by
  intro a slot k st l step r s listens named runs held loaded current route
  have work : Work (· = k) True s.opened (s.opened.suspend k) := suspend_work rfl
  have paused := suspend_eq (s := s.opened) held loaded current
  have stilled := stilled_eq s.opened k st (l.valveFor step.medium)
  rw [holdLimitOf_eq (s := s.opened) route] at paused
  have record : (s.opened.suspend k).round k = { (s.round k).pauseTimers with
      state := .paused
      resume := some .stepFill
      holdLimit := ⟨.running, 0, 1000 * r.holdLimit⟩
      lift := s.opened.liftClosed k } := by
    have closed : (s.opened.stilled k st (l.valveFor step.medium)).round k
        = { s.round k with lift := s.opened.liftClosed k } := by
      rw [stilled]
      exact round_closeLift
    rw [paused, State.round_enter, State.round_updRound, closed]
    rfl
  refine ⟨s.opened.suspend k, congrArg Host.Outcome.next (requestArrives_control listens named
    (pauseRound_eq_some (s := s.opened) runs) (by rw [work.frame.1]; rfl)), work.frame, ?stations, ?headers,
    fun j ne => (work.rounds j).1 ne, ?record, fun n p timing lifted inside => ?lifted, fun done => ?done,
    fun n d full => ?drives, fun n v full => ?valves, ?events⟩
  case stations =>
    rw [paused, State.enter_stations, State.updRound_stations, stilled]
    rfl
  case headers =>
    rw [paused, State.enter_headers, State.updRound_headers, stilled]
    rfl
  case record =>
    rw [record]
    rfl
  case lifted =>
    rw [record]
    exact liftClosed_of_lifted (s := s.opened) timing lifted
      ((liftItem_of_active (s := s.opened) lifted route).trans (List.getElem?_eq_getElem inside))
  case done =>
    rw [record]
    exact liftClosed_of_done (s := s.opened) done
  case drives =>
    rw [paused, State.enter_drives, State.updRound_drives, entry_drive_stilled (s := s.opened) loaded]
    exact congrArg (Option.map _) full
  case valves =>
    have entry : Table.entry (s.opened.suspend k).valves n = some (if (s.opened.lifting k n).isSome
        ∨ l.valveFor step.medium = some n then v.command s.partTime .close else v) := by
      rw [paused, State.enter_valves, State.updRound_valves, entry_valve_stilled]
      exact congrArg (Option.map _) full
    refine ⟨_, entry, ?_, fun medium => ?_, fun b p q timing lifted item there => ?_, fun other filling => ?_⟩
    · split
      · exact owner_command
      · rfl
    · rw [if_pos (.inr medium)]
      exact commanded_command
    · subst there
      have lifting := lifting_of_item (s := s.opened) timing lifted
        ((liftItem_of_active (s := s.opened) lifted route).trans item)
      rw [if_pos (.inl (by rw [lifting]; rfl))]
      exact commanded_command
    · rw [lifting_of_not_timing (s := s.opened) (by
        show (s.round k).state ≠ _
        rw [filling]
        decide), if_neg]
      simpa using other
  case events =>
    have same : ((s.opened.stilled k st (l.valveFor step.medium)).updRound k fun r' =>
        { r'.pauseTimers with resume := some .stepFill, holdLimit := ⟨.running, 0, 1000 * r.holdLimit⟩ }).eventQueue
        = s.eventQueue := by
      rw [eventQueue_updRound, stilled]
      rfl
    rw [paused]
    exact events_of_eventQueue (eventQueue_enter_of k same (by decide))

end Sys2Proof.Machine

/-! ## RESUME: the entry into STEP_FILL and STEP_TIMING (R91, R95, R104) -/

namespace Sys2Proof.Machine

open Sys2Proof

section causes

variable {s : State} {k : Slot} {c : HoldCauses}

theorem HoldCauses.isEmpty_iff : c.isEmpty = true ↔ c = ⟨false, []⟩ := by
  obtain ⟨link, nodes⟩ := c
  cases link <;> simp [HoldCauses.isEmpty]

theorem HoldCauses.isEmpty_eq_false (some : c ≠ ⟨false, []⟩) : c.isEmpty = false := by
  rw [← Bool.not_eq_true, HoldCauses.isEmpty_iff]
  exact some

/-- HOLDING entered (R100): the suspended record, and the ROUND_STATE. -/
theorem round_putOnHold (res : ResumeState) : (s.putOnHold k res).round k = { (s.round k).pauseTimers with
    state := .holding
    resume := some res
    holdLimit := if (s.round k).state = .paused ∨ (s.round k).state = .holding then (s.round k).holdLimit
      else ⟨.running, 0, s.holdLimitOf k⟩ } := by
  unfold State.putOnHold
  dsimp only
  rw [State.round_enter, State.round_updRound]
  rfl

theorem eventQueue_putOnHold (res : ResumeState) : (s.putOnHold k res).eventQueue
    = (s.offer (roundStateEvent k .holding none s.partTime)).eventQueue :=
  eventQueue_enter_of k rfl (by decide)

theorem putOnHold_eq (s : State) (k : Slot) (res : ResumeState) : s.putOnHold k res = { s with
    rounds := (s.putOnHold k res).rounds
    events := (s.putOnHold k res).events
    overflow := (s.putOnHold k res).overflow } := by
  unfold State.putOnHold
  dsimp only
  rw [enter_eq, State.offer_eq]
  rfl

theorem round_putOnHold_ne {j : Slot} (res : ResumeState) (ne : j ≠ k) :
    (s.putOnHold k res).round j = s.round j := by
  unfold State.putOnHold
  dsimp only
  rw [State.round_enter_ne _ _ _ ne, State.round_updRound_ne _ _ ne]

end causes

/-! ### The supply actions of a step whose supply has begun (R91) -/

section supply

variable {s t : State} {k : Slot} {st : StationId} {l : StationLoad} {step : RecipeStep} {n : Nat}
  {P : Slot → Prop}

/-- A quiet chain of work leaves a round at its step. -/
theorem stepOf_of_quiet (w : Work P True s t) : t.stepOf k = s.stepOf k :=
  stepOf_congr (by rw [w.frame.1]) (w.rounds k).2.2.1 (w.quiet.1 k)

theorem routeOf_of_work {Q : Prop} (w : Work P Q s t) : t.routeOf k = s.routeOf k :=
  routeOf_congr (by rw [w.frame.1]) (w.rounds k).2.2.2.1

theorem isSome_entry_commandValves {m : List (Nat × Position)} (full : (Table.entry s.valves n).isSome) :
    (Table.entry (s.commandValves m).valves n).isSome := by
  induction m generalizing s with
  | nil => exact full
  | cons y m ih => exact ih (by rw [entry_commandValve, Option.isSome_map]; exact full)

/-- Whatever was commanded before, a list that commands a valve to one position leaves it commanded there. -/
theorem commanded_commandValves {m : List (Nat × Position)} {x : Position} (full : (Table.entry s.valves n).isSome)
    (mem : (n, x) ∈ m) (agree : ∀ y ∈ m, y.1 = n → y.2 = x) :
    (Table.entry (s.commandValves m).valves n).map (·.commanded) = some (some x) := by
  obtain ⟨v, entry⟩ := Option.isSome_iff_exists.1 full
  rw [entry_commandValves mem agree, entry]
  exact congrArg some commanded_command

theorem mem_mediumValves {medium : Medium} (serves : l.valveFor medium = some n) : n ∈ l.mediumValves := by
  unfold StationLoad.mediumValves
  cases medium <;> simp_all [StationLoad.valveFor]

/-- The medium valves of a station as the supply actions command them: the step's OPEN, the others CLOSE. -/
def StationLoad.mediumPositions (l : StationLoad) (medium : Medium) : List (Nat × Position) :=
  l.mediumValves.map fun n => (n, if l.valveFor medium = some n then .open else .close)

theorem agree_mediumPositions {medium : Medium} {y : Nat × Position} (mem : y ∈ l.mediumPositions medium) :
    y.2 = if l.valveFor medium = some y.1 then .open else .close := by
  obtain ⟨m, -, rfl⟩ := List.mem_map.1 mem
  rfl

theorem supplyPositions_eq (loaded : (s.station st).load = some l) : s.supplyPositions k st step
    = ((s.entryValveOf k st).toList.map fun n => (n, .open)) ++ l.mediumPositions step.medium := by
  rw [State.supplyPositions, loaded]
  rfl

section valves

variable (loaded : (s.station st).load = some l) (full : (Table.entry s.valves n).isSome)

include loaded full

/-- The medium valves come behind the entry valve: their commands stand. -/
theorem supplied_medium (mem : n ∈ l.mediumValves) :
    (Table.entry (s.commandValves (s.supplyPositions k st step)).valves n).map (·.commanded)
      = some (some (if l.valveFor step.medium = some n then .open else .close)) := by
  rw [supplyPositions_eq loaded, State.commandValves, List.foldl_append]
  refine commanded_commandValves (isSome_entry_commandValves full) (List.mem_map_of_mem mem) fun y there same => ?_
  rw [agree_mediumPositions there, same]

theorem supplied_entry (named : s.entryValveOf k st = some n) (notMedium : n ∉ l.mediumValves) :
    (Table.entry (s.commandValves (s.supplyPositions k st step)).valves n).map (·.commanded) = some (some .open) := by
  rw [supplyPositions_eq loaded, named]
  refine commanded_commandValves full (by simp) fun y mem same => ?_
  obtain entry | medium := List.mem_append.1 mem
  · obtain rfl : y = (n, .open) := by simpa using entry
    rfl
  · obtain ⟨m, there, rfl⟩ := List.mem_map.1 medium
    exact absurd (same ▸ there) notMedium

end valves

/-- The actuators of a station as the supply actions command them (R91, parts 1 and 2). -/
def State.fed (s : State) (k : Slot) (st : StationId) (step : RecipeStep) : State :=
  (s.commandValves (s.supplyPositions k st step)).commandDrives st step.pump (step.heater.getD 0)

theorem fed_eq (s : State) (k : Slot) (st : StationId) (step : RecipeStep) : s.fed k st step = { s with
    valves := (s.commandValves (s.supplyPositions k st step)).valves, drives := (s.fed k st step).drives } := by
  unfold State.fed
  rw [commandDrives_eq, commandValves_eq]

theorem entry_drive_fed (loaded : (s.station st).load = some l) :
    Table.entry (s.fed k st step).drives n = (Table.entry s.drives n).map fun d =>
      if l.heater = some n then { d with commanded := some (step.heater.getD 0) }
      else if n = l.pump then { d with commanded := some step.pump } else d := by
  unfold State.fed
  rw [entry_commandDrives (load := l) (by rw [commandValves_eq]; exact loaded), commandValves_eq]

/-- Where the supply has begun, the supply actions command the actuators again and run the wall timer on. -/
theorem supply_of_begun (begun : (s.round k).supplyBegun = true) (onReturn : Bool) :
    s.supply k st step onReturn = ((s.fed k st step).updRound k fun r => { r with wall := r.wall.runOn }).updRound k
      fun r => { r with fill := ⟨.running, if onReturn then r.fill.elapsed else 0, 1000 * step.fillLimit⟩ } := by
  have begun' : ((s.fed k st step).round k).supplyBegun = true := by
    rw [fed_eq]
    exact begun
  unfold State.supply
  dsimp only
  rw [← State.fed, begun', if_pos rfl, seconds, Nat.mul_comm]

end supply

/-! ### The entries into STEP_FILL and STEP_TIMING -/

section fill

variable {s : State} {k j : Slot} {st : StationId} {step : RecipeStep}

/-- STEP_FILL entered, before the supply actions (R91). -/
def State.filling (k : Slot) (s : State) : State :=
  (s.updRound k fun r => { r with resume := none, holdLimit := { r.holdLimit with mode := .stopped } }).enter k .stepFill

theorem round_filling : (s.filling k).round k = { s.round k with
    state := .stepFill, resume := none, holdLimit := { (s.round k).holdLimit with mode := .stopped } } := by
  rw [State.filling, State.round_enter, State.round_updRound]

theorem filling_eq (s : State) (k : Slot) : s.filling k = { s with
    rounds := (s.filling k).rounds, events := (s.filling k).events, overflow := (s.filling k).overflow } := by
  unfold State.filling
  rw [enter_eq, State.offer_eq]
  rfl

theorem stepOf_filling : (s.filling k).stepOf k = s.stepOf k :=
  stepOf_congr (by rw [filling_eq]) (by rw [round_filling]) (by rw [round_filling])

theorem eventQueue_filling : (s.filling k).eventQueue
    = (s.offer (roundStateEvent k .stepFill none s.partTime)).eventQueue :=
  eventQueue_enter_of k rfl (by decide)

theorem enterFill_hold (onReturn : Bool) (some : (s.round k).causes ≠ ⟨false, []⟩) :
    s.enterFill k onReturn = (s.putOnHold k .stepFill, []) := by
  unfold State.enterFill
  rw [HoldCauses.isEmpty_eq_false some, if_neg Bool.false_ne_true]

theorem enterFill_supply (onReturn : Bool) (clear : (s.round k).causes = ⟨false, []⟩)
    (current : s.stepOf k = some step) (held : (s.round k).held = some st) : s.enterFill k onReturn
      = if step.medium = .air then
          (((s.filling k).supply k st step onReturn).updRound k fun r =>
            { r with fill := { r.fill with mode := .stopped, elapsed := 0 } }, [.timing k])
        else ((s.filling k).supply k st step onReturn, []) := by
  have current' : (s.filling k).stepOf k = some step := stepOf_filling.trans current
  have held' : ((s.filling k).round k).held = some st := by rw [round_filling]; exact held
  unfold State.enterFill
  rw [if_pos (HoldCauses.isEmpty_iff.2 clear)]
  dsimp only
  rw [show ((s.updRound k fun r => { r with resume := none, holdLimit := r.holdLimit.stop }).enter k .stepFill)
    = s.filling k from rfl, current', held']

theorem round_startLifted (n pulse : Nat) : (s.startLifted k n pulse).round k
    = { s.round k with lift := .active n pulse .lifted, liftTimer := ⟨.running, 0, s.liftLength k⟩ } := by
  unfold State.startLifted
  dsimp only
  split
  · rw [State.round_updRound]
    rfl
  · rw [State.round_updRound]
    rfl

/-- STEP_TIMING entered (R95, R98): what the record keeps and what it begins. -/
theorem enterTiming_record :
    let x := (s.enterTiming k).1.round k
    x.state = .stepTiming ∧ x.resume = none ∧ x.fill = { (s.round k).fill with mode := .stopped }
    ∧ x.holdAcc = (s.round k).holdAcc ∧ ((s.round k).lift = .done → x.lift = .done)
    ∧ ∀ n p ph, (s.round k).lift = .active n p ph → x.lift = .active n 1 .lifted := by
  unfold State.enterTiming
  dsimp only
  rw [State.round_enter, State.round_updRound]
  cases lift : (s.round k).lift with
  | done =>
    simp only [Round.clearWindows, lift]
    rw [State.round_enter, State.round_updRound]
    exact ⟨rfl, rfl, rfl, rfl, fun _ => lift, fun _ _ _ => nofun⟩
  | active n p ph =>
    simp only [Round.clearWindows, lift]
    rw [round_startLifted, State.round_enter, State.round_updRound]
    refine ⟨rfl, rfl, rfl, rfl, nofun, fun m q ph' same => ?_⟩
    rw [(LiftProgress.active.inj same).1]

/-- STEP_TIMING entered with the step still to complete: completion is judged in vain (R95). -/
theorem cascade_timing_of_incomplete (early : ¬(s.holdTime k ≤ (s.round k).holdAcc ∧ (s.round k).lift = .done)) :
    s.cascade [.timing k] = (s.enterTiming k).1 := by
  obtain ⟨-, -, -, holdAcc, done, active⟩ := enterTiming_record (s := s) (k := k)
  have holdTime : (s.enterTiming k).1.holdTime k = s.holdTime k := by
    rw [State.holdTime, stepOf_of_quiet (Work.enterTiming (P := fun _ => True) .rfl' trivial).1, State.holdTime]
  have incomplete : (s.enterTiming k).1.stepComplete k = false := by
    unfold State.stepComplete
    rw [holdTime, holdAcc]
    cases lift : (s.round k).lift with
    | done =>
      have late : ¬s.holdTime k ≤ (s.round k).holdAcc := fun le => early ⟨le, lift⟩
      simp [late]
    | active n p ph => simp [active n p ph lift]
  rw [Cascade.one]
  exact cascade_judge_of_incomplete incomplete

end fill

/-! ### RESUME -/

section resume

variable {s : State} {k : Slot} {st : StationId} {step : RecipeStep}

/-- The record that RESUME leaves before STEP_FILL or HOLDING is entered (R104): windows cleared, the fill timer
paused at 0.0. -/
def State.rewound (k : Slot) (s : State) : State :=
  s.updRound k fun r => { r with
    fill := ⟨.paused, 0, r.fill.limit⟩, criteria := r.criteria.map fun c => { c with window := [] } }

theorem round_rewound : (s.rewound k).round k = { s.round k with
    fill := ⟨.paused, 0, (s.round k).fill.limit⟩
    criteria := (s.round k).criteria.map fun c => { c with window := [] } } := State.round_updRound ..

theorem stepOf_rewound : (s.rewound k).stepOf k = s.stepOf k :=
  stepOf_congr rfl (by rw [round_rewound]) (by rw [round_rewound])

theorem resumeRound_eq_some (paused : (s.round k).state = .paused) :
    resumeRound k s = some ((s.rewound k).cascade [.fill k false]) := by
  unfold resumeRound
  rw [paused]
  rfl

theorem cascade_fill (onReturn : Bool) : s.cascade [.fill k onReturn]
    = (s.enterFill k onReturn).1.cascade (s.enterFill k onReturn).2 := Cascade.one ..

theorem resumed_with_causes (some : (s.round k).causes ≠ ⟨false, []⟩) :
    (s.rewound k).cascade [.fill k false] = (s.rewound k).putOnHold k .stepFill := by
  rw [cascade_fill, enterFill_hold (s := s.rewound k) false (by rw [round_rewound]; exact some), Cascade.nil]

/-- The state in which a resumed round is in STEP_FILL with its supply commanded again. -/
def State.refilled (k : Slot) (st : StationId) (step : RecipeStep) (s : State) : State :=
  (((((s.rewound k).filling k).fed k st step).updRound k fun r => { r with wall := r.wall.runOn }).updRound k
    fun r => { r with fill := ⟨.running, 0, 1000 * step.fillLimit⟩ })

theorem round_refilled : (s.refilled k st step).round k = { s.round k with
    state := .stepFill
    resume := none
    fill := ⟨.running, 0, 1000 * step.fillLimit⟩
    wall := (s.round k).wall.runOn
    holdLimit := { (s.round k).holdLimit with mode := .stopped }
    criteria := (s.round k).criteria.map fun c => { c with window := [] } } := by
  have fed : (((s.rewound k).filling k).fed k st step).round k = ((s.rewound k).filling k).round k := by
    rw [fed_eq]
    rfl
  rw [State.refilled, State.round_updRound, State.round_updRound, fed, round_filling, round_rewound]

theorem refilled_eq : s.refilled k st step = { s with
    valves := (s.refilled k st step).valves
    drives := (s.refilled k st step).drives
    rounds := (s.refilled k st step).rounds
    events := (s.refilled k st step).events
    overflow := (s.refilled k st step).overflow } := by
  unfold State.refilled
  rw [fed_eq, filling_eq]
  rfl

theorem refilled_valves : (s.refilled k st step).valves = (((s.rewound k).filling k).commandValves
    (((s.rewound k).filling k).supplyPositions k st step)).valves := by
  rw [State.refilled, State.updRound_valves, State.updRound_valves, fed_eq]

theorem refilled_drives : (s.refilled k st step).drives = (((s.rewound k).filling k).fed k st step).drives := by
  rw [State.refilled, State.updRound_drives, State.updRound_drives]

theorem rewound_work {P : Slot → Prop} {Q : Prop} (p : P k) : Work P Q s (s.rewound k) :=
  Work.upd .rfl' p fun _ => by exact ⟨rfl, rfl, rfl, rfl, rfl, fun _ => rfl⟩

theorem filling_work {P : Slot → Prop} {Q : Prop} {t : State} (w : Work P Q s t) (p : P k) :
    Work P Q s (t.filling k) := by
  unfold State.filling
  exact Work.enter (Work.upd w p fun _ => by exact ⟨rfl, rfl, rfl, rfl, rfl, fun _ => rfl⟩) p _

theorem refilled_work {P : Slot → Prop} {Q : Prop} (p : P k) : Work P Q s (s.refilled k st step) := by
  have fed : Work P Q s (((s.rewound k).filling k).fed k st step) :=
    Work.commandDrives (Work.commandValves (filling_work (rewound_work p) p) _) _ _ _
  unfold State.refilled
  exact Work.upd (Work.upd fed p fun _ => by exact ⟨rfl, rfl, rfl, rfl, rfl, fun _ => rfl⟩) p
    fun _ => by exact ⟨rfl, rfl, rfl, rfl, rfl, fun _ => rfl⟩

theorem eventQueue_refilled : (s.refilled k st step).eventQueue
    = (s.offer (roundStateEvent k .stepFill none s.partTime)).eventQueue := by
  have fed : (((s.rewound k).filling k).fed k st step).eventQueue = ((s.rewound k).filling k).eventQueue := by
    rw [fed_eq]
    rfl
  rw [State.refilled, eventQueue_updRound, eventQueue_updRound, fed, eventQueue_filling]
  exact eventQueue_offer_congr _ rfl

variable (clear : (s.round k).causes = ⟨false, []⟩) (current : s.stepOf k = some step)
  (held : (s.round k).held = some st) (begun : (s.round k).supplyBegun = true)

include clear current held begun

theorem enterFill_rewound : (s.rewound k).enterFill k false
    = if step.medium = .air then ((s.refilled k st step).updRound k fun r =>
        { r with fill := { r.fill with mode := .stopped, elapsed := 0 } }, [.timing k])
      else (s.refilled k st step, []) := by
  have supplied : ((s.rewound k).filling k).supply k st step false = s.refilled k st step := by
    rw [supply_of_begun (by rw [round_filling, round_rewound]; exact begun)]
    rfl
  rw [enterFill_supply (s := s.rewound k) false (by rw [round_rewound]; exact clear) (stepOf_rewound.trans current)
    (by rw [round_rewound]; exact held), supplied]

theorem resumed_liquid (liquid : step.medium ≠ .air) :
    (s.rewound k).cascade [.fill k false] = s.refilled k st step := by
  rw [cascade_fill, enterFill_rewound clear current held begun, if_neg liquid, Cascade.nil]

/-- An AIR step passes at once to STEP_TIMING (R92). -/
theorem resumed_air (air : step.medium = .air)
    (early : ¬(s.holdTime k ≤ (s.round k).holdAcc ∧ (s.round k).lift = .done)) :
    let x := ((s.rewound k).cascade [.fill k false]).round k
    x.state = .stepTiming ∧ x.fill.mode = .stopped ∧ x.fill.elapsed = 0 ∧ x.resume = none
    ∧ x.holdAcc = (s.round k).holdAcc
    ∧ ∀ n p ph, (s.round k).lift = .active n p ph → x.lift = .active n 1 .lifted := by
  let aired := (s.refilled k st step).updRound k fun r => { r with fill := { r.fill with mode := .stopped, elapsed := 0 } }
  have record : aired.round k = { (s.refilled k st step).round k with
      fill := ⟨.stopped, 0, ((s.refilled k st step).round k).fill.limit⟩ } := State.round_updRound ..
  rw [round_refilled] at record
  have stepOf : aired.stepOf k = s.stepOf k :=
    stepOf_congr (by rw [State.updRound_recipes, refilled_eq]) (by rw [record]) (by rw [record])
  have early' : ¬(aired.holdTime k ≤ (aired.round k).holdAcc ∧ (aired.round k).lift = .done) := by
    rw [State.holdTime, stepOf, record]
    exact early
  rw [cascade_fill, enterFill_rewound clear current held begun, if_pos air]
  dsimp only
  rw [cascade_timing_of_incomplete (s := aired) early']
  obtain ⟨state, resume, fill, holdAcc, -, active⟩ := enterTiming_record (s := aired) (k := k)
  rw [record] at fill holdAcc active
  exact ⟨state, by rw [fill], by rw [fill], resume, holdAcc, active⟩

end resume

/-- Settles O31: by the causes that stand, and then by the step's medium. -/
theorem resume : Obligations.Resume := by
  intro a slot k s listens named paused
  let u := (s.opened.rewound k).cascade [.fill k false]
  have work : Work (fun _ => True) False s.opened u :=
    Work.anyCascade (rewound_work trivial) _
  refine ⟨u, congrArg Host.Outcome.next (requestArrives_control listens named
    (resumeRound_eq_some (s := s.opened) paused) (by rw [work.frame.1]; rfl)), fun some => ?causes,
    fun st l step clear held loaded current begun => ⟨fun liquid => ?liquid,
      fun air early => resumed_air (s := s.opened) clear current held begun air early⟩⟩
  case causes =>
    have holds : u = (s.opened.rewound k).putOnHold k .stepFill := resumed_with_causes (s := s.opened) some
    have record : u.round k = { ((s.opened.rewound k).round k).pauseTimers with
        state := .holding, resume := Option.some .stepFill, holdLimit := (s.round k).holdLimit } := by
      have state : ((s.opened.rewound k).round k).state = .paused := by rw [round_rewound]; exact paused
      rw [holds, round_putOnHold, if_pos (.inl state), round_rewound]
      rfl
    rw [round_rewound] at record
    refine ⟨?_, fun j ne => ?_, by rw [record], by rw [record], by rw [record]; rfl, by rw [record], by rw [record]; rfl,
      by rw [record]; rfl, by rw [record]; rfl, by rw [record]; rfl, ?_⟩
    · rw [holds, putOnHold_eq]
      rfl
    · rw [holds, round_putOnHold_ne _ ne]
      exact State.round_updRound_ne _ _ ne
    · rw [holds]
      exact events_of_eventQueue ((eventQueue_putOnHold .stepFill).trans (eventQueue_offer_congr _ rfl))
  case liquid =>
    have fills : u = s.opened.refilled k st step := resumed_liquid (s := s.opened) clear current held begun liquid
    have valves : u.valves = (((s.opened.rewound k).filling k).commandValves
        (((s.opened.rewound k).filling k).supplyPositions k st step)).valves := by
      rw [fills, refilled_valves]
    have loaded' : (((s.opened.rewound k).filling k).station st).load = some l := by
      rw [filling_eq]
      exact loaded
    have entryValve : ((s.opened.rewound k).filling k).entryValveOf k st = s.entryValveOf k st := by
      have route : ((s.opened.rewound k).filling k).routeOf k = s.routeOf k :=
        routeOf_congr (by rw [filling_eq]; rfl) (by rw [round_filling, round_rewound]; rfl)
      rw [State.entryValveOf, route, State.entryValveOf]
    have full : ∀ {n v}, Table.entry s.valves n = some v →
        (Table.entry ((s.opened.rewound k).filling k).valves n).isSome := fun {n v} entry => by
      rw [filling_eq]
      exact Option.isSome_iff_exists.2 ⟨v, entry⟩
    have drive : ∀ {n d}, Table.entry s.drives n = some d → Table.entry u.drives n = some
        (if l.heater = some n then { d with commanded := some (step.heater.getD 0) }
        else if n = l.pump then { d with commanded := some step.pump } else d) := fun {n d} entry => by
      rw [fills, refilled_drives, entry_drive_fed loaded', filling_eq]
      exact congrArg (Option.map _) entry
    refine ⟨work.frame, by rw [fills, refilled_eq]; rfl, by rw [fills, refilled_eq]; rfl, fun j ne => ?_,
      by rw [fills, round_refilled]; rfl, fun d entry other => ?_, fun n d heater entry => ?_,
      fun n v serves entry => ?_, fun n v mem other entry => ?_, fun n v named notMedium entry => ?_, ?_⟩
    · rw [fills]
      exact ((refilled_work (P := (· = k)) (Q := True) (s := s.opened) rfl).rounds j).1 ne
    · rw [drive entry, if_neg other, if_pos rfl]
    · rw [drive entry, if_pos heater]
    · rw [valves, supplied_medium loaded' (full entry) (mem_mediumValves serves), if_pos serves]
    · rw [valves, supplied_medium loaded' (full entry) mem, if_neg other]
    · rw [valves, supplied_entry loaded' (full entry) (entryValve.trans named) notMedium]
    · rw [fills]
      exact events_of_eventQueue ((eventQueue_refilled (s := s.opened)).trans (eventQueue_offer_congr _ rfl))

end Sys2Proof.Machine

/-! ## What the header controller and the release of a station leave alone (R75, R128 to R140) -/

namespace Sys2Proof.Machine

open Sys2Proof

section valves

variable {s : State} {k : Slot} {m n : Nat} {l : List Nat}

/-! ### One edit made to every valve or drive of a list -/

/-- A valve that a list names, once or more than once, has an idempotent edit made to it. -/
theorem entry_foldl_updValve {f : PartTime → ValveEntry → ValveEntry} (idem : ∀ t v, f t (f t v) = f t v) :
    Table.entry (l.foldl (fun s n => s.updValve n (f s.partTime)) s).valves m
      = (Table.entry s.valves m).map fun v => if m ∈ l then f s.partTime v else v := by
  induction l generalizing s with
  | nil => simp
  | cons n l ih =>
    rw [List.foldl_cons, ih, State.updValve_valves, State.updValve_partTime, Table.entry_adjust]
    cases Table.entry s.valves m with
    | none => simp
    | some v => by_cases here : m = n <;> by_cases later : m ∈ l <;> simp [here, later, idem]

theorem entry_foldl_updDrive {f : DriveEntry → DriveEntry} (idem : ∀ d, f (f d) = f d) :
    Table.entry (l.foldl (fun s n => s.updDrive n f) s).drives m
      = (Table.entry s.drives m).map fun d => if m ∈ l then f d else d := by
  induction l generalizing s with
  | nil => simp
  | cons n l ih =>
    rw [List.foldl_cons, ih, State.updDrive_drives, Table.entry_adjust]
    cases Table.entry s.drives m with
    | none => simp
    | some d => by_cases here : m = n <;> by_cases later : m ∈ l <;> simp [here, later, idem]

theorem foldl_updValve_eq (f : PartTime → ValveEntry → ValveEntry) (l : List Nat) (s : State) :
    l.foldl (fun s n => s.updValve n (f s.partTime)) s
      = { s with valves := (l.foldl (fun s n => s.updValve n (f s.partTime)) s).valves } := by
  induction l generalizing s with
  | nil => rfl
  | cons n l ih => exact ih (s.updValve n (f s.partTime))

theorem foldl_updDrive_eq (f : DriveEntry → DriveEntry) (l : List Nat) (s : State) :
    l.foldl (fun s n => s.updDrive n f) s = { s with drives := (l.foldl (fun s n => s.updDrive n f) s).drives } := by
  induction l generalizing s with
  | nil => rfl
  | cons n l ih => exact ih (s.updDrive n f)

/-! ### Release values (R65, R75) -/

variable {v : ValveEntry} {d : DriveEntry} {t : PartTime}

theorem giveUp_of_owned (owned : v.owner = some k) : v.giveUp t k = { v.command t .close with owner := none } :=
  if_pos owned

theorem giveUp_giveUp : (v.giveUp t k).giveUp t k = v.giveUp t k := by
  by_cases owned : v.owner = some k
  · exact if_neg (by simp [giveUp_of_owned owned])
  · rw [show v.giveUp t k = v from if_neg owned, show v.giveUp t k = v from if_neg owned]

theorem drive_giveUp_of_owned (owned : d.owner = some k) :
    d.giveUp k = { d with commanded := some 0, owner := none } := if_pos owned

theorem drive_giveUp_giveUp : (d.giveUp k).giveUp k = d.giveUp k := by
  by_cases owned : d.owner = some k
  · exact if_neg (by simp [drive_giveUp_of_owned owned])
  · rw [show d.giveUp k = d from if_neg owned, show d.giveUp k = d from if_neg owned]

variable {st : StationId} {load : StationLoad}

theorem giveUpActuators_eq (s : State) (k : Slot) (st : StationId) : s.giveUpActuators k st
    = { s with valves := (s.giveUpActuators k st).valves, drives := (s.giveUpActuators k st).drives } := by
  unfold State.giveUpActuators
  dsimp only
  rw [foldl_updDrive_eq, foldl_updValve_eq fun t => ValveEntry.giveUp t k]

theorem entry_drive_giveUpActuators : Table.entry (s.giveUpActuators k st).drives n
    = (Table.entry s.drives n).map fun d => if n ∈ s.supplyDrives st then d.giveUp k else d := by
  unfold State.giveUpActuators
  dsimp only
  rw [entry_foldl_updDrive fun _ => drive_giveUp_giveUp, foldl_updValve_eq fun t => ValveEntry.giveUp t k]

theorem entry_valve_giveUpActuators : Table.entry (s.giveUpActuators k st).valves n
    = (Table.entry s.valves n).map fun v => if n ∈ s.supplyValves k st then v.giveUp s.partTime k else v := by
  unfold State.giveUpActuators
  dsimp only
  rw [foldl_updDrive_eq]
  exact entry_foldl_updValve (f := fun t => ValveEntry.giveUp t k) fun _ _ => giveUp_giveUp

end valves

/-! ### Leaving a queue, and giving a station up -/

section station

variable {s : State} {k j : Slot} {st : StationId} {owned : Bool}

theorem round_leaveQueues : (s.leaveQueues k).round k
    = { s.round k with ageing := Timer.off, requestTime := none, effective := (s.round k).given } := by
  unfold State.leaveQueues
  rw [State.round_updRound]
  rfl

theorem station_leaveQueues : (s.leaveQueues k).station st
    = { s.station st with queue := (s.station st).queue.filter (· != k) } := by
  unfold State.leaveQueues allStations
  simp only [List.foldl_cons, List.foldl_nil, State.station_updRound]
  fin_cases st <;> simp [State.station_updStation_ne]

theorem not_mem_leaveQueues : k ∉ ((s.leaveQueues k).station st).queue := by
  rw [station_leaveQueues]
  simp

@[simp] theorem eventQueue_leaveQueues : (s.leaveQueues k).eventQueue = s.eventQueue := rfl

theorem freeStation_eq (s : State) (k : Slot) (owned : Bool) : s.freeStation k owned = { s with
    valves := (s.freeStation k owned).valves
    drives := (s.freeStation k owned).drives
    stations := (s.freeStation k owned).stations
    rounds := (s.freeStation k owned).rounds } := by
  unfold State.freeStation
  split
  · rfl
  · cases owned
    · rfl
    · dsimp only
      rw [if_pos rfl, giveUpActuators_eq]
      rfl

@[simp] theorem eventQueue_freeStation : (s.freeStation k owned).eventQueue = s.eventQueue := by
  rw [freeStation_eq]
  rfl

theorem freeStation_of_none (none : (s.round k).held = none) :
    s.freeStation k owned = s.updRound k fun r => { r with linked := false } := by
  unfold State.freeStation
  rw [none]

/-- The release of a held station: the release values when the grant had taken ownership, then station and record. -/
theorem freeStation_of_held (held : (s.round k).held = some st) : s.freeStation k owned
    = ((if owned then s.giveUpActuators k st else s).updStation st fun x =>
        { x with granted := none, linked := false }).updRound k fun r => { r with held := none, linked := false } := by
  unfold State.freeStation
  rw [held]

theorem round_giveUpActuators : (s.giveUpActuators k st).round j = s.round j := by
  rw [giveUpActuators_eq]
  rfl

theorem round_freeStation : (s.freeStation k owned).round k = { s.round k with held := none, linked := false } := by
  cases held : (s.round k).held with
  | none => rw [freeStation_of_none held, State.round_updRound, ← held]
  | some st =>
    rw [freeStation_of_held held, State.round_updRound, State.round_updStation]
    cases owned
    · rfl
    · rw [if_pos rfl, round_giveUpActuators]

theorem granted_freeStation (held : (s.round k).held = some st) :
    ((s.freeStation k owned).station st).granted = none := by
  rw [freeStation_of_held held, State.station_updRound, State.station_updStation]

theorem queue_freeStation : ((s.freeStation k owned).station st).queue = (s.station st).queue :=
  (Work.freeStation (P := fun _ => True) (Q := True) .rfl' trivial owned).quiet.2 st

end station

/-! ### The grant examination that a release makes -/

section examination

variable {s : State} {k : Slot} {held : Option StationId}

/-- The examination of a released station is work on the rounds that wait, never on a round that waits for none. -/
theorem examined_work (absent : ∀ st, k ∉ (s.station st).queue) :
    Work (· ≠ k) False s (s.cascade (examineHeld held)) :=
  Work.cascade .rfl' (fun st j mem (same : j = k) => absent st (same ▸ mem)) _ (Work.onTask_examineHeld held)

/-- With no round waiting for the released station, nothing follows. -/
theorem examined_quiet (empty : ∀ st, held = some st → (s.station st).queue = []) :
    s.cascade (examineHeld held) = s := by
  cases held with
  | none => exact Cascade.nil s
  | some st => rw [examineHeld, Cascade.one, State.take, examine_of_empty (empty st rfl), Cascade.nil]

end examination

/-! ### Headers -/

section headers

variable {s : State} {k : Slot} {h j : HeaderId} {x : Target} {l : HeaderLoad} {n : Nat}

theorem switch_eq (h : HeaderId) (x : Target) (s : State) :
    s.switch h x = { s with valves := (s.switch h x).valves, headers := (s.switch h x).headers } := by
  unfold State.switch
  split
  · dsimp only
    rw [commandValves_eq]
    rfl
  · rfl

theorem header_commandValves (m : List (Nat × Position)) : (s.commandValves m).header j = s.header j := by
  rw [commandValves_eq]
  rfl

theorem header_switch : (s.switch h x).header h = { s.header h with current := x } := by
  unfold State.switch
  split
  · dsimp only
    rw [State.header_updHeader, header_commandValves]
  · rw [State.header_updHeader]

theorem header_switch_ne (ne : j ≠ h) : (s.switch h x).header j = s.header j := by
  unfold State.switch
  split
  · dsimp only
    rw [State.header_updHeader_ne _ _ ne, header_commandValves]
  · exact State.header_updHeader_ne _ _ ne

theorem valves_switch (loaded : (s.header h).load = some l) :
    (s.switch h x).valves = (s.commandValves (l.positions x)).valves := by
  unfold State.switch
  rw [loaded]
  rfl

/-- A switch commands the header's diverter valves alone. -/
theorem entry_switch_ne (other : ∀ l, (s.header h).load = some l → n ∉ l.diverters) :
    Table.entry (s.switch h x).valves n = Table.entry s.valves n := by
  cases loaded : (s.header h).load with
  | none =>
    unfold State.switch
    rw [loaded]
    rfl
  | some l =>
    rw [valves_switch loaded]
    refine entry_commandValves_ne fun y mem same => ?_
    obtain ⟨m, there, rfl⟩ := List.mem_map.1 mem
    exact other l loaded (same ▸ there)

theorem steady_eq (h : HeaderId) (s : State) : s.steady h = { s with headers := (s.steady h).headers } := rfl

theorem settleOnDrain_eq (h : HeaderId) (s : State) : s.settleOnDrain h
    = { s with valves := (s.settleOnDrain h).valves, headers := (s.settleOnDrain h).headers } := by
  unfold State.settleOnDrain
  dsimp only
  split
  · rfl
  · rw [switch_eq]
    rfl

/-- A released header is STEADY on DRAIN with nothing pending (R140). -/
theorem header_settleOnDrain : ((s.settleOnDrain h).header h).current = .drain
    ∧ ((s.settleOnDrain h).header h).interface = .steady ∧ ((s.settleOnDrain h).header h).pending = none := by
  unfold State.settleOnDrain
  dsimp only
  split
  next drained =>
    refine ⟨drained, ?_⟩
    rw [State.steady, State.header_updHeader]
    exact ⟨rfl, rfl⟩
  next =>
    rw [header_switch, State.steady, State.header_updHeader]
    exact ⟨rfl, rfl, rfl⟩

theorem cancelHeader_eq (h : HeaderId) (s : State) : s.cancelHeader h
    = { s with valves := (s.cancelHeader h).valves, headers := (s.cancelHeader h).headers } := by
  unfold State.cancelHeader
  dsimp only
  split
  · rfl
  · rw [steady_eq, switch_eq]

/-- A cancelled header is STEADY on DRAIN (R139). -/
theorem header_cancelHeader : ((s.cancelHeader h).header h).current = .drain
    ∧ ((s.cancelHeader h).header h).interface = .steady := by
  unfold State.cancelHeader
  dsimp only
  split
  next drained => exact ⟨drained.2, drained.1⟩
  next =>
    rw [State.steady, State.header_updHeader, header_switch]
    exact ⟨rfl, rfl⟩

theorem judgeTarget_eq (h : HeaderId) (x : Target) (s : State) : s.judgeTarget h x
    = { s with valves := (s.judgeTarget h x).valves, headers := (s.judgeTarget h x).headers } := by
  unfold State.judgeTarget
  dsimp only
  split
  · rfl
  · split
    · rfl
    · split
      · unfold State.beginIn
        rw [switch_eq]
        rfl
      · exact switch_eq h x s

theorem entry_judgeTarget_ne (other : ∀ l, (s.header h).load = some l → n ∉ l.diverters) :
    Table.entry (s.judgeTarget h x).valves n = Table.entry s.valves n := by
  unfold State.judgeTarget
  dsimp only
  split
  · rfl
  · split
    · rfl
    · split
      · exact entry_switch_ne other
      · exact entry_switch_ne other

theorem cutInterface_eq (h : HeaderId) (k : Slot) (s : State) : s.cutInterface h k = { s with
    headers := (s.cutInterface h k).headers
    events := (s.cutInterface h k).events
    overflow := (s.cutInterface h k).overflow } := by
  unfold State.cutInterface
  dsimp only
  split
  · rfl
  · rw [State.offer_eq]
    rfl

/-- A target request changes its header, the header's diverter valves and the event queue (R131, R137). -/
theorem requestTarget_eq (h : HeaderId) (k : Slot) (x : Target) (s : State) : s.requestTarget h k x = { s with
    valves := (s.requestTarget h k x).valves
    headers := (s.requestTarget h k x).headers
    events := (s.requestTarget h k x).events
    overflow := (s.requestTarget h k x).overflow } := by
  unfold State.requestTarget
  dsimp only
  rw [judgeTarget_eq, cutInterface_eq]

theorem entry_requestTarget_ne (other : ∀ l, (s.header h).load = some l → n ∉ l.diverters) :
    Table.entry (s.requestTarget h k x).valves n = Table.entry s.valves n := by
  have cut : Work (fun _ => True) True s (s.cutInterface h k) := Work.cutInterface .rfl' h
  unfold State.requestTarget
  dsimp only
  rw [entry_judgeTarget_ne (by rw [cut.frame.2.2.2.2]; exact other), cutInterface_eq]

end headers

end Sys2Proof.Machine

/-! ## Faults of a round (R108, R109), and the expiries that fault it -/

namespace Sys2Proof.Machine

open Sys2Proof

section faults

variable {s w : State} {k j : Slot} {cause : FaultCause} {subject : Option Subject} {h : HeaderId}

/-- The FAULT of a round (R108, part 7). -/
def faultEvent (k : Slot) (cause : FaultCause) (subject : Option Subject) (step : Nat) (time : PartTime) : Event :=
  { bareEvent .fault time with
    slot := some k, subject := subject, cause := some (.fault cause), value := some (.number step) }

/-! ### Parts 1 to 3: the fault record, the queue and the station -/

/-- Parts 1 to 3 of the FAULTED entry (R108). -/
def State.forfeit (k : Slot) (cause : FaultCause) (subject : Option Subject) (s : State) : State :=
  ((s.updRound k fun r => { r with fault := some ⟨cause, subject, r.step, s.partTime⟩ }).leaveQueues k).freeStation k
    (cause != .stationUnfit)

/-- A cause that is taken: parts 1 to 3, the examination of the released station, and parts 5 to 7. -/
theorem cascade_fault (takes : (s.round k).takes cause = true) : s.cascade [.fault k cause subject]
    = ((s.forfeit k cause subject).cascade (examineHeld (s.round k).held)).faultTail k cause subject := by
  have reported : s.take (.fault k cause subject)
      = (s.forfeit k cause subject, examineHeld (s.round k).held ++ [.faultTail k cause subject]) := by
    rw [State.take, State.reportFault, if_pos takes, State.forfeit]
  have tail : ∀ w : State, w.take (.faultTail k cause subject) = (w.faultTail k cause subject, []) := fun _ => rfl
  rw [Cascade.one, reported, Cascade.append, Cascade.one, tail, Cascade.nil]

theorem cascade_fault_ignored (ignores : (s.round k).takes cause = false) : s.cascade [.fault k cause subject] = s := by
  have reported : s.take (.fault k cause subject) = (s, []) := by
    rw [State.take, State.reportFault, if_neg (by simp [ignores])]
  rw [Cascade.one, reported, Cascade.nil]

theorem round_forfeit : (s.forfeit k cause subject).round k = { s.round k with
    fault := some ⟨cause, subject, (s.round k).step, s.partTime⟩
    ageing := Timer.off
    requestTime := none
    effective := (s.round k).given
    held := none
    linked := false } := by
  rw [State.forfeit, round_freeStation, round_leaveQueues, State.round_updRound]

theorem forfeit_work {P : Slot → Prop} (p : P k) : Work P False s (s.forfeit k cause subject) :=
  Work.freeStation (Work.leaveQueues (Work.upd .rfl' p fun _ => by exact ⟨rfl, rfl, rfl, rfl, rfl, fun _ => rfl⟩) p) p _

theorem not_mem_forfeit (st : StationId) : k ∉ ((s.forfeit k cause subject).station st).queue := by
  rw [State.forfeit, queue_freeStation]
  exact not_mem_leaveQueues

theorem queue_forfeit_of_nil {st : StationId} (empty : (s.station st).queue = []) :
    ((s.forfeit k cause subject).station st).queue = [] := by
  rw [State.forfeit, queue_freeStation, station_leaveQueues]
  show (s.station st).queue.filter _ = []
  rw [empty]
  rfl

theorem granted_forfeit {st : StationId} (held : (s.round k).held = some st) :
    ((s.forfeit k cause subject).station st).granted = none :=
  granted_freeStation (by rw [round_leaveQueues, State.round_updRound]; exact held)

theorem eventQueue_forfeit : (s.forfeit k cause subject).eventQueue = s.eventQueue := by
  rw [State.forfeit, eventQueue_freeStation, eventQueue_leaveQueues, eventQueue_updRound]

/-! ### Parts 5 to 7: the record, the header and the events -/

/-- The header of a round, when it has one, is set to DRAIN (R139). -/
def State.drained (k : Slot) (s : State) : State :=
  match (s.round k).header with
  | some h => s.cancelHeader h
  | none => s

theorem drained_eq (k : Slot) (s : State) :
    s.drained k = { s with valves := (s.drained k).valves, headers := (s.drained k).headers } := by
  unfold State.drained
  split
  · exact cancelHeader_eq _ s
  · rfl

/-- Part 5 of the FAULTED entry (R108): the lift is closed, the timers stop, causes, resume state and criteria go. -/
def State.halted (k : Slot) (s : State) : State :=
  (s.closeLift k).updRound k fun r => { r.stopTimers with causes := ⟨false, []⟩, resume := none, criteria := [] }

theorem round_halted : (s.halted k).round k = { (s.round k).stopTimers with
    causes := ⟨false, []⟩, resume := none, criteria := [], lift := s.liftClosed k } := by
  rw [State.halted, State.round_updRound, round_closeLift]
  rfl

theorem round_drained : (s.drained k).round j = s.round j := by
  rw [drained_eq]
  rfl

theorem faultTail_eq : s.faultTail k cause subject = (((s.halted k).drained k).offer
    (faultEvent k cause subject (s.round k).step s.partTime)).enter k .faulted := by
  have step : (((s.halted k).drained k).round k).step = (s.round k).step := by
    rw [round_drained, round_halted]
    rfl
  have time : ((s.halted k).drained k).partTime = s.partTime := by
    rw [drained_eq]
    exact closeLift_partTime
  rw [← step, ← time]
  rfl

theorem round_faultTail : (s.faultTail k cause subject).round k = { (s.round k).stopTimers with
    state := .faulted, causes := ⟨false, []⟩, resume := none, criteria := [], lift := s.liftClosed k } := by
  rw [faultTail_eq, State.round_enter, State.round_offer, round_drained, round_halted]

/-- A round that has given up its station is FAULTED with the fault record it carries. -/
theorem faultedWith_faultTail {f : FaultRecord} (fault : (s.round k).fault = some f) (held : (s.round k).held = none)
    (linked : (s.round k).linked = false) : ((s.faultTail k cause subject).round k).faultedWith f := by
  rw [round_faultTail]
  exact ⟨rfl, fault, held, linked, rfl, rfl, rfl, rfl, rfl, rfl, rfl, rfl, rfl, rfl, rfl⟩

theorem header_faultTail (named : (s.round k).header = some h) :
    ((s.faultTail k cause subject).header h).current = .drain
    ∧ ((s.faultTail k cause subject).header h).interface = .steady := by
  have named' : ((s.halted k).round k).header = some h := by
    rw [round_halted]
    exact named
  rw [faultTail_eq, State.header_enter, State.header_offer, State.drained, named']
  exact header_cancelHeader

@[simp] theorem station_faultTail (st : StationId) : (s.faultTail k cause subject).station st = s.station st := by
  rw [faultTail_eq, State.station_enter, State.station_offer, drained_eq]
  exact station_closeLift st

theorem eventQueue_faultTail : (s.faultTail k cause subject).eventQueue
    = ((s.offer (faultEvent k cause subject (s.round k).step s.partTime)).offer
      (roundStateEvent k .faulted none s.partTime)).eventQueue := by
  have same : ((s.halted k).drained k).eventQueue = s.eventQueue := by
    rw [drained_eq]
    exact closeLift_eventQueue
  rw [faultTail_eq, eventQueue_enter_of k (eventQueue_offer_congr _ same) (by decide), State.offer_partTime]

/-! ### A fault as a whole -/

/-- What a taken cause does to the round and to the rest (R108). -/
structure Faults (s u w : State) (k : Slot) (cause : FaultCause) (subject : Option Subject) : Prop where
  frame : sequencerFrame s u
  record : (u.round k).faultedWith ⟨cause, subject, (s.round k).step, s.partTime⟩
  station : ∀ st, (s.round k).held = some st → (u.station st).granted ≠ some k
  queues : ∀ st, k ∉ (u.station st).queue
  header : ∀ h, (s.round k).header = some h → (u.header h).current = .drain ∧ (u.header h).interface = .steady
  released : sequencerFrame s w
  quiet : (∀ st, (s.round k).held = some st → (s.station st).queue = []) →
    w.eventQueue = s.eventQueue ∧ ∀ j, j ≠ k → u.round j = s.round j
  events : u.eventQueue = ((w.offer (faultEvent k cause subject (s.round k).step s.partTime)).offer
    (roundStateEvent k .faulted none s.partTime)).eventQueue

theorem faults_of_takes (takes : (s.round k).takes cause = true) :
    ∃ w, Faults s (s.cascade [.fault k cause subject]) w k cause subject := by
  set v := s.forfeit k cause subject
  set w := v.cascade (examineHeld (s.round k).held) with released
  have absent : ∀ st, k ∉ (v.station st).queue := not_mem_forfeit
  have examined : Work (· ≠ k) False v w := examined_work absent
  have record : w.round k = v.round k := (examined.rounds k).1 (not_not.2 rfl)
  have step : (w.round k).step = (s.round k).step := by rw [record, round_forfeit]
  have forfeited : Work (fun _ => True) False s v := forfeit_work trivial
  have frame : sequencerFrame s w := sequencerFrame_trans forfeited.frame examined.frame
  have tail : Work (· = k) True w (w.faultTail k cause subject) := Work.faultTail (P := (· = k)) .rfl' rfl cause subject
  have time : w.partTime = s.partTime := by rw [frame.1]
  rw [cascade_fault takes]
  refine ⟨w, sequencerFrame_trans frame tail.frame, ?record, fun st held granted => ?station, fun st mem => ?queues,
    fun h named => ?header, frame, fun empty => ⟨?events, fun j ne => ?others⟩, ?tail⟩
  case record =>
    refine faultedWith_faultTail ?_ ?_ ?_
    · rw [record, round_forfeit]
    · rw [record, round_forfeit]
    · rw [record, round_forfeit]
  case station =>
    rw [station_faultTail] at granted
    have before := (examined.queues (not_not.2 rfl) st).2 granted
    rw [granted_forfeit held] at before
    cases before
  case queues =>
    rw [station_faultTail] at mem
    exact absent st ((examined.queues (not_not.2 rfl) st).1 mem)
  case header =>
    refine header_faultTail ?_
    rw [record, round_forfeit]
    exact named
  case events =>
    rw [released, examined_quiet fun st held => queue_forfeit_of_nil (empty st held)]
    exact eventQueue_forfeit
  case others =>
    rw [(tail.rounds j).1 ne, released, examined_quiet fun st held => queue_forfeit_of_nil (empty st held)]
    exact ((forfeit_work (P := (· = k)) rfl).rounds j).1 ne
  case tail => rw [eventQueue_faultTail, step, time]

end faults

/-! ### The expiries that fault a round -/

section expiries

variable {s : State} {k : Slot} (n : Nat)

@[simp] theorem header_pass_load (h : HeaderId) : ((s.pass n).header h).load = (s.header h).load := by
  rw [State.header_pass]

@[simp] theorem round_pass_header : ((s.pass n).round k).header = (s.round k).header := by rw [State.round_pass]; rfl

@[simp] theorem held_pass : ((s.pass n).round k).held = (s.round k).held := by rw [State.round_pass]; rfl

@[simp] theorem step_pass : ((s.pass n).round k).step = (s.round k).step := by rw [State.round_pass]; rfl

@[simp] theorem headerLoadOf_pass : (s.pass n).headerLoadOf k = s.headerLoadOf k := by
  unfold State.headerLoadOf
  rw [round_pass_header]
  simp

@[simp] theorem unsettled_pass : (s.pass n).unsettled k = s.unsettled k := by
  unfold State.unsettled State.shows
  rw [routeOf_pass, State.pass_valves]

@[simp] theorem fillPoint_pass : (s.pass n).fillPoint k = s.fillPoint k := by
  unfold State.fillPoint
  rw [routeOf_pass, State.pass_segments, headerLoadOf_pass]

theorem eventQueue_components {t : State} (same : t.eventQueue = s.eventQueue) :
    t.events = s.events ∧ t.overflow = s.overflow := ⟨events_of_eventQueue same, overflow_of_eventQueue same⟩

end expiries

/-- Settles O42: every one of the five expiries reports its cause after the part time its timer lacks, in a state that
takes the cause. -/
theorem timeoutsFault : Obligations.TimeoutsFault := by
  intro k s _ r faults
  have expires : ∀ {i : Instr} {t : Timer} {cause : FaultCause} (subject : State → Option Subject),
      exec i s = .next (s.expire t fun p => p.cascade [.fault k cause (subject p)]) →
      ((s.pass (t.limit - t.elapsed)).round k).takes cause = true → subject (s.pass (t.limit - t.elapsed)) = subject s →
      faults i t cause (subject s) := by
    intro i t cause subject runs takes same
    refine ⟨fun idle => runs.trans (congrArg _ (expire_of_idle _ idle)), fun running => ?_⟩
    obtain ⟨w, frame, record, station, -, header, released, quiet, events⟩ :=
      faults_of_takes (s := s.pass (t.limit - t.elapsed)) (k := k) (subject := subject s) takes
    rw [step_pass] at record events
    rw [State.pass_partTime] at record
    simp only [held_pass, round_pass_header, State.station_pass] at station header quiet
    have cascades := runs.trans (congrArg _ (expire_of_running _ running))
    rw [same] at cascades
    refine ⟨_, w, cascades, frame, record, station, header, released, fun empty => ?_, eventQueue_components events⟩
    obtain ⟨same, others⟩ := quiet empty
    exact ⟨(events_of_eventQueue same).trans (State.pass_events ..),
      (overflow_of_eventQueue same).trans (State.pass_overflow ..), others⟩
  refine ⟨fun setting => expires (fun p => (p.unsettled k).map .valve) rfl ?_ (by rw [unsettled_pass]),
    fun filling => expires (fun p => (p.fillPoint k).map .point) rfl ?_ (by rw [fillPoint_pass]),
    fun runs => expires (fun _ => none) rfl ?_ rfl, fun waits => expires (fun _ => none) rfl ?_ rfl,
    fun ending => expires (fun p => (p.headerLoadOf k).map fun l => .point l.flow) rfl ?_ (by rw [headerLoadOf_pass])⟩
  · simp [Round.takes, show (s.round k).state = .setting from setting]
  · simp [Round.takes, show (s.round k).state = .stepFill from filling]
  · simpa [Round.takes] using runs
  · simpa [Round.takes] using waits
  · simp [Round.takes, show (s.round k).state = .ending from ending]

end Sys2Proof.Machine

/-! ## ENDING entered (R86, R105, R106) -/

namespace Sys2Proof.Machine

open Sys2Proof

/-! ### Loaded fields and nodes across the work of the sequencer -/

theorem Table.entry_keys {α β : Type} (key : α → β) (t : Table α) (n : Nat) :
    Table.entry (Table.keys key t) n = (Table.entry t n).map key := by
  induction t with
  | nil => rfl
  | cons x t ih =>
    show (if x.1 = n then some (key x.2) else Table.entry (Table.keys key t) n) = _
    rw [ih, Table.entry_cons x.1 n x.2 t]
    split <;> rfl

section nodes

variable {s t : State} {k : Slot} {n : Nat}

theorem valve_untouched_of_frame (frame : sequencerFrame s t) (n : Nat) :
    (Table.entry t.valves n).map ValveEntry.untouched = (Table.entry s.valves n).map ValveEntry.untouched := by
  rw [← Table.entry_keys, ← Table.entry_keys]
  exact congrArg (Table.entry · n) frame.2.1

theorem drive_untouched_of_frame (frame : sequencerFrame s t) (n : Nat) :
    (Table.entry t.drives n).map DriveEntry.untouched = (Table.entry s.drives n).map DriveEntry.untouched := by
  rw [← Table.entry_keys, ← Table.entry_keys]
  exact congrArg (Table.entry · n) frame.2.2.1

theorem valveNode_of_frame (frame : sequencerFrame s t) : t.valveNode = s.valveNode := by
  funext n
  have same := congrArg (Option.map ValveEntry.node) (valve_untouched_of_frame frame n)
  rw [Option.map_map, Option.map_map] at same
  exact same

theorem nodeSilent_of_frame (frame : sequencerFrame s t) : t.nodeSilent = s.nodeSilent := by
  rw [frame.1]
  rfl

theorem pointNode_of_frame (frame : sequencerFrame s t) : t.pointNode = s.pointNode := by
  rw [frame.1]
  rfl

variable {P : Slot → Prop} {Q : Prop}

theorem headerLoadOf_of_work (w : Work P Q s t) : t.headerLoadOf k = s.headerLoadOf k := by
  obtain ⟨-, -, -, -, -, header⟩ := w.rounds k
  unfold State.headerLoadOf
  rw [header]
  exact Option.bind_congr fun h _ => w.frame.2.2.2.2 h

theorem routeNodes_of_work (w : Work P Q s t) : t.routeNodes k = s.routeNodes k := by
  unfold State.routeNodes
  rw [routeOf_of_work w, valveNode_of_frame w.frame]

theorem headerNodes_of_work (w : Work P Q s t) : t.headerNodes k = s.headerNodes k := by
  unfold State.headerNodes
  rw [headerLoadOf_of_work w, valveNode_of_frame w.frame, pointNode_of_frame w.frame]

end nodes

/-! ### Noted causes -/

section noted

variable {s : State} {k : Slot} {nodes : List Octet} {c : HoldCauses} {x a : Octet}

theorem mem_insertAddress {l : List Octet} : x ∈ insertAddress a l ↔ x = a ∨ x ∈ l := by
  induction l with
  | nil => simp [insertAddress]
  | cons b l ih =>
    unfold insertAddress
    split
    · simp
    · split
      next same => simp [same]
      next => rw [List.mem_cons, ih, List.mem_cons]; tauto

theorem mem_foldl_addNode : x ∈ (nodes.foldl (fun c a => c.addNode a) c).nodes ↔ x ∈ c.nodes ∨ x ∈ nodes := by
  induction nodes generalizing c with
  | nil => simp
  | cons a nodes ih =>
    rw [List.foldl_cons, ih, HoldCauses.addNode, mem_insertAddress, List.mem_cons]
    tauto

theorem link_foldl_addNode : (nodes.foldl (fun c a => c.addNode a) c).link = c.link := by
  induction nodes generalizing c with
  | nil => rfl
  | cons a nodes ih => exact ih

/-- The causes a round holds once the silent ones of some nodes are added (R86). -/
def State.causesWith (s : State) (k : Slot) (nodes : List Octet) : HoldCauses :=
  (nodes.filter s.nodeSilent).foldl (fun c a => c.addNode a) (s.round k).causes

theorem mem_causesWith : x ∈ (s.causesWith k nodes).nodes
    ↔ x ∈ (s.round k).causes.nodes ∨ x ∈ nodes ∧ s.nodeSilent x = true := by
  rw [State.causesWith, mem_foldl_addNode, List.mem_filter]

theorem link_causesWith : (s.causesWith k nodes).link = (s.round k).causes.link := link_foldl_addNode

theorem round_noteSilent : (s.noteSilent k nodes).round k = { s.round k with causes := s.causesWith k nodes } :=
  State.round_updRound ..

theorem noteSilent_eq (s : State) (k : Slot) (nodes : List Octet) :
    s.noteSilent k nodes = s.updRound k fun r => { r with causes := s.causesWith k nodes } := by
  unfold State.noteSilent State.updRound
  rfl

end noted

/-! ### The first half of ENDING -/

section ending

variable {s : State} {k j : Slot} {res : RoundResult} {st : StationId} {n : Nat}

/-- ENDING entered: its first half, the examination of the released station, and its second half (R106). -/
theorem cascade_ending : s.cascade [.ending k res]
    = ((s.beginEnding k res).cascade (examineHeld (s.round k).held)).endingTail k := by
  have first : s.take (.ending k res) = (s.beginEnding k res, examineHeld (s.round k).held ++ [.endingTail k]) := rfl
  have tail : ∀ w : State, w.take (.endingTail k) = (w.endingTail k, []) := fun _ => rfl
  rw [Cascade.one, first, Cascade.append, Cascade.one, tail, Cascade.nil]

/-- The record before the station is given up: the step's timers stopped, the result written, the lift closed. -/
def State.stopped (k : Slot) (res : RoundResult) (s : State) : State :=
  (s.closeLift k).updRound k fun r => { r.stopStep with result := r.result <|> some res, criteria := [] }

theorem round_stopped : (s.stopped k res).round k = { (s.round k).stopStep with
    result := (s.round k).result <|> some res, criteria := [], lift := s.liftClosed k } := by
  rw [State.stopped, State.round_updRound, round_closeLift]
  rfl

theorem beginEnding_eq : s.beginEnding k res = (s.stopped k res).freeStation k true := rfl

theorem stopped_eq (k : Slot) (res : RoundResult) (s : State) : s.stopped k res
    = { s with valves := (s.closeLift k).valves, rounds := (s.stopped k res).rounds } := by
  unfold State.stopped
  rw [closeLift_eq]
  rfl

theorem round_beginEnding : (s.beginEnding k res).round k = { (s.round k).stopStep with
    result := (s.round k).result <|> some res
    criteria := []
    lift := s.liftClosed k
    held := none
    linked := false } := by
  rw [beginEnding_eq, round_freeStation, round_stopped]

theorem held_stopped : ((s.stopped k res).round k).held = (s.round k).held := by
  rw [round_stopped]
  rfl

theorem beginEnding_of_none (none : (s.round k).held = none) :
    s.beginEnding k res = (s.stopped k res).updRound k fun r => { r with linked := false } := by
  rw [beginEnding_eq, freeStation_of_none (held_stopped.trans none)]

theorem queue_beginEnding : ((s.beginEnding k res).station st).queue = (s.station st).queue :=
  (Work.beginEnding (P := fun _ => True) (Q := True) .rfl' trivial res).quiet.2 st

theorem granted_beginEnding (held : (s.round k).held = some st) :
    ((s.beginEnding k res).station st).granted = none := by
  rw [beginEnding_eq]
  exact granted_freeStation (held_stopped.trans held)

/-! ### The second half of ENDING -/

/-- DRAIN is requested of the round's header (R106, part 3). -/
def State.asked (k : Slot) (s : State) : State :=
  match (s.round k).header with
  | some h => s.requestTarget h k .drain
  | none => s

theorem asked_eq (k : Slot) (s : State) : s.asked k = { s with
    valves := (s.asked k).valves
    headers := (s.asked k).headers
    events := (s.asked k).events
    overflow := (s.asked k).overflow } := by
  unfold State.asked
  split
  · exact requestTarget_eq _ k _ s
  · rfl

theorem asked_work {P : Slot → Prop} {Q : Prop} : Work P Q s (s.asked k) := by
  unfold State.asked
  split
  · exact Work.requestTarget .rfl' _ _
  · exact .rfl'

theorem entry_asked_ne (other : ∀ h l, (s.round k).header = some h → (s.header h).load = some l → n ∉ l.diverters) :
    Table.entry (s.asked k).valves n = Table.entry s.valves n := by
  unfold State.asked
  split
  next h named => exact entry_requestTarget_ne fun l => other h l named
  next => rfl

/-- The nodes of the ENDING dependencies (R86). -/
def State.endingNodes (s : State) (k : Slot) : List Octet := s.routeNodes k ++ s.headerNodes k

/-- DRAIN is requested, the drain timers start and the causes are added (R106, parts 3 to 5). -/
def State.draining (k : Slot) (s : State) : State :=
  (s.asked k).updRound k fun r => { r with
    drainHold := ⟨.running, 0, 100 * s.config.drainHold.toNat⟩
    drainMax := ⟨.running, 0, 1000 * s.config.drainMax.toNat⟩
    resume := if (s.round k).state = .holding then some .ending else none
    causes := s.causesWith k (s.endingNodes k) }

theorem round_asked : (s.asked k).round j = s.round j := by
  rw [asked_eq]
  rfl

theorem round_draining : (s.draining k).round k = { s.round k with
    drainHold := ⟨.running, 0, 100 * s.config.drainHold.toNat⟩
    drainMax := ⟨.running, 0, 1000 * s.config.drainMax.toNat⟩
    resume := if (s.round k).state = .holding then some .ending else none
    causes := s.causesWith k (s.endingNodes k) } := by
  rw [State.draining, State.round_updRound, round_asked]

theorem updRound_updRound (f g : Round → Round) (s : State) :
    (s.updRound k f).updRound k g = s.updRound k fun r => g (f r) := by
  unfold State.updRound
  simp

/-- The record of `draining` before the causes are added, with the configuration's own units. -/
def State.drainStarted (k : Slot) (s : State) : State :=
  (s.asked k).updRound k fun r => { r with
    drainHold := Timer.start (tenths (s.asked k).config.drainHold.toNat)
    drainMax := Timer.start (seconds (s.asked k).config.drainMax.toNat)
    resume := if ((s.asked k).round k).state == .holding then some .ending else none }

theorem noteSilent_drainStarted : (s.drainStarted k).noteSilent k
    ((s.drainStarted k).routeNodes k ++ (s.drainStarted k).headerNodes k) = s.draining k := by
  have work : Work (fun _ => True) True s (s.drainStarted k) := by
    unfold State.drainStarted
    exact Work.upd asked_work trivial fun _ => by exact ⟨rfl, rfl, rfl, rfl, rfl, fun _ => rfl⟩
  have causes : ((s.drainStarted k).round k).causes = (s.round k).causes := by
    rw [State.drainStarted, State.round_updRound, round_asked]
  have noted : (s.drainStarted k).causesWith k (s.endingNodes k) = s.causesWith k (s.endingNodes k) := by
    rw [State.causesWith, causes, nodeSilent_of_frame work.frame, State.causesWith]
  have config : (s.asked k).config = s.config := by rw [asked_eq]
  rw [routeNodes_of_work work, headerNodes_of_work work, ← State.endingNodes, noteSilent_eq, noted, State.drainStarted,
    updRound_updRound, config, round_asked, tenths, seconds, Nat.mul_comm, Nat.mul_comm s.config.drainMax.toNat]
  simp only [beq_iff_eq]
  rfl

/-- The second half of ENDING, by its three ends: the round was in HOLDING, no cause stands, or causes stand. -/
theorem endingTail_eq : s.endingTail k = if (s.round k).state = .holding then (s.draining k).updRound k Round.pauseTimers
    else if ((s.draining k).round k).causes.isEmpty then
      ((s.draining k).updRound k fun r => { r with holdLimit := r.holdLimit.stop }).enter k .ending
    else (s.draining k).enterHolding k .ending := by
  have holding : (((s.asked k).round k).state == .holding) = true ↔ (s.round k).state = .holding := by
    rw [round_asked, beq_iff_eq]
  rw [← noteSilent_drainStarted]
  exact Eq.trans rfl (if_congr holding rfl rfl)

/-! ### The three ends -/

theorem endingTail_stays (holding : (s.round k).state = .holding) :
    s.endingTail k = (s.draining k).updRound k Round.pauseTimers := by rw [endingTail_eq, if_pos holding]

theorem endingTail_ends (other : (s.round k).state ≠ .holding) (clear : s.causesWith k (s.endingNodes k) = ⟨false, []⟩) :
    s.endingTail k = ((s.draining k).updRound k fun r => { r with holdLimit := r.holdLimit.stop }).enter k .ending := by
  rw [endingTail_eq, if_neg other, if_pos]
  rw [round_draining, clear]
  rfl

theorem endingTail_holds (other : (s.round k).state ≠ .holding) (some : s.causesWith k (s.endingNodes k) ≠ ⟨false, []⟩) :
    s.endingTail k = (s.draining k).enterHolding k .ending := by
  rw [endingTail_eq, if_neg other, if_neg]
  rw [round_draining, HoldCauses.isEmpty_iff]
  exact some

theorem round_enterHolding (res : ResumeState) : (s.enterHolding k res).round k = { (s.round k).pauseTimers with
    state := .holding
    resume := some res
    lift := s.liftClosed k
    holdLimit := if (s.round k).state = .paused ∨ (s.round k).state = .holding then (s.round k).holdLimit
      else ⟨.running, 0, (s.closeLift k).holdLimitOf k⟩ } := by
  rw [State.enterHolding, round_putOnHold, round_closeLift]
  rfl

/-- What the second half of ENDING leaves of a record: the three ends pause what still runs. -/
structure Round.Ended (r x : Round) : Prop where
  result : x.result = r.result
  fault : x.fault = r.fault
  effective : x.effective = r.effective
  held : x.held = r.held
  linked : x.linked = r.linked
  criteria : x.criteria = r.criteria
  travel : r.travel.mode = .stopped → x.travel.mode = .stopped
  fill : r.fill.mode = .stopped → x.fill.mode = .stopped
  wall : r.wall.mode = .stopped → x.wall.mode = .stopped
  liftTimer : r.liftTimer.mode = .stopped → x.liftTimer.mode = .stopped

theorem pause_of_stopped {t : Timer} (stopped : t.mode = .stopped) : t.pause.mode = .stopped := by
  rw [Timer.pause, if_neg (by rw [stopped]; decide)]
  exact stopped

theorem endingTail_ended : (s.round k).Ended ((s.endingTail k).round k) := by
  have pauses := fun {t : Timer} => pause_of_stopped (t := t)
  by_cases holding : (s.round k).state = .holding
  · rw [endingTail_stays holding, State.round_updRound, round_draining]
    exact ⟨rfl, rfl, rfl, rfl, rfl, rfl, pauses, pauses, pauses, pauses⟩
  · by_cases clear : s.causesWith k (s.endingNodes k) = ⟨false, []⟩
    · rw [endingTail_ends holding clear, State.round_enter, State.round_updRound, round_draining]
      exact ⟨rfl, rfl, rfl, rfl, rfl, rfl, id, id, id, id⟩
    · rw [endingTail_holds holding clear, round_enterHolding, round_draining]
      exact ⟨rfl, rfl, rfl, rfl, rfl, rfl, pauses, pauses, pauses, pauses⟩

theorem causes_endingTail : ((s.endingTail k).round k).causes = s.causesWith k (s.endingNodes k) := by
  by_cases holding : (s.round k).state = .holding
  · rw [endingTail_stays holding, State.round_updRound, round_draining]
    rfl
  · by_cases clear : s.causesWith k (s.endingNodes k) = ⟨false, []⟩
    · rw [endingTail_ends holding clear, State.round_enter, State.round_updRound, round_draining]
    · rw [endingTail_holds holding clear, round_enterHolding, round_draining]
      rfl

theorem endingTail_clear (other : (s.round k).state ≠ .holding)
    (clear : ((s.endingTail k).round k).causes = ⟨false, []⟩) :
    ((s.endingTail k).round k).state = .ending ∧ ((s.endingTail k).round k).resume = none
    ∧ ((s.endingTail k).round k).drainHold = ⟨.running, 0, 100 * s.config.drainHold.toNat⟩
    ∧ ((s.endingTail k).round k).drainMax = ⟨.running, 0, 1000 * s.config.drainMax.toNat⟩ := by
  rw [endingTail_ends other (causes_endingTail.symm.trans clear), State.round_enter, State.round_updRound, round_draining]
  exact ⟨rfl, if_neg other, rfl, rfl⟩

theorem endingTail_caused
    (some : (s.round k).state = .holding ∨ ((s.endingTail k).round k).causes ≠ ⟨false, []⟩) :
    ((s.endingTail k).round k).state = .holding ∧ ((s.endingTail k).round k).resume = Option.some .ending
    ∧ ((s.endingTail k).round k).drainHold = ⟨.paused, 0, 100 * s.config.drainHold.toNat⟩
    ∧ ((s.endingTail k).round k).drainMax = ⟨.paused, 0, 1000 * s.config.drainMax.toNat⟩ := by
  by_cases holding : (s.round k).state = .holding
  · rw [endingTail_stays holding, State.round_updRound, round_draining]
    exact ⟨holding, if_pos holding, rfl, rfl⟩
  · have causes : s.causesWith k (s.endingNodes k) ≠ ⟨false, []⟩ := by
      rw [← causes_endingTail]
      exact some.resolve_left holding
    rw [endingTail_holds holding causes, round_enterHolding, round_draining]
    exact ⟨rfl, rfl, rfl, rfl⟩

theorem enterHolding_eq (k : Slot) (res : ResumeState) (s : State) : s.enterHolding k res = { s with
    valves := (s.closeLift k).valves
    rounds := (s.enterHolding k res).rounds
    events := (s.enterHolding k res).events
    overflow := (s.enterHolding k res).overflow } := by
  unfold State.enterHolding
  rw [putOnHold_eq, closeLift_eq]

/-- The second half of ENDING leaves stations and drives alone, and of the valves it commands the header's diverter
valves and, where it closes a lift, a lifted valve CLOSE. -/
theorem endingTail_actuators : (s.endingTail k).stations = s.stations ∧ (s.endingTail k).drives = s.drives
    ∧ ∀ n, Table.entry (s.endingTail k).valves n = Table.entry (s.asked k).valves n
      ∨ Table.entry (s.endingTail k).valves n
        = (Table.entry (s.asked k).valves n).map (ValveEntry.command s.partTime .close) := by
  have draining : (s.draining k).stations = s.stations ∧ (s.draining k).drives = s.drives
      ∧ (s.draining k).valves = (s.asked k).valves := by
    rw [State.draining, asked_eq]
    exact ⟨rfl, rfl, rfl⟩
  obtain ⟨stations, drives, valves⟩ := draining
  have time : (s.draining k).partTime = s.partTime := by
    rw [State.draining, asked_eq]
    rfl
  by_cases holding : (s.round k).state = .holding
  · rw [endingTail_stays holding]
    exact ⟨stations, drives, fun n => .inl (congrArg (Table.entry · n) valves)⟩
  · by_cases clear : s.causesWith k (s.endingNodes k) = ⟨false, []⟩
    · rw [endingTail_ends holding clear, State.enter_stations, State.enter_drives, State.enter_valves]
      exact ⟨stations, drives, fun n => .inl (congrArg (Table.entry · n) valves)⟩
    · rw [endingTail_holds holding clear, enterHolding_eq]
      refine ⟨stations, drives, fun n => ?_⟩
      rw [entry_closeLift, valves, time]
      split
      · exact .inr rfl
      · exact .inl (by simp)

end ending

/-! ### ENDING as a whole, for a round that waits for no station -/

section ends

variable {s : State} {k : Slot} {res : RoundResult}

/-- What the entry into ENDING does to the round and to the rest (R105, R106). -/
structure Ends (s u : State) (k : Slot) (res : RoundResult) : Prop where
  frame : sequencerFrame s u
  result : (u.round k).result = some ((s.round k).result.getD res)
  fault : (u.round k).fault = (s.round k).fault
  effective : (u.round k).effective = (s.round k).effective
  given_up : (u.round k).held = none ∧ (u.round k).linked = false ∧ (u.round k).criteria = []
  timers : (u.round k).travel.mode = .stopped ∧ (u.round k).fill.mode = .stopped ∧ (u.round k).wall.mode = .stopped
    ∧ (u.round k).liftTimer.mode = .stopped
  queues : ∀ st, k ∈ (u.station st).queue → k ∈ (s.station st).queue
  station : ∀ st, (s.round k).held = some st → (u.station st).granted ≠ some k
  causes : ∀ x, x ∈ (u.round k).causes.nodes ↔ x ∈ (s.round k).causes.nodes
    ∨ x ∈ s.endingNodes k ∧ s.nodeSilent x = true
  clear : (s.round k).state ≠ .holding → (u.round k).causes = ⟨false, []⟩ →
    (u.round k).state = .ending ∧ (u.round k).resume = none
    ∧ (u.round k).drainHold = ⟨.running, 0, 100 * s.config.drainHold.toNat⟩
    ∧ (u.round k).drainMax = ⟨.running, 0, 1000 * s.config.drainMax.toNat⟩
  caused : (s.round k).state = .holding ∨ (u.round k).causes ≠ ⟨false, []⟩ →
    (u.round k).state = .holding ∧ (u.round k).resume = some .ending
    ∧ (u.round k).drainHold = ⟨.paused, 0, 100 * s.config.drainHold.toNat⟩
    ∧ (u.round k).drainMax = ⟨.paused, 0, 1000 * s.config.drainMax.toNat⟩

theorem endingNodes_of_work {P : Slot → Prop} {Q : Prop} {t : State} (w : Work P Q s t) :
    t.endingNodes k = s.endingNodes k := by
  rw [State.endingNodes, routeNodes_of_work w, headerNodes_of_work w, ← State.endingNodes]

theorem orElse_some_eq {α : Type} (a : Option α) (b : α) : (a <|> some b) = some (a.getD b) := by cases a <;> rfl

/-- The entry into ENDING where the examination of the released station leaves the round alone. -/
theorem ends_of_examined (examined : Work (· ≠ k) False (s.beginEnding k res)
    ((s.beginEnding k res).cascade (examineHeld (s.round k).held))) : Ends s (s.cascade [.ending k res]) k res := by
  rw [cascade_ending]
  generalize begins : s.beginEnding k res = v
  have queued : ∀ st, (v.station st).queue = (s.station st).queue := fun st => by rw [← begins]; exact queue_beginEnding
  rw [begins] at examined
  generalize v.cascade (examineHeld (s.round k).held) = w at examined ⊢
  have begun : Work (fun _ => True) False s v := begins ▸ Work.beginEnding .rfl' trivial res
  have before : Work (fun _ => True) False s w := begun.trans (examined.mono fun _ _ => trivial)
  have tail : Work (fun _ => True) False w (w.endingTail k) := Work.endingTail .rfl' trivial
  have after : (w.round k).Ended ((w.endingTail k).round k) := endingTail_ended
  have record : w.round k = v.round k := (examined.rounds k).1 (not_not.2 rfl)
  have station : ∀ st, (w.endingTail k).station st = w.station st := fun st => by
    rw [State.station, endingTail_actuators.1, ← State.station]
  have causes : w.causesWith k (w.endingNodes k) = s.causesWith k (s.endingNodes k) := by
    rw [endingNodes_of_work before, State.causesWith, nodeSilent_of_frame before.frame, record, ← begins, round_beginEnding,
      State.causesWith]
    rfl
  rw [← begins, round_beginEnding] at record
  have state : (w.round k).state = (s.round k).state := by
    rw [record]
    rfl
  have config : w.config = s.config := by rw [before.frame.1]
  refine {
    frame := sequencerFrame_trans before.frame tail.frame
    result := ?result
    fault := by rw [after.fault, record]; rfl
    effective := by rw [after.effective, record]; rfl
    given_up := ⟨by rw [after.held, record], by rw [after.linked, record], by rw [after.criteria, record]⟩
    timers := ⟨after.travel (by rw [record]; rfl), after.fill (by rw [record]; rfl), after.wall (by rw [record]; rfl),
      after.liftTimer (by rw [record]; rfl)⟩
    queues := fun st mem => queued st ▸ (examined.queues (not_not.2 rfl) st).1 (station st ▸ mem)
    station := fun st held granted => ?station
    causes := fun x => by rw [causes_endingTail, causes, mem_causesWith]
    clear := fun other clear => ?clear
    caused := fun some => ?caused }
  case result => rw [after.result, record, orElse_some_eq]
  case station =>
    rw [station] at granted
    have kept := (examined.queues (not_not.2 rfl) st).2 granted
    rw [← begins, granted_beginEnding held] at kept
    cases kept
  case clear =>
    rw [← config]
    exact endingTail_clear (state ▸ other) clear
  case caused =>
    rw [← config]
    exact endingTail_caused (state ▸ some)

theorem ends_of_absent (absent : ∀ st, k ∉ (s.station st).queue) : Ends s (s.cascade [.ending k res]) k res :=
  ends_of_examined (examined_work fun st => queue_beginEnding.symm ▸ absent st)

/-- With no station held none is examined. -/
theorem cascade_ending_of_none (none : (s.round k).held = none) :
    s.cascade [.ending k res] = (s.beginEnding k res).endingTail k := by
  rw [cascade_ending, none, examineHeld, Cascade.nil]

theorem ends_of_none (none : (s.round k).held = none) : Ends s (s.cascade [.ending k res]) k res := by
  refine ends_of_examined ?_
  rw [none, examineHeld, Cascade.nil]

/-- With no station held, stations, drives and the other rounds are left alone. -/
theorem ending_of_none_leaves (none : (s.round k).held = none) :
    (s.cascade [.ending k res]).stations = s.stations ∧ (s.cascade [.ending k res]).drives = s.drives
    ∧ ∀ j, j ≠ k → (s.cascade [.ending k res]).round j = s.round j := by
  have begun : Work (· = k) True s (s.beginEnding k res) := Work.beginEnding (P := (· = k)) .rfl' rfl res
  have work : Work (· = k) True s ((s.beginEnding k res).endingTail k) := Work.endingTail (P := (· = k)) begun rfl
  obtain ⟨stations, drives, -⟩ := endingTail_actuators (s := s.beginEnding k res) (k := k)
  rw [cascade_ending_of_none none]
  refine ⟨stations.trans ?_, drives.trans ?_, fun j ne => (work.rounds j).1 ne⟩
  · rw [beginEnding_of_none none, stopped_eq]
    rfl
  · rw [beginEnding_of_none none, stopped_eq]
    rfl

end ends

end Sys2Proof.Machine

/-! ## The claim given up, and DONE (R52, R53, R107, R110, R140) -/

namespace Sys2Proof.Machine

open Sys2Proof

section claim

variable {s t w : State} {k j : Slot} {n : Nat} {r : Route} {st : SegmentState}

/-! ### Segments, owners and the header -/

theorem setSegStates_eq (l : List Nat) (st : SegmentState) (s : State) :
    s.setSegStates l st = { s with segments := (s.setSegStates l st).segments } := by
  unfold State.setSegStates
  induction l generalizing s with
  | nil => rfl
  | cons n l ih => exact ih (s.setSegState n st)

theorem clearOwners_eq (k : Slot) (s : State) : s.clearOwners k = { s with valves := (s.clearOwners k).valves } := rfl

theorem entry_clearOwners : Table.entry (s.clearOwners k).valves n
    = (Table.entry s.valves n).map fun v => if v.owner = some k then { v with owner := none } else v :=
  Table.entry_each (fun _ (v : ValveEntry) => if v.owner = some k then { v with owner := none } else v) s.valves n

theorem disowned_clearOwners : ∀ x ∈ (s.clearOwners k).valves, x.2.owner ≠ some k := by
  intro x mem
  obtain ⟨y, -, rfl⟩ := List.mem_map.1 (mem : x ∈ s.valves.map _)
  dsimp only
  split
  · exact nofun
  · assumption

theorem owner_commandValves (m : List (Nat × Position)) :
    (Table.entry (s.commandValves m).valves n).map (·.owner) = (Table.entry s.valves n).map (·.owner) := by
  unfold State.commandValves
  induction m generalizing s with
  | nil => rfl
  | cons x m ih =>
    rw [List.foldl_cons, ih, entry_commandValve, Option.map_map]
    refine Option.map_congr fun v _ => ?_
    simp only [Function.comp_apply]
    split
    · exact owner_command
    · rfl

theorem owner_switch (h : HeaderId) (x : Target) :
    (Table.entry (s.switch h x).valves n).map (·.owner) = (Table.entry s.valves n).map (·.owner) := by
  cases loaded : (s.header h).load with
  | none => rw [entry_switch_ne fun l other => by simp [loaded] at other]
  | some l => rw [valves_switch loaded, owner_commandValves]

theorem owner_settleOnDrain (h : HeaderId) :
    (Table.entry (s.settleOnDrain h).valves n).map (·.owner) = (Table.entry s.valves n).map (·.owner) := by
  unfold State.settleOnDrain
  dsimp only
  split
  · rfl
  · exact owner_switch h .drain

/-- The round's header, where it has one, is taken back to DRAIN (R140). -/
def State.headerReleased (k : Slot) (s : State) : State :=
  match (s.round k).header with
  | some h => s.releaseHeader h
  | none => s

theorem headerReleased_eq (k : Slot) (s : State) : s.headerReleased k
    = { s with valves := (s.headerReleased k).valves, headers := (s.headerReleased k).headers } := by
  unfold State.headerReleased
  split
  · exact settleOnDrain_eq _ s
  · rfl

theorem owner_headerReleased :
    (Table.entry (s.headerReleased k).valves n).map (·.owner) = (Table.entry s.valves n).map (·.owner) := by
  unfold State.headerReleased
  split
  · exact owner_settleOnDrain _
  · rfl

theorem giveUpClaim_routed (routed : s.routeOf k = some r) : s.giveUpClaim k st
    = (((s.headerReleased k).setSegStates r.segments st).clearOwners k).updRound k fun x => { x with header := none } := by
  have same : (s.headerReleased k).routeOf k = some r := by
    rw [headerReleased_eq]
    exact routed
  have unfolded : s.giveUpClaim k st = ((match (s.headerReleased k).routeOf k with
    | some r => (s.headerReleased k).setSegStates r.segments st
    | none => s.headerReleased k).clearOwners k).updRound k fun x => { x with header := none } := rfl
  rw [unfolded, same]

theorem giveUpClaim_eq (routed : s.routeOf k = some r) : s.giveUpClaim k st = { s with
    valves := (s.giveUpClaim k st).valves
    segments := (s.giveUpClaim k st).segments
    headers := (s.giveUpClaim k st).headers
    rounds := (s.giveUpClaim k st).rounds } := by
  rw [giveUpClaim_routed routed, clearOwners_eq, setSegStates_eq, headerReleased_eq]
  rfl

theorem round_giveUpClaim (routed : s.routeOf k = some r) :
    (s.giveUpClaim k st).round k = { s.round k with header := none } := by
  rw [giveUpClaim_routed routed, State.round_updRound, clearOwners_eq, setSegStates_eq, headerReleased_eq]
  rfl

theorem eventQueue_giveUpClaim (routed : s.routeOf k = some r) : (s.giveUpClaim k st).eventQueue = s.eventQueue := by
  rw [giveUpClaim_eq routed]
  rfl

/-- What the end of a claim does outside the round's own record (R52, R53, R140). -/
structure Releases (s u : State) (k : Slot) (r : Route) (st : SegmentState) : Prop where
  claimQueue : u.claimQueue = s.claimQueue
  stations : u.stations = s.stations
  drives : u.drives = s.drives
  others : ∀ j, j ≠ k → u.round j = s.round j
  segments : ∀ n, u.segState n
    = if n ∈ r.segments ∧ (Table.entry s.segments n).isSome = true then st else s.segState n
  disowned : ∀ x ∈ u.valves, x.2.owner ≠ some k
  owners : ∀ n v j, Table.entry s.valves n = some v → v.owner = some j → j ≠ k →
    (Table.entry u.valves n).bind (·.owner) = some j
  header : ∀ h, (s.round k).header = some h → (u.header h).current = .drain ∧ (u.header h).interface = .steady
    ∧ (u.header h).pending = none

theorem releases_giveUpClaim (routed : s.routeOf k = some r) : Releases s (s.giveUpClaim k st) k r st := by
  have shape := giveUpClaim_eq (st := st) routed
  refine ⟨by rw [shape], by rw [shape], by rw [shape], fun j ne => ?others, fun n => ?segments, ?disowned,
    fun n v j entry owner ne => ?owners, fun h named => ?header⟩
  all_goals rw [giveUpClaim_routed routed]
  case others =>
    rw [State.round_updRound_ne _ _ ne, clearOwners_eq, setSegStates_eq, headerReleased_eq]
    rfl
  case segments =>
    have kept : ∀ t : State, ((t.clearOwners k).updRound k fun x => { x with header := none }).segState n
      = t.segState n := fun _ => rfl
    rw [kept, segState_setSegStates, headerReleased_eq]
    simp only [Option.isSome_iff_ne_none]
    rfl
  case disowned => exact disowned_clearOwners
  case owners =>
    have before : (Table.entry (s.headerReleased k).valves n).map (·.owner) = some (some j) := by
      rw [owner_headerReleased, entry, ← owner]
      rfl
    obtain ⟨w, found, owned⟩ := Option.map_eq_some_iff.1 before
    rw [State.updRound_valves, entry_clearOwners, valves_setSegStates, found, Option.map_some, Option.bind_some, owned,
      if_neg (by simpa using ne)]
    exact owned
  case header =>
    have kept : ∀ t : State, (((t.setSegStates r.segments st).clearOwners k).updRound k
        fun x => { x with header := none }).header h = t.header h := fun t => by
      rw [setSegStates_eq]
      rfl
    rw [kept, State.headerReleased, named]
    exact header_settleOnDrain

/-- An edit of the round's own record, with records offered, adds nothing to that. -/
theorem Releases.recorded (gives : Releases s w k r st)
    (same : t = { w with rounds := t.rounds, events := t.events, overflow := t.overflow })
    (others : ∀ j, j ≠ k → t.round j = w.round j) : Releases s t k r st := by
  have segments : ∀ n, t.segState n = w.segState n := fun n => by rw [same]; rfl
  have headers : ∀ h, t.header h = w.header h := fun h => by rw [same]; rfl
  have valves : t.valves = w.valves := by rw [same]
  exact ⟨same ▸ gives.claimQueue, same ▸ gives.stations, same ▸ gives.drives,
    fun j ne => (others j ne).trans (gives.others j ne), fun n => segments n ▸ gives.segments n,
    valves ▸ gives.disowned, valves ▸ gives.owners, fun h => headers h ▸ gives.header h⟩

/-! ### DONE (R107) -/

theorem round_enterDone : (s.enterDone k).round k = { s.round k with
    state := .done, drainHold := (s.round k).drainHold.stop, drainMax := (s.round k).drainMax.stop
    holdLimit := (s.round k).holdLimit.stop, endTime := some s.partTime, causes := ⟨false, []⟩, resume := none } := by
  unfold State.enterDone
  rw [State.round_enter, State.round_updRound]
  rfl

theorem round_enterDone_ne (ne : j ≠ k) : (s.enterDone k).round j = s.round j := by
  unfold State.enterDone
  rw [State.round_enter_ne _ _ _ ne, State.round_updRound_ne _ _ ne]

theorem enterDone_eq (k : Slot) (s : State) : s.enterDone k = { s with
    rounds := (s.enterDone k).rounds, events := (s.enterDone k).events, overflow := (s.enterDone k).overflow } := by
  unfold State.enterDone
  rw [enter_eq, State.offer_eq]
  rfl

theorem eventQueue_enterDone : (s.enterDone k).eventQueue
    = (s.offer (roundStateEvent k .done (s.round k).result s.partTime)).eventQueue := by
  unfold State.enterDone
  rw [eventQueue_enter, if_pos rfl, State.round_updRound]
  exact eventQueue_offer_congr _ rfl

end claim

/-! ### RELEASE after SEGREGATION_BREACH -/

section breach

variable {s : State} {k : Slot} {r : Route}

theorem releases_releaseBreach (routed : s.routeOf k = some r) :
    Releases s (s.releaseBreach k) k r (.suspect .breach) := by
  refine (releases_giveUpClaim routed).recorded ?_ fun j ne => ?_
  · unfold State.releaseBreach
    rw [enterDone_eq]
    rfl
  · unfold State.releaseBreach
    rw [round_enterDone_ne ne, State.round_updRound_ne _ _ ne]

theorem round_releaseBreach (routed : s.routeOf k = some r) : (s.releaseBreach k).round k = { s.round k with
    state := .done, drainHold := (s.round k).drainHold.stop, drainMax := (s.round k).drainMax.stop
    holdLimit := (s.round k).holdLimit.stop, endTime := some s.partTime, causes := ⟨false, []⟩, resume := none
    result := some .faultReleased, header := none } := by
  have time : (s.giveUpClaim k (.suspect .breach)).partTime = s.partTime := by rw [giveUpClaim_eq routed]
  unfold State.releaseBreach
  rw [round_enterDone, State.round_updRound, round_giveUpClaim routed, State.updRound_partTime, time]

theorem events_releaseBreach (routed : s.routeOf k = some r) : (s.releaseBreach k).events
    = (s.offer (roundStateEvent k .done (some .faultReleased) s.partTime)).events := by
  have time : (s.giveUpClaim k (.suspect .breach)).partTime = s.partTime := by rw [giveUpClaim_eq routed]
  refine events_of_eventQueue ?_
  unfold State.releaseBreach
  rw [eventQueue_enterDone, State.round_updRound, State.updRound_partTime, time]
  exact eventQueue_offer_congr _ (eventQueue_giveUpClaim routed)

end breach

section release

theorem linkSilent_of_arbiterFrame {s t : State} (frame : arbiterFrame s t) : t.linkSilent = s.linkSilent := by
  rw [frame.1.1]

theorem linkSilent_of_sequencerFrame {s t : State} (frame : sequencerFrame s t) : t.linkSilent = s.linkSilent := by
  rw [frame.1]

variable {s : State} {k : Slot} {f : FaultRecord}

theorem releaseRound_breach (faulted : (s.round k).state = .faulted) (fault : (s.round k).fault = some f)
    (breach : f.cause = .segregationBreach) : releaseRound k s = some (s.releaseBreach k) := by
  unfold releaseRound
  rw [faulted, fault]
  exact if_pos (congrArg some breach)

theorem releaseRound_other (faulted : (s.round k).state = .faulted) (fault : (s.round k).fault = some f)
    (other : f.cause ≠ .segregationBreach) : releaseRound k s
      = some ((s.updRound k fun r => { r with result := some .faultReleased }).cascade [.ending k .faultReleased]) := by
  unfold releaseRound
  rw [faulted, fault]
  exact if_neg fun same => other (Option.some.inj same)

end release

/-- Settles O33: after SEGREGATION_BREACH the claim is given up and the round is DONE; after any other cause ENDING is
entered by a round that holds no station. -/
theorem release : Obligations.Release := by
  intro a slot k s f listens named faulted fault
  by_cases breach : f.cause = .segregationBreach
  · have arrives := requestArrives_control (a := a) listens named
      (releaseRound_breach (s := s.opened) faulted fault breach)
      (linkSilent_of_arbiterFrame (s := s.opened) (Claimed.releaseBreach _ k).frame)
    refine ⟨s.opened.releaseBreach k, congrArg Host.Outcome.next arrives, fun r _ routed => ?_, absurd breach⟩
    have gives : Releases s.opened _ k r _ := releases_releaseBreach routed
    have record := round_releaseBreach (s := s.opened) routed
    refine ⟨(Claimed.releaseBreach _ k).frame, gives.claimQueue, gives.stations, gives.drives, gives.others,
      gives.segments, gives.disowned, gives.owners, gives.header, ?_⟩
    rw [record]
    exact ⟨rfl, rfl, rfl, fault, rfl, (events_releaseBreach (s := s.opened) routed).trans
      (events_of_eventQueue (eventQueue_offer_congr (s := s) _ rfl))⟩
  · let r := s.opened.updRound k fun r => { r with result := some .faultReleased }
    have resulted : Work (· = k) True s.opened r := .upd .rfl' rfl fun _ => by
      exact ⟨rfl, rfl, rfl, rfl, rfl, fun _ => rfl⟩
    have record : r.round k = { s.round k with result := some .faultReleased } := State.round_updRound ..
    have framed : sequencerFrame s.opened (r.cascade [.ending k .faultReleased]) :=
      sequencerFrame_trans resulted.frame (Work.anyCascade .rfl' _).frame
    have arrives := requestArrives_control (a := a) listens named
      (releaseRound_other (s := s.opened) faulted fault breach) (linkSilent_of_sequencerFrame (s := s.opened) framed)
    refine ⟨_, congrArg Host.Outcome.next arrives, fun _ same => absurd same breach, fun _ none => ?_⟩
    have held : (r.round k).held = .none := by rw [record]; exact none
    have ends : Ends r _ k .faultReleased := ends_of_none held
    obtain ⟨stations, drives, others⟩ := ending_of_none_leaves (res := .faultReleased) held
    have notHolding : (r.round k).state ≠ .holding := by
      rw [record]
      exact fun holding => nomatch faulted.symm.trans holding
    refine ⟨framed, stations, drives, fun j ne => (others j ne).trans ((resulted.rounds j).1 ne), ?_, ?_, fun x => ?_,
      ends.clear notHolding, fun some => ?_⟩
    · rw [ends.result, record]
      rfl
    · rw [ends.fault, record]
      exact fault
    · rw [ends.causes, endingNodes_of_work resulted, record]
      rfl
    · obtain ⟨state, resume, hold, -⟩ := ends.caused (.inr some)
      exact ⟨state, resume, hold⟩

end Sys2Proof.Machine

/-! ## The walk, and ABORT (R48, R105) -/

namespace Sys2Proof.Machine

open Sys2Proof

/-! ### What a walk keeps -/

section walk

variable {s t u : State} {k : Slot} {r : Route}

/-- The route claim queue gains no round, and every round keeps its class, recipe, route and start time. -/
structure Waits (s t : State) : Prop where
  queue : ∀ j, j ∈ t.claimQueue → j ∈ s.claimQueue
  given : ∀ j, (t.round j).given = (s.round j).given
  recipe : ∀ j, (t.round j).recipe = (s.round j).recipe
  route : ∀ j, (t.round j).route = (s.round j).route
  startTime : ∀ j, (t.round j).startTime = (s.round j).startTime

theorem Waits.refl (s : State) : Waits s s := ⟨fun _ => id, fun _ => rfl, fun _ => rfl, fun _ => rfl, fun _ => rfl⟩

theorem Waits.trans (first : Waits s t) (second : Waits t u) : Waits s u :=
  ⟨fun j mem => first.queue j (second.queue j mem), fun j => (second.given j).trans (first.given j),
    fun j => (second.recipe j).trans (first.recipe j), fun j => (second.route j).trans (first.route j),
    fun j => (second.startTime j).trans (first.startTime j)⟩

theorem Waits.ofWork {P : Slot → Prop} {Q : Prop} (work : Work P Q s t) : Waits s t := by
  have queue : t.claimQueue = s.claimQueue := by rw [work.frame.1]
  refine ⟨fun j mem => queue ▸ mem, fun j => ?_, fun j => ?_, fun j => ?_, fun j => ?_⟩ <;>
    obtain ⟨-, given, recipe, route, startTime, -⟩ := work.rounds j <;> assumption

theorem ownValves_eq (o : Option Slot) (l : List Nat) (s : State) : l.foldl (fun s n => s.ownValve o n) s
    = { s with valves := (l.foldl (fun s n => s.ownValve o n) s).valves } := by
  induction l generalizing s with
  | nil => rfl
  | cons n l ih => exact ih (s.ownValve o n)

theorem takeClaim_eq (k : Slot) (r : Route) (s : State) : s.takeClaim k r = { s with
    valves := (s.takeClaim k r).valves
    segments := (s.takeClaim k r).segments
    claimQueue := s.claimQueue.filter (· != k)
    rounds := (s.takeClaim k r).rounds } := by
  unfold State.takeClaim
  dsimp only
  rw [ownValves_eq, setSegStates_eq]
  rfl

theorem round_takeClaim : (s.takeClaim k r).round k = { s.round k with header := s.routeHeader r } := by
  unfold State.takeClaim
  dsimp only
  rw [State.round_updRound, ownValves_eq, setSegStates_eq]
  rfl

theorem round_takeClaim_ne {j : Slot} (ne : j ≠ k) : (s.takeClaim k r).round j = s.round j := by
  unfold State.takeClaim
  dsimp only
  rw [State.round_updRound_ne _ _ ne, ownValves_eq, setSegStates_eq]
  rfl

theorem waits_takeClaim : Waits s (s.takeClaim k r) := by
  have same : ∀ {β : Type} {f : Round → β} (j : Slot), (∀ h, f { s.round k with header := h } = f (s.round k)) →
      f ((s.takeClaim k r).round j) = f (s.round j) := fun {β f} j kept => by
    by_cases own : j = k
    · rw [own, round_takeClaim, kept]
    · rw [round_takeClaim_ne own]
  refine ⟨fun j mem => ?_, fun j => same j fun _ => rfl, fun j => same j fun _ => rfl, fun j => same j fun _ => rfl,
    fun j => same j fun _ => rfl⟩
  rw [takeClaim_eq] at mem
  exact List.mem_of_mem_filter mem

/-- After the claim is taken, a grant is work of the sequencer and the header controller. -/
theorem grantClaim_work (routed : s.routeOf k = some r) :
    Work (fun _ => True) False (s.takeClaim k r) (s.grantClaim k) := by
  have commanded : Work (fun _ => True) False (s.takeClaim k r) ((s.takeClaim k r).commandValves r.positions) :=
    Work.commandValves .rfl' _
  unfold State.grantClaim
  rw [routed]
  dsimp only
  split
  next => exact Work.anyCascade (commanded.enter trivial _) _
  next =>
    have prepared := fun h nodes => ((commanded.switch h .drain).noteSilent (k := k) trivial nodes).upd (k := k)
      (f := fun x => { x with travel := Timer.start (tenths r.travel) }) trivial
      fun _ => by exact ⟨rfl, rfl, rfl, rfl, rfl, fun _ => rfl⟩
    split
    · exact (prepared _ _).enter trivial _
    · exact (prepared _ _).enterHolding trivial _

theorem waits_grantClaim : Waits s (s.grantClaim k) := by
  cases routed : s.routeOf k with
  | none =>
    unfold State.grantClaim
    rw [routed]
    exact .refl s
  | some r => exact waits_takeClaim.trans (.ofWork (grantClaim_work routed))

theorem waits_walkFrom (waiting : List Slot) : ∀ (older : List Slot) (s : State),
    Waits s (State.walkFrom waiting older s) := by
  induction waiting with
  | nil => exact fun _ s => .refl s
  | cons k waiting ih =>
    intro older s
    unfold State.walkFrom
    split
    · exact waits_grantClaim.trans (ih _ _)
    · exact ih _ _

theorem waits_walk : Waits s s.walk := waits_walkFrom ..

theorem walk_of_nil (empty : s.claimQueue = []) : s.walk = s := by rw [State.walk, empty, State.walkFrom]

end walk

/-! ### ABORT in WAIT_ROUTE -/

section abandon

variable {s : State} {k j : Slot}

/-- The queue without a round that leaves it, walked (R105). -/
def State.withdrawn (k : Slot) (s : State) : State := State.walk { s with claimQueue := s.claimQueue.filter (· != k) }

theorem abandonWait_eq : s.abandonWait k
    = ((s.withdrawn k).updRound k fun r => { r with result := some .aborted }).enterDone k := rfl

theorem round_abandonWait : (s.abandonWait k).round k = { (s.withdrawn k).round k with
    state := .done, drainHold := ((s.withdrawn k).round k).drainHold.stop
    drainMax := ((s.withdrawn k).round k).drainMax.stop, holdLimit := ((s.withdrawn k).round k).holdLimit.stop
    endTime := some s.partTime, causes := ⟨false, []⟩, resume := none, result := some .aborted } := by
  have time : (s.withdrawn k).partTime = s.partTime := by
    unfold State.withdrawn
    rw [(Claimed.walk _).frame.1.1]
  rw [abandonWait_eq, round_enterDone, State.round_updRound, State.updRound_partTime, time]

theorem not_mem_abandonWait : k ∉ (s.abandonWait k).claimQueue := by
  rw [abandonWait_eq, enterDone_eq, State.updRound_claimQueue]
  exact fun mem => by simpa using waits_walk.queue k mem

theorem withdrawn_alone (alone : s.claimQueue = [k]) : s.withdrawn k = { s with claimQueue := [] } := by
  unfold State.withdrawn
  rw [alone, walk_of_nil (by simp)]
  simp

theorem abandonWait_alone (alone : s.claimQueue = [k]) :
    s.abandonWait k = { s with
      rounds := (s.abandonWait k).rounds, claimQueue := []
      events := (s.abandonWait k).events, overflow := (s.abandonWait k).overflow }
    ∧ (∀ j, j ≠ k → (s.abandonWait k).round j = s.round j)
    ∧ (s.abandonWait k).events = (s.offer (roundStateEvent k .done (some .aborted) s.partTime)).events := by
  rw [abandonWait_eq, withdrawn_alone alone]
  refine ⟨?_, fun j ne => ?_, events_of_eventQueue ?_⟩
  · rw [enterDone_eq]
    rfl
  · rw [round_enterDone_ne ne, State.round_updRound_ne _ _ ne]
    rfl
  · rw [eventQueue_enterDone, State.round_updRound]
    exact eventQueue_offer_congr _ rfl

end abandon

/-! ### The actuators that ENDING releases (R106, part 2) -/

section released

variable {s : State} {k : Slot} {res : RoundResult} {st : StationId} {l : StationLoad} {n : Nat}

/-- The station a round gives up at the entry into ENDING, with its actuators as they stand then. -/
theorem actuators_beginEnding (held : (s.round k).held = some st) :
    (s.beginEnding k res).drives = ((s.stopped k res).giveUpActuators k st).drives
    ∧ (s.beginEnding k res).valves = ((s.stopped k res).giveUpActuators k st).valves := by
  rw [beginEnding_eq, freeStation_of_held (held_stopped.trans held)]
  exact ⟨rfl, rfl⟩

theorem station_stopped : (s.stopped k res).station st = s.station st := by
  rw [stopped_eq]
  rfl

/-- With no round waiting for the station, the entry into ENDING is its two halves. -/
theorem cascade_ending_unwaited (held : (s.round k).held = some st) (empty : (s.station st).queue = []) :
    s.cascade [.ending k res] = (s.beginEnding k res).endingTail k := by
  rw [cascade_ending, examined_quiet]
  intro st' same
  obtain rfl : st = st' := Option.some.inj (held.symm.trans same)
  rw [queue_beginEnding, empty]

theorem drive_released (held : (s.round k).held = some st) (load : (s.station st).load = some l)
    (empty : (s.station st).queue = []) {d : DriveEntry} (own : n = l.pump ∨ l.heater = some n)
    (entry : Table.entry s.drives n = some d) (owner : d.owner = some k) :
    Table.entry (s.cascade [.ending k res]).drives n = some { d with owner := none, commanded := some 0 } := by
  have supplied : n ∈ (s.stopped k res).supplyDrives st := by
    rw [State.supplyDrives, station_stopped, load]
    obtain pump | heater := own
    · exact pump ▸ List.mem_cons_self
    · exact List.mem_cons_of_mem _ (Option.mem_toList.2 heater)
  obtain ⟨-, drives, -⟩ := endingTail_actuators (s := s.beginEnding k res) (k := k)
  have same : (s.stopped k res).drives = s.drives := by rw [stopped_eq]
  rw [cascade_ending_unwaited held empty, drives, (actuators_beginEnding held).1, entry_drive_giveUpActuators,
    same, entry, Option.map_some, if_pos supplied, drive_giveUp_of_owned owner]

/-- The owner and the commanded position of a valve entry. -/
def ValveEntry.hold (v : ValveEntry) : Option Slot × Option Position := (v.owner, v.commanded)

theorem valve_released (held : (s.round k).held = some st) (load : (s.station st).load = some l)
    (empty : (s.station st).queue = []) {v : ValveEntry} (medium : n ∈ l.mediumValves)
    (entry : Table.entry s.valves n = some v) (owner : v.owner = some k)
    (other : ∀ h x, (s.round k).header = some h → (s.header h).load = some x → n ∉ x.diverters) :
    (Table.entry (s.cascade [.ending k res]).valves n).map ValveEntry.hold = some (none, some .close) := by
  have supplied : n ∈ (s.stopped k res).supplyValves k st := by
    rw [State.supplyValves, station_stopped, load]
    exact List.mem_append_left _ medium
  have begun : Work (fun _ => True) True s (s.beginEnding k res) := Work.beginEnding .rfl' trivial res
  obtain ⟨w, stopped, owned⟩ : ∃ w, Table.entry (s.stopped k res).valves n = some w ∧ w.owner = some k := by
    rw [State.stopped, State.updRound_valves, entry_closeLift, entry, Option.map_some]
    refine ⟨_, rfl, ?_⟩
    split
    · exact owner_command.trans owner
    · exact owner
  have released : Table.entry (s.beginEnding k res).valves n
      = some { w.command (s.stopped k res).partTime .close with owner := none } := by
    rw [(actuators_beginEnding held).2, entry_valve_giveUpActuators, stopped, Option.map_some, if_pos supplied,
      giveUp_of_owned owned]
  have asked : Table.entry ((s.beginEnding k res).asked k).valves n = Table.entry (s.beginEnding k res).valves n := by
    refine entry_asked_ne fun h x named loaded => other h x ?_ ?_
    · rw [← named, round_beginEnding]
      rfl
    · rw [← loaded]
      exact (begun.frame.2.2.2.2 h).symm
  obtain ⟨-, -, valves⟩ := endingTail_actuators (s := s.beginEnding k res) (k := k)
  rw [cascade_ending_unwaited held empty]
  obtain same | closed := valves n
  · rw [same, asked, released]
    exact congrArg (fun x => some (none, x)) commanded_command
  · rw [closed, asked, released]
    refine congrArg some (Prod.ext ?_ commanded_command)
    exact owner_command

end released

/-! ### ABORT in the states that end the round -/

section abort

variable {s : State} {k : Slot}

/-- The state in which ABORT enters ENDING: a waiting round has left its station's queue. -/
def State.aborting (k : Slot) (s : State) : State :=
  if (s.round k).state = .waitStation then s.leaveQueues k else s

theorem abortRound_ends (ends : (s.round k).state = .setting ∨ (s.round k).state = .waitStation
    ∨ (s.round k).state = .stepFill ∨ (s.round k).state = .stepTiming ∨ (s.round k).state = .paused
    ∨ (s.round k).state = .holding ∧ (s.round k).resume ≠ some .ending) :
    abortRound k s = some ((s.aborting k).cascade [.ending k .aborted]) := by
  unfold abortRound State.aborting
  obtain state | state | state | state | state | ⟨state, resume⟩ := ends
  case inr.inr.inr.inr.inr => simp [state, resume]
  all_goals simp [state]

theorem abortRound_waitRoute (waits : (s.round k).state = .waitRoute) : abortRound k s = some (s.abandonWait k) := by
  unfold abortRound
  rw [waits]

theorem abortRound_ending (ending : (s.round k).state = .ending
    ∨ (s.round k).state = .holding ∧ (s.round k).resume = some .ending) : abortRound k s = some s := by
  unfold abortRound
  obtain state | ⟨state, resume⟩ := ending
  · rw [state]
  · rw [state]
    exact if_pos resume

theorem aborting_eq (k : Slot) (s : State) : s.aborting k
    = { s with stations := (s.aborting k).stations, rounds := (s.aborting k).rounds } := by
  unfold State.aborting
  split <;> rfl

theorem aborting_work : Work (fun _ => True) False s (s.aborting k) := by
  unfold State.aborting
  split
  · exact Work.leaveQueues .rfl' trivial
  · exact .rfl'

theorem round_aborting : ∃ ageing time effective, (s.aborting k).round k = { s.round k with
    ageing := ageing, requestTime := time, effective := effective }
    ∧ ((s.round k).state = .waitStation → effective = (s.round k).given) := by
  unfold State.aborting
  split
  next waits => exact ⟨_, _, _, round_leaveQueues, fun _ => rfl⟩
  next other => exact ⟨_, _, _, rfl, fun waits => absurd waits other⟩

theorem absent_aborting {st : StationId} (queued : k ∈ (s.station st).queue → (s.round k).state = .waitStation) :
    k ∉ ((s.aborting k).station st).queue := by
  unfold State.aborting
  split
  next => exact not_mem_leaveQueues
  next other => exact fun mem => other (queued mem)

theorem empty_aborting {st : StationId} (empty : (s.station st).queue = []) :
    ((s.aborting k).station st).queue = [] := by
  unfold State.aborting
  split
  · rw [station_leaveQueues, empty]
    rfl
  · exact empty

end abort

/-- Settles O32: ENDING takes no second end, WAIT_ROUTE leaves the queue, and every other state that takes ABORT enters
ENDING. -/
theorem abort : Obligations.Abort := by
  intro a slot k s listens named
  dsimp only
  refine ⟨fun ending => ?inert, fun waits => ?waits, fun ends queued => ?ends⟩
  case inert =>
    exact congrArg Host.Outcome.next (requestArrives_control listens named
      (abortRound_ending (s := s.opened) ending) rfl)
  case waits =>
    have arrives := requestArrives_control (a := a) listens named (abortRound_waitRoute (s := s.opened) waits)
      (linkSilent_of_arbiterFrame (s := s.opened) (Claimed.abandonWait _ k).frame)
    refine ⟨_, congrArg Host.Outcome.next arrives, not_mem_abandonWait, ?_⟩
    have events := events_of_eventQueue (eventQueue_offer_congr (s := s) (t := s.opened)
      (roundStateEvent k .done (some .aborted) s.partTime) rfl)
    rw [round_abandonWait]
    refine ⟨rfl, rfl, rfl, rfl, rfl, fun alone => ?_⟩
    obtain ⟨shape, others, offered⟩ := abandonWait_alone (s := s.opened) (k := k) alone
    exact ⟨shape, others, offered.trans events⟩
  case ends =>
    obtain ⟨b, aborting⟩ : ∃ b, b = s.opened.aborting k := ⟨_, rfl⟩
    obtain ⟨ageing, time, effective, record, given⟩ := round_aborting (s := s.opened) (k := k)
    rw [← aborting] at record
    have state : (b.round k).state = (s.round k).state := by rw [record]; rfl
    have held : (b.round k).held = (s.round k).held := by rw [record]; rfl
    have work : Work (fun _ => True) False s.opened b := aborting ▸ aborting_work
    have absent : ∀ st, k ∉ (b.station st).queue := fun st => aborting ▸ absent_aborting (queued st)
    have ending : Ends b _ k .aborted := ends_of_absent absent
    have framed : sequencerFrame s.opened (b.cascade [.ending k .aborted]) :=
      sequencerFrame_trans work.frame ending.frame
    have config : b.config = s.config := by rw [aborting, aborting_eq]; rfl
    have outcome : abortRound k s.opened = some (b.cascade [.ending k .aborted]) :=
      aborting ▸ abortRound_ends (s := s.opened) ends
    have arrives := requestArrives_control (a := a) listens named outcome
      (linkSilent_of_sequencerFrame (s := s.opened) framed)
    obtain ⟨gone, unlinked, criteria⟩ := ending.given_up
    obtain ⟨travel, fill, wall, liftTimer⟩ := ending.timers
    have clear := ending.clear
    have caused := ending.caused
    rw [state, config] at clear caused
    refine ⟨_, congrArg Host.Outcome.next arrives, framed, ?_, gone, unlinked, criteria, travel, fill, wall, liftTimer,
      fun waits => ?_, fun st mem => absent st (ending.queues st mem),
      fun st own => ending.station st (held.trans own), clear, caused, fun st l own load empty => ?_⟩
    · rw [ending.result, record]
      rfl
    · rw [ending.effective, record]
      exact given waits
    · have loaded : (b.station st).load = some l := (work.frame.2.2.2.1 st).trans load
      have unwaited : (b.station st).queue = [] := aborting ▸ empty_aborting empty
      have drives : b.drives = s.drives := by rw [aborting, aborting_eq]; rfl
      have valves : b.valves = s.valves := by rw [aborting, aborting_eq]; rfl
      refine ⟨fun n d mine entry owner => drive_released (held.trans own) loaded unwaited mine (drives ▸ entry) owner,
        fun n v medium entry owner other => valve_released (held.trans own) loaded unwaited medium (valves ▸ entry) owner
          fun h x named loaded => other h x ?_ ?_⟩
      · rw [← named, record]
        rfl
      · rw [← loaded]
        exact (work.frame.2.2.2.2 h).symm

end Sys2Proof.Machine

/-! ## The grant of a route claim (R50, R87) -/

namespace Sys2Proof.Machine

open Sys2Proof

/-! ### The arbiter's part -/

section taken

variable {s t : State} {k j : Slot} {r : Route} {h : HeaderId} {l : HeaderLoad} {n : Nat} {v : ValveEntry}

theorem segState_takeClaim : (s.takeClaim k r).segState n
    = if n ∈ r.segments ∧ Table.entry s.segments n ≠ none then .claimed k else s.segState n := by
  unfold State.takeClaim
  dsimp only
  rw [ownValves_eq]
  exact segState_setSegStates (s := { s with claimQueue := s.claimQueue.filter (· != k) })

theorem entry_takeClaim : Table.entry (s.takeClaim k r).valves n
    = (Table.entry s.valves n).map fun v => if n ∈ s.claimValves r then { v with owner := some k } else v := by
  have owned := entry_foldl_updValve (l := s.claimValves r) (m := n) (f := fun _ v => { v with owner := some k })
    (s := State.setSegStates r.segments (.claimed k) { s with claimQueue := s.claimQueue.filter (· != k) })
    fun _ _ => rfl
  rw [valves_setSegStates] at owned
  exact owned

theorem claimQueue_takeClaim : (s.takeClaim k r).claimQueue = s.claimQueue.filter (· != k) := by rw [takeClaim_eq]

/-- The claim taken, with the setting positions commanded (R87). -/
def State.claimTaken (k : Slot) (r : Route) (s : State) : State := (s.takeClaim k r).commandValves r.positions

theorem claimTaken_eq (k : Slot) (r : Route) (s : State) : s.claimTaken k r
    = { s.takeClaim k r with valves := (s.claimTaken k r).valves } := commandValves_eq ..

theorem round_claimTaken : (s.claimTaken k r).round k = { s.round k with header := s.routeHeader r } := by
  rw [claimTaken_eq]
  exact round_takeClaim

theorem segState_claimTaken : (s.claimTaken k r).segState n
    = if n ∈ r.segments ∧ Table.entry s.segments n ≠ none then .claimed k else s.segState n := by
  rw [claimTaken_eq]
  exact segState_takeClaim

theorem claimQueue_claimTaken : (s.claimTaken k r).claimQueue = s.claimQueue.filter (· != k) := by
  rw [claimTaken_eq]
  exact claimQueue_takeClaim

theorem eventQueue_claimTaken : (s.claimTaken k r).eventQueue = s.eventQueue := by
  rw [claimTaken_eq, takeClaim_eq]
  rfl

theorem claimed_claimTaken : Claimed s (s.claimTaken k r) :=
  (Claimed.takeClaim s k r).trans (.ofWork (Work.commandValves (P := fun _ => True) (Q := True) .rfl' _))

/-! ### A route with no header (R87, R109) -/

theorem grantClaim_headerless (routed : s.routeOf k = some r) (none : s.routeHeader r = none) : s.grantClaim k
    = ((s.claimTaken k r).enter k .setting).cascade [.fault k .headerLost (r.lastSegment.map .segment)] := by
  have header : (((s.takeClaim k r).commandValves r.positions).round k).header = .none :=
    (congrArg Round.header round_claimTaken).trans none
  unfold State.grantClaim
  rw [routed]
  dsimp only
  rw [header]
  rfl

/-- HEADER_LOST at the entry into SETTING. -/
theorem headerLost (routed : s.routeOf k = some r) (none : s.routeHeader r = none) :
    ((s.grantClaim k).round k).faultedWith
      ⟨.headerLost, r.lastSegment.map .segment, (s.round k).step, s.partTime⟩
    ∧ k ∉ (s.grantClaim k).claimQueue
    ∧ (∀ n ∈ r.segments, Table.entry s.segments n ≠ .none → (s.grantClaim k).segState n = .claimed k)
    ∧ ((s.round k).held = .none → (s.grantClaim k).events
      = (((s.offer (roundStateEvent k .setting .none s.partTime)).offer
          (faultEvent k .headerLost (r.lastSegment.map .segment) (s.round k).step s.partTime)).offer
          (roundStateEvent k .faulted .none s.partTime)).events) := by
  rw [grantClaim_headerless routed none]
  have record : (((s.claimTaken k r).enter k .setting).round k)
      = { s.round k with header := s.routeHeader r, state := .setting } := by
    rw [State.round_enter, round_claimTaken]
  have queue : ((s.claimTaken k r).enter k .setting).eventQueue
      = (s.offer (roundStateEvent k .setting .none s.partTime)).eventQueue :=
    eventQueue_enter_of k eventQueue_claimTaken (by decide)
  obtain ⟨e, entered⟩ : ∃ e, e = (s.claimTaken k r).enter k .setting := ⟨_, rfl⟩
  rw [← entered] at record queue ⊢
  have step : (e.round k).step = (s.round k).step := by rw [record]
  have time : e.partTime = s.partTime := (partTime_of_eventQueue queue).trans (by simp)
  obtain ⟨w, faults⟩ := faults_of_takes (s := e) (k := k) (cause := .headerLost)
    (subject := r.lastSegment.map .segment) (by rw [record]; rfl)
  refine ⟨step ▸ time ▸ faults.record, ?_, fun n mem full => ?_, fun unheld => ?_⟩
  · rw [faults.frame.1, entered, State.enter_claimQueue, claimQueue_claimTaken]
    simp
  · rw [faults.frame.1, entered]
    show ((s.claimTaken k r).enter k .setting).segState n = _
    rw [State.segState, State.enter_segments, ← State.segState, segState_claimTaken, if_pos ⟨mem, full⟩]
  · have none : (e.round k).held = .none := by
      rw [record]
      exact unheld
    have released := (faults.quiet fun st held => nomatch none.symm.trans held).1.trans queue
    have events := faults.events
    rw [step, time] at events
    exact events_of_eventQueue (events.trans
      (eventQueue_offer_congr _ (eventQueue_offer_congr _ released)))

/-! ### A route with a header (R87) -/

/-- The header on DRAIN under a claim taken (R87). -/
def State.claimSwitched (k : Slot) (r : Route) (h : HeaderId) (s : State) : State := (s.claimTaken k r).switch h .drain

/-- The causes noted and the travel timer started, before the state is entered (R87). -/
def State.claimPrepared (k : Slot) (r : Route) (h : HeaderId) (s : State) : State :=
  ((s.claimSwitched k r h).noteSilent k ((s.claimSwitched k r h).endingNodes k)).updRound k
    fun x => { x with travel := Timer.start (tenths r.travel) }

theorem grantClaim_headed (routed : s.routeOf k = some r) (named : s.routeHeader r = some h) : s.grantClaim k
    = if ((s.claimPrepared k r h).round k).causes.isEmpty then (s.claimPrepared k r h).enter k .setting
      else (s.claimPrepared k r h).enterHolding k .setting := by
  have header : (((s.takeClaim k r).commandValves r.positions).round k).header = some h :=
    (congrArg Round.header round_claimTaken).trans named
  unfold State.grantClaim
  rw [routed]
  dsimp only
  rw [header]
  rfl

theorem round_claimSwitched : (s.claimSwitched k r h).round j = (s.claimTaken k r).round j := by
  rw [State.claimSwitched, switch_eq]
  rfl

theorem claimed_claimSwitched : Claimed s (s.claimSwitched k r h) :=
  claimed_claimTaken.trans (.ofWork (Work.switch (P := fun _ => True) (Q := True) .rfl' h .drain))

theorem claimPrepared_eq (k : Slot) (r : Route) (h : HeaderId) (s : State) : s.claimPrepared k r h
    = { s.claimSwitched k r h with rounds := (s.claimPrepared k r h).rounds } := rfl

theorem claimSwitched_eq (k : Slot) (r : Route) (h : HeaderId) (s : State) : s.claimSwitched k r h
    = { s.claimTaken k r with
      valves := (s.claimSwitched k r h).valves, headers := (s.claimSwitched k r h).headers } := switch_eq ..

theorem round_claimPrepared : (s.claimPrepared k r h).round k = { s.round k with
    header := s.routeHeader r
    travel := ⟨.running, 0, 100 * r.travel⟩
    causes := (s.claimSwitched k r h).causesWith k ((s.claimSwitched k r h).endingNodes k) } := by
  rw [State.claimPrepared, State.round_updRound, round_noteSilent, round_claimSwitched, round_claimTaken, tenths,
    Nat.mul_comm]
  rfl

theorem round_claimPrepared_ne (ne : j ≠ k) : (s.claimPrepared k r h).round j = s.round j := by
  rw [State.claimPrepared, State.round_updRound_ne _ _ ne, noteSilent_eq, State.round_updRound_ne _ _ ne,
    round_claimSwitched, claimTaken_eq]
  exact round_takeClaim_ne ne

/-- The nodes of the SETTING dependencies (R86) under a claim taken. -/
theorem mem_causes_claimPrepared (named : s.routeHeader r = some h)
    (load : (s.header h).load = some l) {x : Octet} : x ∈ ((s.claimPrepared k r h).round k).causes.nodes
      ↔ x ∈ (s.round k).causes.nodes ∨ (x ∈ s.routeNodes k
        ∨ x ∈ l.diverters.filterMap s.valveNode ∨ s.pointNode l.flow = some x) ∧ s.nodeSilent x = true := by
  obtain ⟨b, switched⟩ : ∃ b, b = s.claimSwitched k r h := ⟨_, rfl⟩
  have record : b.round k = { s.round k with header := some h } := by
    rw [switched, round_claimSwitched, round_claimTaken, named]
  have frame : arbiterFrame s b := switched ▸ claimed_claimSwitched.frame
  have valveNode : b.valveNode = s.valveNode := (valveNode_of_frame frame.1).trans rfl
  have pointNode : b.pointNode = s.pointNode := (pointNode_of_frame frame.1).trans rfl
  have silent : b.nodeSilent = s.nodeSilent := (nodeSilent_of_frame frame.1).trans rfl
  have route : b.routeOf k = s.routeOf k := routeOf_congr (by rw [frame.1.1]) (by rw [record])
  have routeNodes : b.routeNodes k = s.routeNodes k := by
    rw [State.routeNodes, route, valveNode, ← State.routeNodes]
  have loaded : b.headerLoadOf k = some l := by
    rw [State.headerLoadOf, record]
    exact (frame.1.2.2.2.2 h).trans load
  rw [round_claimPrepared, ← switched]
  rw [mem_causesWith, State.endingNodes, List.mem_append, routeNodes, State.headerNodes, loaded, List.mem_append,
    Option.mem_toList, record, valveNode, pointNode, silent]

/-! ### The valves of a claim taken (R50, R87, R130) -/

theorem positions_agree (apart : (r.setting.map (·.valve)).Nodup) {i : SettingItem} (mem : i ∈ r.setting) :
    ∀ y ∈ r.positions, y.1 = i.valve → y.2 = if i.opened then .open else .close := by
  intro y listed same
  obtain ⟨i', mem', rfl⟩ := List.mem_map.1 listed
  rw [List.inj_on_of_nodup_map apart mem' mem same]

theorem diverters_agree {y : Nat × Position} (listed : y ∈ l.positions .drain) :
    y.2 = if y.1 = l.drain then .open else .close := by
  obtain ⟨n, -, rfl⟩ := List.mem_map.1 listed
  exact if_congr (Option.some_inj.trans eq_comm) rfl rfl

theorem mem_positions_drain (mem : n ∈ l.diverters) :
    (n, if n = l.drain then Position.open else .close) ∈ l.positions .drain := by
  exact List.mem_map.2 ⟨n, mem, Prod.ext rfl (if_congr (Option.some_inj.trans eq_comm) rfl rfl)⟩

theorem header_claimTaken : (s.claimTaken k r).header h = s.header h := by
  rw [claimTaken_eq, takeClaim_eq]
  rfl

theorem valves_claimSwitched (load : (s.header h).load = some l) :
    (s.claimSwitched k r h).valves = ((s.claimTaken k r).commandValves (l.positions .drain)).valves := by
  rw [State.claimSwitched, valves_switch (header_claimTaken ▸ load)]

theorem claimValves_of_header (named : s.routeHeader r = some h) (load : (s.header h).load = some l) :
    s.claimValves r = r.setting.map (·.valve) ++ l.diverters := by
  rw [State.claimValves, State.routeDiverters, named]
  simp [load]

/-- A command to an entry that has just been given an owner: when the position stays, so does its time. -/
theorem changed_command_owned {now : PartTime} {x : Position} {o : Option Slot} :
    ((ValveEntry.command now x { v with owner := o }).commanded = v.commanded →
      (ValveEntry.command now x { v with owner := o }).changed = v.changed)
    ∧ ((ValveEntry.command now x { v with owner := o }).commanded ≠ v.commanded →
      (ValveEntry.command now x { v with owner := o }).changed = some now) := by
  rw [commanded_command]
  refine ⟨fun same => ?_, fun differs => changed_command_of_ne (v := { v with owner := o }) (Ne.symm differs)⟩
  rw [command_of_eq (v := { v with owner := o }) same.symm]

section valves

variable (named : s.routeHeader r = some h) (load : (s.header h).load = some l) (entry : Table.entry s.valves n = some v)
include named load entry

theorem entry_claimTaken_of_setting (apart : (r.setting.map (·.valve)).Nodup) {i : SettingItem} (mem : i ∈ r.setting)
    (same : i.valve = n) : Table.entry (s.claimTaken k r).valves n
      = some (ValveEntry.command s.partTime (if i.opened then .open else .close) { v with owner := some k }) := by
  subst same
  have owned : i.valve ∈ s.claimValves r := by
    rw [claimValves_of_header named load]
    exact List.mem_append_left _ (List.mem_map_of_mem mem)
  have listed : (i.valve, if i.opened then Position.open else .close) ∈ r.positions := List.mem_map.2 ⟨i, mem, rfl⟩
  have time : (s.takeClaim k r).partTime = s.partTime := by rw [takeClaim_eq]
  rw [State.claimTaken, entry_commandValves listed (positions_agree apart mem), entry_takeClaim, entry, Option.map_some,
    if_pos owned, Option.map_some, time]

theorem entry_claimSwitched_of_setting (apart : (r.setting.map (·.valve)).Nodup) {i : SettingItem} (mem : i ∈ r.setting)
    (same : i.valve = n) (other : n ∉ l.diverters) : Table.entry (s.claimSwitched k r h).valves n
      = some (ValveEntry.command s.partTime (if i.opened then .open else .close) { v with owner := some k }) := by
  rw [State.claimSwitched, entry_switch_ne fun l' load' => ?_,
    entry_claimTaken_of_setting named load entry apart mem same]
  rw [header_claimTaken, load] at load'
  exact Option.some.inj load' ▸ other

theorem entry_claimTaken_of_other (other : n ∉ r.setting.map (·.valve)) :
    Table.entry (s.claimTaken k r).valves n = some (if n ∈ l.diverters then { v with owner := some k } else v) := by
  have unlisted : ∀ y ∈ r.positions, y.1 ≠ n := by
    intro y listed same
    obtain ⟨i, mem, rfl⟩ := List.mem_map.1 listed
    exact other (same ▸ List.mem_map_of_mem mem)
  have owned : n ∈ s.claimValves r ↔ n ∈ l.diverters := by
    rw [claimValves_of_header named load, List.mem_append, or_iff_right other]
  rw [State.claimTaken, entry_commandValves_ne unlisted, entry_takeClaim, entry, Option.map_some]
  simp only [owned]

theorem entry_claimSwitched_of_diverter (other : n ∉ r.setting.map (·.valve)) (mem : n ∈ l.diverters) :
    Table.entry (s.claimSwitched k r h).valves n
      = some (ValveEntry.command s.partTime (if n = l.drain then .open else .close) { v with owner := some k }) := by
  have time : (s.claimTaken k r).partTime = s.partTime := by rw [claimTaken_eq, takeClaim_eq]
  have agree : ∀ y ∈ l.positions .drain, y.1 = n → y.2 = if n = l.drain then .open else .close :=
    fun y listed same => same ▸ diverters_agree listed
  rw [valves_claimSwitched load, entry_commandValves (mem_positions_drain mem) agree,
    entry_claimTaken_of_other named load entry other, if_pos mem, Option.map_some, time]

theorem entry_claimSwitched_of_neither (other : n ∉ r.setting.map (·.valve)) (unserving : n ∉ l.diverters) :
    Table.entry (s.claimSwitched k r h).valves n = some v := by
  rw [State.claimSwitched, entry_switch_ne fun l' load' => ?_, entry_claimTaken_of_other named load entry other,
    if_neg unserving]
  rw [header_claimTaken, load] at load'
  exact Option.some.inj load' ▸ unserving

end valves

/-! ### The end of a grant (R87) -/

theorem grantClaim_clear (routed : s.routeOf k = some r) (named : s.routeHeader r = some h)
    (clear : ((s.claimPrepared k r h).round k).causes = ⟨false, []⟩) :
    s.grantClaim k = (s.claimPrepared k r h).enter k .setting := by
  rw [grantClaim_headed routed named, if_pos (HoldCauses.isEmpty_iff.2 clear)]

theorem grantClaim_caused (routed : s.routeOf k = some r) (named : s.routeHeader r = some h)
    (caused : ((s.claimPrepared k r h).round k).causes ≠ ⟨false, []⟩) :
    s.grantClaim k = (s.claimPrepared k r h).enterHolding k .setting := by
  rw [grantClaim_headed routed named, if_neg (mt HoldCauses.isEmpty_iff.1 caused)]

theorem eventQueue_claimPrepared : (s.claimPrepared k r h).eventQueue = s.eventQueue := by
  have switched : (s.claimPrepared k r h).eventQueue = (s.claimTaken k r).eventQueue := by
    rw [claimPrepared_eq, claimSwitched_eq]
    rfl
  exact switched.trans eventQueue_claimTaken

theorem closeLift_claimPrepared (waits : (s.round k).state = .waitRoute) :
    (s.claimPrepared k r h).closeLift k = s.claimPrepared k r h := by
  refine closeLift_of_not_timing ?_
  rw [round_claimPrepared]
  exact fun timing => nomatch waits.symm.trans timing

section shape

variable (routed : s.routeOf k = some r) (named : s.routeHeader r = some h)
include routed named

theorem causes_grantClaim : ((s.grantClaim k).round k).causes = ((s.claimPrepared k r h).round k).causes := by
  rw [grantClaim_headed routed named]
  split
  · rw [State.round_enter]
  · rw [round_enterHolding]
    rfl

theorem header_held_grantClaim :
    ((s.grantClaim k).round k).header = some h ∧ ((s.grantClaim k).round k).held = (s.round k).held := by
  rw [grantClaim_headed routed named]
  split
  · rw [State.round_enter, round_claimPrepared]
    exact ⟨named, rfl⟩
  · rw [round_enterHolding, round_claimPrepared]
    exact ⟨named, rfl⟩

theorem setting_grantClaim (clear : ((s.claimPrepared k r h).round k).causes = ⟨false, []⟩) :
    ((s.grantClaim k).round k).state = .setting ∧ ((s.grantClaim k).round k).resume = (s.round k).resume
    ∧ ((s.grantClaim k).round k).travel = ⟨.running, 0, 100 * r.travel⟩
    ∧ (s.grantClaim k).events = (s.offer (roundStateEvent k .setting none s.partTime)).events := by
  rw [grantClaim_clear routed named clear, State.round_enter, round_claimPrepared]
  exact ⟨rfl, rfl, rfl, events_of_eventQueue (eventQueue_enter_of k eventQueue_claimPrepared (by decide))⟩

variable (waits : (s.round k).state = .waitRoute)
include waits

/-- Whichever state a grant enters, the claim taken and the header on DRAIN are what it does outside the record. -/
theorem grantClaim_eq : s.grantClaim k = { s.claimSwitched k r h with
    rounds := (s.grantClaim k).rounds, events := (s.grantClaim k).events, overflow := (s.grantClaim k).overflow } := by
  by_cases clear : ((s.claimPrepared k r h).round k).causes = ⟨false, []⟩
  · rw [grantClaim_clear routed named clear, enter_eq, State.offer_eq]
    rfl
  · rw [grantClaim_caused routed named clear, State.enterHolding, closeLift_claimPrepared waits, putOnHold_eq]
    rfl

theorem round_grantClaim_ne (ne : j ≠ k) : (s.grantClaim k).round j = s.round j := by
  rw [grantClaim_headed routed named]
  split
  · rw [State.round_enter_ne _ _ _ ne, round_claimPrepared_ne ne]
  · rw [State.enterHolding, closeLift_claimPrepared waits, round_putOnHold_ne _ ne, round_claimPrepared_ne ne]

theorem holding_grantClaim (caused : ((s.claimPrepared k r h).round k).causes ≠ ⟨false, []⟩) :
    ((s.grantClaim k).round k).state = .holding ∧ ((s.grantClaim k).round k).resume = some .setting
    ∧ ((s.grantClaim k).round k).travel = ⟨.paused, 0, 100 * r.travel⟩
    ∧ ((s.grantClaim k).round k).holdLimit = ⟨.running, 0, 1000 * r.holdLimit⟩
    ∧ (s.grantClaim k).events = (s.offer (roundStateEvent k .holding none s.partTime)).events := by
  have route : (s.claimPrepared k r h).routeOf k = some r := by
    refine (routeOf_congr ?_ (by rw [round_claimPrepared])).trans routed
    rw [claimPrepared_eq, claimSwitched_eq, claimTaken_eq, takeClaim_eq]
  have queue : (s.claimPrepared k r h).eventQueue = s.eventQueue := eventQueue_claimPrepared
  have offered : ((s.claimPrepared k r h).putOnHold k .setting).eventQueue
      = (s.offer (roundStateEvent k .holding none s.partTime)).eventQueue := eventQueue_enter_of k queue (by decide)
  rw [grantClaim_caused routed named caused, State.enterHolding, closeLift_claimPrepared waits, round_putOnHold,
    holdLimitOf_eq route, round_claimPrepared, waits]
  exact ⟨rfl, rfl, rfl, rfl, events_of_eventQueue offered⟩

end shape

end taken

end Sys2Proof.Machine

/-! ## ROUND_START (R84, R187) -/

namespace Sys2Proof.Machine

open Sys2Proof

/-! ### The round that joins the queue -/

section awaiting

variable {s : State} {k j : Slot} {recipe route : Nat} {g : RoundClass} {r : Route} {x : Octet}

/-- The record a start fills in (R84). -/
def State.started (k : Slot) (recipe route : Nat) (g : RoundClass) (s : State) : State := s.updRound k fun r =>
  { r with given := g, effective := g, recipe := recipe, route := route, step := 0, startTime := some s.partTime }

/-- The started round in WAIT_ROUTE at the back of the route claim queue, before the walk (R84). -/
def State.awaiting (k : Slot) (recipe route : Nat) (g : RoundClass) (s : State) : State :=
  let t := (s.started k recipe route g).noteSilent k ((s.started k recipe route g).routeNodes k)
  { t with claimQueue := t.claimQueue ++ [k] }.enter k .waitRoute

theorem startRound_eq : s.startRound k recipe route g = (s.awaiting k recipe route g).walk := rfl

theorem round_started : (s.started k recipe route g).round k = { s.round k with
    given := g, effective := g, recipe := recipe, route := route, step := 0, startTime := some s.partTime } :=
  State.round_updRound ..

theorem round_awaiting : (s.awaiting k recipe route g).round k = { s.round k with
    state := .waitRoute, given := g, effective := g, recipe := recipe, route := route, step := 0
    startTime := some s.partTime
    causes := (s.started k recipe route g).causesWith k ((s.started k recipe route g).routeNodes k) } := by
  have noted := round_noteSilent (s := s.started k recipe route g) (k := k)
    (nodes := (s.started k recipe route g).routeNodes k)
  unfold State.awaiting
  rw [State.round_enter]
  refine (congrArg (fun x : Round => { x with state := .waitRoute }) noted).trans ?_
  rw [round_started]

theorem round_awaiting_ne (ne : j ≠ k) : (s.awaiting k recipe route g).round j = s.round j := by
  unfold State.awaiting
  rw [State.round_enter_ne _ _ _ ne]
  refine Eq.trans (b := ((s.started k recipe route g).noteSilent k _).round j) rfl ?_
  rw [noteSilent_eq, State.round_updRound_ne _ _ ne, State.started, State.round_updRound_ne _ _ ne]

theorem awaiting_eq (k : Slot) (recipe route : Nat) (g : RoundClass) (s : State) : s.awaiting k recipe route g
    = { s with
      rounds := (s.awaiting k recipe route g).rounds, claimQueue := s.claimQueue ++ [k]
      events := (s.awaiting k recipe route g).events, overflow := (s.awaiting k recipe route g).overflow } := by
  unfold State.awaiting
  dsimp only
  rw [enter_eq, State.offer_eq]
  rfl

theorem eventQueue_awaiting : (s.awaiting k recipe route g).eventQueue
    = (s.offer (roundStateEvent k .waitRoute none s.partTime)).eventQueue := eventQueue_enter_of k rfl (by decide)

theorem routeOf_awaiting (entry : Table.entry s.routes route = some r) :
    (s.awaiting k recipe route g).routeOf k = some r := by
  rw [State.routeOf, round_awaiting, awaiting_eq]
  exact entry

/-- The nodes of the setting and boundary valves that are silent (R84, R86). -/
theorem mem_causes_awaiting (entry : Table.entry s.routes route = some r) (clear : (s.round k).causes = ⟨false, []⟩) :
    x ∈ ((s.awaiting k recipe route g).round k).causes.nodes
      ↔ x ∈ (r.setting.map (·.valve) ++ r.boundary.map (·.valve)).filterMap s.valveNode ∧ s.nodeSilent x = true := by
  have routed : (s.started k recipe route g).routeOf k = some r := by
    rw [State.routeOf, round_started]
    exact entry
  have empty : ((s.started k recipe route g).round k).causes = ⟨false, []⟩ := by
    rw [round_started]
    exact clear
  rw [round_awaiting]
  refine mem_causesWith.trans ?_
  rw [empty, State.routeNodes, routed]
  exact or_iff_right List.not_mem_nil

theorem link_causes_awaiting (clear : (s.round k).causes = ⟨false, []⟩) :
    ((s.awaiting k recipe route g).round k).causes.link = false := by
  rw [round_awaiting]
  refine link_causesWith.trans ?_
  rw [round_started, clear]

theorem routeNodes_awaiting (entry : Table.entry s.routes route = some r) :
    (s.awaiting k recipe route g).routeNodes k
      = (r.setting.map (·.valve) ++ r.boundary.map (·.valve)).filterMap s.valveNode := by
  rw [State.routeNodes, routeOf_awaiting entry, awaiting_eq]
  rfl

theorem claimable_awaiting : (s.awaiting k recipe route g).claimable r = s.claimable r := by
  rw [awaiting_eq]
  rfl

theorem claimQueue_awaiting (empty : s.claimQueue = []) : (s.awaiting k recipe route g).claimQueue = [k] := by
  rw [awaiting_eq, empty]
  rfl

/-! ### The walk with no other round waiting (R48) -/

theorem startRound_waits (empty : s.claimQueue = []) (entry : Table.entry s.routes route = some r)
    (barred : s.claimable r = false) : s.startRound k recipe route g = s.awaiting k recipe route g := by
  have passed : (s.awaiting k recipe route g).grantable k [] = false := by
    rw [State.grantable, routeOf_awaiting entry]
    simp [claimable_awaiting, barred]
  rw [startRound_eq, State.walk, claimQueue_awaiting empty, State.walkFrom, passed, if_neg Bool.false_ne_true,
    State.walkFrom]

theorem startRound_granted (empty : s.claimQueue = []) (entry : Table.entry s.routes route = some r)
    (unbarred : s.claimable r = true) :
    s.startRound k recipe route g = (s.awaiting k recipe route g).grantClaim k := by
  have granted : (s.awaiting k recipe route g).grantable k [] = true := by
    rw [State.grantable, routeOf_awaiting entry]
    simp [claimable_awaiting, unbarred]
  rw [startRound_eq, State.walk, claimQueue_awaiting empty, walkFrom_granted granted, State.walkFrom]

end awaiting

/-! ### The request -/

section request

variable {s : State} {a : Ask} {slot recipe route cls : Octet} {k : Slot} {g : RoundClass} {r : Route}

theorem startAction_taken (named : slot.toNat = k.val) (recipeIn : recipe.toNat < 24) (routeIn : route.toNat < 48)
    (code : RoundClass.ofCode cls = some g) (idle : (s.round k).state = .idle)
    (valid : s.invalid recipe.toNat route.toNat = none) : startAction slot recipe route cls s
      = (s.startRound k recipe.toNat route.toNat g, Reply.ok) := by
  unfold startAction
  rw [slotAt_eq_some.2 named, code, valid]
  exact (if_neg (by simp [recipeIn, routeIn])).trans (if_neg (not_not.2 idle))

theorem exec_roundStart_taken (listens : s.listens) (named : slot.toNat = k.val) (recipeIn : recipe.toNat < 24)
    (routeIn : route.toNat < 48) (code : RoundClass.ofCode cls = some g) (idle : (s.round k).state = .idle)
    (valid : s.invalid recipe.toNat route.toNat = none) : exec (.roundStart a slot recipe route cls) s
      = .next ((s.opened.startRound k recipe.toNat route.toNat g).closing a ⟨.ok, none, none, []⟩) := by
  have taken := startAction_taken (s := s.opened) named recipeIn routeIn code idle ((invalid_opened ..).trans valid)
  have link : (s.opened.startRound k recipe.toNat route.toNat g).linkSilent = s.opened.linkSilent :=
    linkSilent_of_arbiterFrame (Claimed.startRound ..).frame
  have arrives := requestArrives_taken listens a (startAction slot recipe route cls)
    (by rw [taken]; exact link.trans listens.2.2)
  rw [taken] at arrives
  exact congrArg Host.Outcome.next arrives

/-- Check 11: no valve a valid route lists serves a return header (R35). -/
theorem not_mem_diverters_of_valid (valid : s.invalid recipe.toNat route.toNat = none)
    (entry : Table.entry s.routes route.toNat = some r) {h : HeaderId} {l : HeaderLoad} {n : Nat}
    (load : (s.header h).load = some l) (listed : n ∈ r.setting.map (·.valve)) : n ∉ l.diverters := by
  intro serving
  cases full : Table.entry s.recipes recipe.toNat with
  | none => exact nomatch (invalid_of_no_recipe (by simp [entry]) full).symm.trans valid
  | some steps =>
    rw [invalid_of_entries entry full, List.findSome?_eq_none_iff] at valid
    have passes := valid (firstFailing 11 (fun n => !s.isMedium n && !s.isDiverter n) r.valves)
      (List.mem_append_left _ (by simp [State.routeChecks]))
    have clear := List.find?_eq_none.1 (Option.map_eq_none_iff.1 passes) n
      (List.mem_append_left _ (List.mem_append_left _ listed))
    have serves : s.isDiverter n = true := by
      refine List.any_eq_true.2 ⟨h, by fin_cases h <;> decide, ?_⟩
      simp [load, serving]
    simp [serves] at clear

end request

/-! ### The granted claim as a whole -/

section granted

variable {s : State} {k : Slot} {r : Route} {h : HeaderId} {l : HeaderLoad} {n : Nat} {v : ValveEntry}

/-- What a claim grant makes of a valve entry: owned and commanded where the claim takes it, left alone otherwise. -/
structure ClaimedEntry (now : PartTime) (k : Slot) (r : Route) (l : HeaderLoad) (n : Nat) (v w : ValveEntry) : Prop where
  owner : w.owner = if n ∈ r.setting.map (·.valve) ∨ n ∈ l.diverters then some k else v.owner
  setting : ∀ i ∈ r.setting, i.valve = n → w.commanded = some (if i.opened then .open else .close)
  drain : n = l.drain → w.commanded = some .open
  diverter : n ∈ l.diverters → n ≠ l.drain → w.commanded = some .close
  other : n ∉ r.setting.map (·.valve) → n ∉ l.diverters → w = v
  kept : w.commanded = v.commanded → w.changed = v.changed
  moved : w.commanded ≠ v.commanded → w.changed = some now

theorem drain_mem_diverters : l.drain ∈ l.diverters := List.mem_cons_self

theorem claimedEntry (named : s.routeHeader r = some h) (load : (s.header h).load = some l)
    (entry : Table.entry s.valves n = some v) (apart : (r.setting.map (·.valve)).Nodup)
    (disjoint : n ∈ r.setting.map (·.valve) → n ∉ l.diverters) :
    ∃ w, Table.entry (s.claimSwitched k r h).valves n = some w ∧ ClaimedEntry s.partTime k r l n v w := by
  by_cases listed : n ∈ r.setting.map (·.valve)
  · obtain ⟨i, mem, same⟩ := List.mem_map.1 listed
    have unserving := disjoint listed
    refine ⟨_, entry_claimSwitched_of_setting named load entry apart mem same unserving, ?_, fun i' mem' same' => ?_,
      fun drain => absurd (drain ▸ drain_mem_diverters) unserving, fun serving => absurd serving unserving,
      absurd listed, changed_command_owned.1, changed_command_owned.2⟩
    · rw [owner_command, if_pos (.inl listed)]
    · rw [commanded_command, List.inj_on_of_nodup_map apart mem mem' (same.trans same'.symm)]
  · have unset : ∀ i ∈ r.setting, i.valve = n → ∀ {p : Prop}, p := fun i mem same =>
      absurd (same ▸ List.mem_map_of_mem mem) listed
    by_cases serving : n ∈ l.diverters
    · refine ⟨_, entry_claimSwitched_of_diverter named load entry listed serving, ?_, fun i mem same => unset i mem same,
        fun drain => ?_, fun _ aside => ?_, fun _ => absurd serving, changed_command_owned.1, changed_command_owned.2⟩
      · rw [owner_command, if_pos (.inr serving)]
      · rw [commanded_command, if_pos drain]
      · rw [commanded_command, if_neg aside]
    · refine ⟨v, entry_claimSwitched_of_neither named load entry listed serving, ?_, fun i mem same => unset i mem same,
        fun drain => absurd (drain ▸ drain_mem_diverters) serving, fun mem => absurd mem serving, fun _ _ => rfl,
        fun _ => rfl, fun moved => absurd rfl moved⟩
      rw [if_neg (by tauto)]

end granted

theorem HoldCauses.eq_of_parts {c : HoldCauses} {link : Bool} {nodes : List Octet} (first : c.link = link)
    (second : c.nodes = nodes) : c = ⟨link, nodes⟩ := by
  subst first second
  rfl

/-! ### The start of a round with no other round waiting -/

section start

variable {s : State} {k : Slot} {recipe route : Nat} {g : RoundClass} {r : Route} {h : HeaderId} {l : HeaderLoad}

/-- A silent node of the setting and boundary valves, of the header's diverter valves or of its flow point (R86). -/
def State.startDepends (s : State) (r : Route) (l : HeaderLoad) (x : Octet) : Prop :=
  (x ∈ (r.setting.map (·.valve) ++ r.boundary.map (·.valve) ++ l.diverters).filterMap s.valveNode
    ∨ s.pointNode l.flow = some x) ∧ s.nodeSilent x = true

/-- What the grant of a started round's claim does, `e` being the round in WAIT_ROUTE and `u` the state after it. -/
structure StartGranted (s e u : State) (k : Slot) (r : Route) (h : HeaderId) (l : HeaderLoad) : Prop where
  claimQueue : u.claimQueue = []
  stations : u.stations = s.stations
  drives : u.drives = s.drives
  others : ∀ j, j ≠ k → u.round j = s.round j
  headers : ∀ j, j ≠ h → u.header j = s.header j
  header : u.header h = { s.header h with current := .drain }
  segments : ∀ n, u.segState n = if n ∈ r.segments then .claimed k else s.segState n
  valves : ∀ n v, Table.entry s.valves n = some v → ∃ w, Table.entry u.valves n = some w
    ∧ ClaimedEntry s.partTime k r l n v w
  causes : ∀ x, x ∈ (u.round k).causes.nodes ↔ s.startDepends r l x
  own : (u.round k).header = some h ∧ (u.round k).held = (s.round k).held
  setting : (∀ x, ¬s.startDepends r l x) → (u.round k).state = .setting ∧ (u.round k).resume = (s.round k).resume
    ∧ (u.round k).travel = ⟨.running, 0, 100 * r.travel⟩
    ∧ u.events = (e.offer (roundStateEvent k .setting none e.partTime)).events
  holding : (∃ x, s.startDepends r l x) → (u.round k).state = .holding ∧ (u.round k).resume = some .setting
    ∧ (u.round k).travel = ⟨.paused, 0, 100 * r.travel⟩ ∧ (u.round k).holdLimit = ⟨.running, 0, 1000 * r.holdLimit⟩
    ∧ u.events = (e.offer (roundStateEvent k .holding none e.partTime)).events

theorem startGranted (alone : s.claimQueue = []) (clear : (s.round k).causes = ⟨false, []⟩)
    (entry : Table.entry s.routes route = some r) (claimable : s.claimable r = true)
    (named : s.routeHeader r = some h) (load : (s.header h).load = some l)
    (apart : (r.setting.map (·.valve)).Nodup) (disjoint : ∀ n ∈ r.setting.map (·.valve), n ∉ l.diverters) :
    StartGranted s (s.awaiting k recipe route g) (s.startRound k recipe route g) k r h l := by
  have listed := routeNodes_awaiting (s := s) (k := k) (recipe := recipe) (g := g) entry
  have noted := fun x => mem_causes_awaiting (s := s) (recipe := recipe) (g := g) (x := x) entry clear
  have link := link_causes_awaiting (s := s) (recipe := recipe) (route := route) (g := g) clear
  have others := fun j (ne : j ≠ k) => round_awaiting_ne (s := s) (recipe := recipe) (route := route) (g := g) ne
  have waits : ((s.awaiting k recipe route g).round k).state = .waitRoute := by rw [round_awaiting]
  have unchanged : ((s.awaiting k recipe route g).round k).held = (s.round k).held
      ∧ ((s.awaiting k recipe route g).round k).resume = (s.round k).resume := by
    rw [round_awaiting]
    exact ⟨rfl, rfl⟩
  have routed : (s.awaiting k recipe route g).routeOf k = some r := routeOf_awaiting entry
  have shape := awaiting_eq k recipe route g s
  rw [startRound_granted alone entry claimable]
  generalize s.awaiting k recipe route g = e at *
  have headed : e.routeHeader r = some h := by rw [shape]; exact named
  have loaded : (e.header h).load = some l := by rw [shape]; exact load
  have causes : ∀ x, x ∈ ((e.claimPrepared k r h).round k).causes.nodes ↔ s.startDepends r l x := fun x => by
    have valveNode : e.valveNode = s.valveNode := by rw [shape]; rfl
    have pointNode : e.pointNode = s.pointNode := by rw [shape]; rfl
    have silent : e.nodeSilent = s.nodeSilent := by rw [shape]; rfl
    rw [mem_causes_claimPrepared headed loaded, noted, listed, valveNode, pointNode, silent, State.startDepends,
      List.filterMap_append (l := r.setting.map (·.valve) ++ r.boundary.map (·.valve)), List.mem_append]
    tauto
  have linked : ((e.claimPrepared k r h).round k).causes.link = false := by
    rw [round_claimPrepared, link_causesWith, round_claimSwitched, round_claimTaken]
    exact link
  have switched : e.claimSwitched k r h = { s with
      valves := (e.claimSwitched k r h).valves, segments := (e.claimSwitched k r h).segments
      claimQueue := [], rounds := (e.claimSwitched k r h).rounds, headers := (e.claimSwitched k r h).headers
      events := e.events, overflow := e.overflow } := by
    rw [claimSwitched_eq, claimTaken_eq, takeClaim_eq, shape, alone]
    simp
  have granted := grantClaim_eq routed headed waits
  refine ⟨?_, ?_, ?_, fun j ne => ?others, fun j ne => ?headers, ?header, fun n => ?segments, fun n v entry => ?valves,
    fun x => ?causes, ?own, fun none => ?setting, fun some => ?holding⟩
  iterate 3 rw [granted, switched]
  case others => rw [round_grantClaim_ne routed headed waits ne, others j ne]
  case headers =>
    rw [granted]
    exact (header_switch_ne ne).trans (header_claimTaken.trans (by rw [shape]; rfl))
  case header =>
    rw [granted]
    refine header_switch.trans ?_
    rw [header_claimTaken, shape]
    rfl
  case segments =>
    have full : ∀ n ∈ r.segments, Table.entry e.segments n ≠ none := fun n mem => by
      rw [shape]
      exact ((claimable_eq_true.1 claimable).1 n mem).2
    have taken : (e.grantClaim k).segState n = (e.claimTaken k r).segState n := by
      rw [granted, claimSwitched_eq]
      rfl
    rw [taken, segState_claimTaken, if_congr (and_iff_left_of_imp (full n)) rfl rfl, shape]
    rfl
  case valves =>
    have time : e.partTime = s.partTime := by rw [shape]
    have entry' : Table.entry e.valves n = .some v := by rw [shape]; exact entry
    rw [granted, ← time]
    exact claimedEntry headed loaded entry' apart (disjoint n)
  case causes => rw [causes_grantClaim routed headed, causes]
  case own => exact unchanged.1 ▸ header_held_grantClaim routed headed
  case setting =>
    refine unchanged.2 ▸ setting_grantClaim routed headed (HoldCauses.eq_of_parts linked ?_)
    exact List.eq_nil_iff_forall_not_mem.2 fun x mem => none x ((causes x).1 mem)
  case holding =>
    obtain ⟨x, depends⟩ := some
    refine holding_grantClaim routed headed waits fun clear => ?_
    have mem := (causes x).2 depends
    rw [clear] at mem
    exact List.not_mem_nil mem

/-- A started round keeps what the request names, whatever the walk does (R84). -/
theorem startRound_names : ((s.startRound k recipe route g).round k).given = g
    ∧ ((s.startRound k recipe route g).round k).recipe = recipe
    ∧ ((s.startRound k recipe route g).round k).route = route
    ∧ ((s.startRound k recipe route g).round k).startTime = some s.partTime := by
  rw [startRound_eq, waits_walk.given, waits_walk.recipe, waits_walk.route, waits_walk.startTime, round_awaiting]
  exact ⟨rfl, rfl, rfl, rfl⟩

end start

/-- Settles O28: the started round waits alone, and the walk leaves it there or grants its claim. -/
theorem roundStart : Obligations.RoundStart := by
  intro a slot recipe route cls k g r s listens named recipeIn routeIn code fresh valid entry silentNode listed
  obtain ⟨idle, -, -, -, -, unheld, unresumed, -, -, -, -, -, -, -, -, -, -, -, -, clear, -⟩ := fresh
  have record := round_awaiting (s := s.opened) (k := k) (recipe := recipe.toNat) (route := route.toNat) (g := g)
  have queue := eventQueue_awaiting (s := s.opened) (k := k) (recipe := recipe.toNat) (route := route.toNat) (g := g)
  have opened : ∀ event, (s.opened.offer event).eventQueue = (s.offer event).eventQueue := fun event =>
    eventQueue_offer_congr event rfl
  have silent : ∀ (valves : List Nat) x, x ∈ valves.filterMap s.valveNode ∧ s.nodeSilent x = true
      ↔ silentNode valves x := fun valves x => and_congr_left' List.mem_filterMap
  obtain ⟨given, recipe', route', startTime⟩ := startRound_names (s := s.opened) (k := k) (recipe := recipe.toNat)
    (route := route.toNat) (g := g)
  refine ⟨_, exec_roundStart_taken listens named recipeIn routeIn code idle valid, given, recipe', route', startTime,
    fun alone barred => ?waits, fun h l alone claimable headed load apart => ?granted⟩
  case waits =>
    have causes := fun x => mem_causes_awaiting (s := s.opened) (k := k) (recipe := recipe.toNat) (g := g) (x := x)
      entry clear
    have link := link_causes_awaiting (s := s.opened) (recipe := recipe.toNat) (route := route.toNat) (g := g) clear
    have shape := awaiting_eq k recipe.toNat route.toNat g s.opened
    have others := fun j (ne : j ≠ k) => round_awaiting_ne (s := s.opened) (recipe := recipe.toNat)
      (route := route.toNat) (g := g) ne
    rw [startRound_waits (s := s.opened) alone entry barred]
    generalize s.opened.awaiting k recipe.toNat route.toNat g = e at *
    have queued : s.opened.claimQueue ++ [k] = [k] := congrArg (· ++ [k]) alone
    refine ⟨queued ▸ shape, others, ?_, fun x => (causes x).trans (silent listed x),
      (events_of_eventQueue queue).trans (events_of_eventQueue (opened _))⟩
    have noted : (e.round k).causes = ⟨false, (e.round k).causes.nodes⟩ := HoldCauses.eq_of_parts link rfl
    rw [← noted, record]
    rfl
  case granted =>
    intro depends
    have disjoint := fun n => not_mem_diverters_of_valid (n := n) valid entry load
    have grants : StartGranted s.opened _ _ k r h l := startGranted (s := s.opened) (recipe := recipe.toNat)
      (route := route.toNat) (g := g) alone clear entry claimable headed load apart disjoint
    have same : ∀ x, s.opened.startDepends r l x ↔ depends x := fun x =>
      or_and_right.trans (or_congr (silent (listed ++ l.diverters) x) Iff.rfl)
    have time : (s.opened.awaiting k recipe.toNat route.toNat g).partTime = s.partTime := by rw [awaiting_eq]; rfl
    have events : ∀ st, (State.offer (roundStateEvent k st none
        (s.opened.awaiting k recipe.toNat route.toNat g).partTime)
        (s.opened.awaiting k recipe.toNat route.toNat g)).events
          = ((s.offer (roundStateEvent k .waitRoute none s.partTime)).offer
            (roundStateEvent k st none s.partTime)).events := fun st => by
      rw [time]
      exact events_of_eventQueue (eventQueue_offer_congr _ (queue.trans (opened _)))
    refine ⟨(Claimed.startRound ..).frame, grants.claimQueue, grants.stations, grants.drives, grants.others,
      grants.headers, grants.header, grants.segments, fun n v entry => ?_, fun x => (grants.causes x).trans (same x),
      grants.own.1, grants.own.2.trans unheld, fun none => ?_, fun some => ?_⟩
    · obtain ⟨w, found, claimed⟩ := grants.valves n v entry
      exact ⟨w, found, claimed.owner, claimed.setting, claimed.drain, claimed.diverter, claimed.other, claimed.kept,
        claimed.moved⟩
    · obtain ⟨state, resume, travel, offered⟩ := grants.setting fun x => mt (same x).1 (none x)
      exact ⟨state, resume.trans unresumed, travel, offered.trans (events _)⟩
    · obtain ⟨state, resume, travel, limit, offered⟩ := grants.holding (some.imp fun x => (same x).2)
      exact ⟨state, resume, travel, limit, offered.trans (events _)⟩

end Sys2Proof.Machine

/-! ## DRAIN_HOLD_ELAPSE (R107, R52) -/

namespace Sys2Proof.Machine

open Sys2Proof

section finish

variable {s p : State} {k : Slot} {r : Route} {n : Nat}

/-- The round DONE with its claim given up, before the route claim queue is walked (R107). -/
def State.finished (k : Slot) (s : State) : State := (s.giveUpClaim k .free).enterDone k

theorem releases_finished (routed : s.routeOf k = some r) : Releases s (s.finished k) k r .free := by
  refine (releases_giveUpClaim routed).recorded ?_ fun j ne => round_enterDone_ne ne
  unfold State.finished
  rw [enterDone_eq]

theorem claimed_finished : Claimed s (s.finished k) := (Claimed.giveUpClaim s k _).trans (Claimed.enterDone _ k)

theorem round_finished (routed : s.routeOf k = some r) : (s.finished k).round k = { s.round k with
    state := .done, drainHold := (s.round k).drainHold.stop, drainMax := (s.round k).drainMax.stop
    holdLimit := (s.round k).holdLimit.stop, endTime := some s.partTime, causes := ⟨false, []⟩, resume := none
    header := none } := by
  have time : (s.giveUpClaim k .free).partTime = s.partTime := by rw [giveUpClaim_eq routed]
  unfold State.finished
  rw [round_enterDone, round_giveUpClaim routed, time]

theorem events_finished (routed : s.routeOf k = some r) : (s.finished k).events
    = (s.offer (roundStateEvent k .done (s.round k).result s.partTime)).events := by
  have time : (s.giveUpClaim k .free).partTime = s.partTime := by rw [giveUpClaim_eq routed]
  refine events_of_eventQueue ?_
  unfold State.finished
  rw [eventQueue_enterDone, round_giveUpClaim routed, time]
  exact eventQueue_offer_congr _ (eventQueue_giveUpClaim routed)

/-- A segment that is not there is FREE already. -/
theorem segState_of_absent (absent : Table.entry s.segments n = none) : s.segState n = .free := by
  rw [State.segState, absent]

theorem Releases.freed {u : State} (gives : Releases s u k r .free) :
    u.segState n = if n ∈ r.segments then .free else s.segState n := by
  rw [gives.segments]
  cases entry : Table.entry s.segments n with
  | none => simp [segState_of_absent entry]
  | some x => simp

/-- The drain hold of a round in ENDING elapses (R107): the round DONE, and the walk. -/
theorem exec_drainHoldElapse_ending (running : (s.round k).drainHold.mode = .running)
    (ending : (s.round k).state = .ending) : exec (.drainHoldElapse k) s
      = .next ((s.pass ((s.round k).drainHold.limit - (s.round k).drainHold.elapsed)).finished k).walk :=
  congrArg Host.Outcome.next ((expire_of_running _ running).trans (if_pos ((state_pass _).trans ending)))

theorem exec_drainHoldElapse_other (running : (s.round k).drainHold.mode = .running)
    (other : (s.round k).state ≠ .ending) : exec (.drainHoldElapse k) s
      = .next (s.pass ((s.round k).drainHold.limit - (s.round k).drainHold.elapsed)) :=
  congrArg Host.Outcome.next ((expire_of_running _ running).trans
    (if_neg fun ending => other ((state_pass _).symm.trans ending)))

theorem exec_drainHoldElapse_idle (idle : (s.round k).drainHold.mode ≠ .running) :
    exec (.drainHoldElapse k) s = .next s := congrArg Host.Outcome.next (expire_of_idle _ idle)

/-- What the end of a claim does after some part time has passed. -/
structure Finishes (s p u : State) (k : Slot) (r : Route) : Prop where
  frame : arbiterFrame p u
  claimQueue : u.claimQueue = s.claimQueue
  stations : u.stations = s.stations
  drives : u.drives = s.drives
  others : ∀ j, j ≠ k → u.round j = p.round j
  segments : ∀ n, u.segState n = if n ∈ r.segments then .free else s.segState n
  disowned : ∀ x ∈ u.valves, x.2.owner ≠ some k
  header : ∀ h, (s.round k).header = some h → (u.header h).current = .drain ∧ (u.header h).interface = .steady
    ∧ (u.header h).pending = none
  record : u.round k = { p.round k with
    state := .done, drainHold := (p.round k).drainHold.stop, drainMax := (p.round k).drainMax.stop
    holdLimit := (p.round k).holdLimit.stop, endTime := some p.partTime, causes := ⟨false, []⟩, resume := none
    header := none }
  events : u.events = (p.offer (roundStateEvent k .done (p.round k).result p.partTime)).events

theorem Finishes.settled {u : State} (done : Finishes s p u k r) : (u.round k).state = .done
    ∧ (u.round k).endTime = some p.partTime ∧ (u.round k).result = (p.round k).result ∧ (u.round k).header = none
    ∧ (u.round k).drainHold.mode = .stopped ∧ (u.round k).drainMax.mode = .stopped
    ∧ (u.round k).causes = ⟨false, []⟩ := by
  rw [done.record]
  exact ⟨rfl, rfl, rfl, rfl, rfl, rfl, rfl⟩

theorem result_pass : ((s.pass n).round k).result = (s.round k).result := by
  rw [State.round_pass]
  rfl

theorem finishes_pass (routed : s.routeOf k = some r) : Finishes s (s.pass n) ((s.pass n).finished k) k r := by
  have routed' : (s.pass n).routeOf k = some r := (routeOf_pass ..).trans routed
  have gives : Releases (s.pass n) _ k r .free := releases_finished routed'
  have segState : ∀ m, (s.pass n).segState m = s.segState m := fun m => by
    rw [State.segState, State.pass_segments, ← State.segState]
  exact {
    frame := claimed_finished.frame
    claimQueue := gives.claimQueue.trans (by simp)
    stations := gives.stations.trans (by simp)
    drives := gives.drives.trans (by simp)
    others := gives.others
    segments := fun m => segState m ▸ gives.freed
    disowned := gives.disowned
    header := fun h named => gives.header h ((round_pass_header _).trans named)
    record := round_finished routed'
    events := events_finished routed' }

end finish

end Sys2Proof.Machine

/-! ## The deliveries of a reply, seen from one round (R158, R160) -/

namespace Sys2Proof.Machine

open Sys2Proof

/-! ### Work beside a round -/

section apart

variable {s t u : State} {k j : Slot}

/-- No station's queue holds the round. -/
def State.away (k : Slot) (s : State) : Prop := ∀ st, k ∉ (s.station st).queue

/-- A round's record stands, and the rest is within the sequencer's frame. -/
structure Apart (k : Slot) (s t : State) : Prop where
  record : t.round k = s.round k
  frame : sequencerFrame s t
  away : s.away k → t.away k

theorem Apart.refl (k : Slot) (s : State) : Apart k s s := ⟨rfl, sequencerFrame_refl s, id⟩

theorem Apart.trans (first : Apart k s t) (second : Apart k t u) : Apart k s u :=
  ⟨second.record.trans first.record, sequencerFrame_trans first.frame second.frame, fun h => second.away (first.away h)⟩

theorem Apart.ofWork {P : Slot → Prop} {Q : Prop} (beside : ¬P k) (work : Work P Q s t) : Apart k s t :=
  ⟨(work.rounds k).1 beside, work.frame, fun h st mem => h st ((work.queues beside st).1 mem)⟩

/-- What other rounds set off leaves a round that waits for no station alone. -/
theorem Apart.cascade (away : s.away k) (ts : List Task) (others : ∀ x ∈ ts, Work.onTask (· ≠ k) x) :
    Apart k s (s.cascade ts) :=
  .ofWork (not_not.2 rfl) (Work.cascade .rfl' (fun st j mem (same : j = k) => away st (same ▸ mem)) ts others)

theorem Apart.updRound {f : Round → Round} (kept : j = k → f (s.round k) = s.round k) (away : s.away k)
    (quiet : ∀ r, (f r).given = r.given ∧ (f r).recipe = r.recipe ∧ (f r).route = r.route
      ∧ (f r).startTime = r.startTime ∧ (f r).header = r.header) : Apart k s (s.updRound j f) := by
  have work : Work (fun _ => True) False s (s.updRound j f) := .upd .rfl' trivial fun r => by
    obtain ⟨given, recipe, route, startTime, header⟩ := quiet r
    exact ⟨given, recipe, route, startTime, header, False.elim⟩
  refine ⟨?_, work.frame, fun _ => away⟩
  by_cases own : j = k
  · subst own
    exact (State.round_updRound ..).trans (kept rfl)
  · exact State.round_updRound_ne _ _ (Ne.symm own)

theorem Apart.foldl {β : Type} {f : State → β → State} (each : ∀ t x, Apart k s t → t.away k → Apart k t (f t x))
    (away : s.away k) (l : List β) : ∀ t, Apart k s t → Apart k s (l.foldl f t) := by
  induction l with
  | nil => exact fun _ => id
  | cons x l ih => exact fun t apart => ih _ (apart.trans (each t x apart (apart.away away)))

theorem Apart.foldlSelf {β : Type} {f : State → β → State} (away : s.away k)
    (each : ∀ t x, Apart k s t → t.away k → Apart k t (f t x)) (l : List β) : Apart k s (l.foldl f s) :=
  .foldl each away l s (.refl k s)

/-- A round of deliveries, cut at the one to round `k`. -/
theorem foldl_allSlots_split {f : State → Slot → State} (away : s.away k)
    (others : ∀ t j, t.away k → j ≠ k → Apart k t (f t j)) :
    ∃ t, Apart k s t ∧ ((f t k).away k → Apart k (f t k) (allSlots.foldl f s)) := by
  obtain ⟨before, after, split⟩ := List.append_of_mem (mem_allSlots k)
  obtain ⟨-, right, apart⟩ := List.pairwise_append.1 (split ▸ allSlots_ascending)
  have beside : ∀ (l : List Slot) (t : State), k ∉ l → t.away k → Apart k t (l.foldl f t) := by
    intro l
    induction l with
    | nil => exact fun t _ _ => .refl k t
    | cons j l ih =>
      intro t absent here
      have first := others t j here fun same => absent (same ▸ List.mem_cons_self)
      exact first.trans (ih _ (fun mem => absent (List.mem_cons_of_mem _ mem)) (first.away here))
  refine ⟨before.foldl f s, beside before s (fun mem => absurd (apart k mem k List.mem_cons_self) (lt_irrefl k)) away,
    fun here => ?_⟩
  rw [split, List.foldl_append, List.foldl_cons]
  exact beside after _ (fun mem => absurd ((List.pairwise_cons.1 right).1 k mem) (lt_irrefl k)) here

end apart

/-! ### The deliveries that leave a round alone -/

section deliveries

variable {s t : State} {k j : Slot} {a : Octet} {r : Reading} {n : Nat}

theorem apart_deliverSetting (away : s.away k) (spared : j = k → (s.round k).state ≠ .setting) :
    Apart k s (s.deliverSetting j) := by
  unfold State.deliverSetting
  split
  next takes =>
    have ne : j ≠ k := fun same => spared same (same ▸ takes.1)
    have stopped : Apart k s (s.updRound j fun r => { r with travel := r.travel.stop }) :=
      .updRound (fun same => absurd same ne) away fun _ => ⟨rfl, rfl, rfl, rfl, rfl⟩
    exact stopped.trans (.cascade (stopped.away away) _ (by simpa [Work.onTask] using ne))
  next => exact .refl k s

/-- A pump that shows no FAULT, or a round that takes none. -/
theorem deliverFault_of_spared (spared : ∀ n, s.heldPump k = some n → s.showsFault a r n = true →
    (s.round k).takes .driveFault = false) : s.deliverFault a r k = s := by
  unfold State.deliverFault
  split
  next n held =>
    split
    next shows => exact cascade_fault_ignored (spared n held shows)
    next => rfl
  next => rfl

theorem apart_deliverFault_ne (away : s.away k) (ne : j ≠ k) : Apart k s (s.deliverFault a r j) := by
  unfold State.deliverFault
  split
  · split
    · exact .cascade away _ (by simpa [Work.onTask] using ne)
    · exact .refl k s
  · exact .refl k s

theorem apart_deliverFill (away : s.away k)
    (spared : j = k → (s.round k).state ≠ .stepFill ∨ ∀ n, s.carried a r n = none) :
    Apart k s (s.deliverFill a r j) := by
  unfold State.deliverFill
  split
  next takes =>
    have ne : j ≠ k := by
      rintro rfl
      obtain ⟨filling, carries⟩ := takes
      obtain other | nothing := spared rfl
      · exact other filling
      · have none : (s.fillPoint j).bind (s.carried a r) = .none := Option.bind_eq_none_iff.2 fun n _ => nothing n
        rw [none] at carries
        exact nomatch carries
    exact .cascade away _ (by simpa [Work.onTask] using ne)
  next => exact .refl k s

theorem takeSamples_of_nothing (nothing : ∀ n, s.carried a r n = none) (cs : List Criterion) :
    ∀ xs, s.takeSamples a r cs xs = xs := by
  have sample : ∀ c x, s.takeSample a r c x = x := fun c x => by
    have none : x.point.bind (s.carried a r) = .none := Option.bind_eq_none_iff.2 fun n _ => nothing n
    rw [State.takeSample, none]
  induction cs with
  | nil => exact fun xs => rfl
  | cons c cs ih =>
    intro xs
    cases xs with
    | nil => rfl
    | cons x xs => rw [State.takeSamples, sample, ih]

theorem apart_deliverWindows (away : s.away k)
    (spared : j = k → (s.round k).state ≠ .stepTiming ∨ ∀ n, s.carried a r n = none) :
    Apart k s (s.deliverWindows a r j) := by
  unfold State.deliverWindows
  split
  next timing =>
    refine .updRound (fun own => ?_) away fun _ => ⟨rfl, rfl, rfl, rfl, rfl⟩
    obtain other | nothing := spared own
    · exact absurd (own ▸ timing) other
    · rw [takeSamples_of_nothing nothing]
  next => exact .refl k s

theorem apart_deliverCond (h : HeaderId) : Apart k s (s.deliverCond a r h) := by
  refine .ofWork (P := (· ≠ k)) (Q := False) (not_not.2 rfl) ?_
  unfold State.deliverCond
  split
  · exact .condSample .rfl' h _ _
  · exact .rfl'

theorem apart_deliverDrain (away : s.away k) (spared : j = k → (s.round k).state ≠ .ending
    ∨ (s.headerLoadOf k).bind (fun l => s.carried a r l.flow) = none) : Apart k s (s.deliverDrain a r j) := by
  unfold State.deliverDrain
  split
  next p carries =>
    split
    next takes =>
      refine .updRound (fun own => ?_) away fun _ => ⟨rfl, rfl, rfl, rfl, rfl⟩
      subst own
      obtain other | nothing := spared rfl
      · exact absurd takes.1 other
      · exact nomatch nothing.symm.trans carries
    next => exact .refl k s
  next => exact .refl k s

/-- Only an instrument's reply carries points. -/
theorem carried_drives {l : List (DriveStatus × Nat)} : s.carried a (.drives l) n = none := rfl

theorem carried_flow_drives {l : List (DriveStatus × Nat)} :
    (s.headerLoadOf k).bind (fun x => s.carried a (.drives l) x.flow) = none := Option.bind_eq_none_iff.2 fun _ _ => rfl

theorem showsFault_points {l : List (Nat × Quality × Nat)} : s.showsFault a (.points l) n = false := rfl

/-! ### The orders of R160 -/

/-- Orders 3 to 5 of R160 but for the drain hold: the fill, the windows and the interface. -/
def State.deliverBefore (a : Octet) (r : Reading) (s : State) : State :=
  allHeaders.foldl (fun s h => s.deliverCond a r h)
    (allSlots.foldl (fun s k => s.deliverWindows a r k)
      (allSlots.foldl (fun s k => s.deliverFill a r k) s))

theorem deliver_eq : s.deliver a r = allSlots.foldl (fun s k => s.deliverDrain a r k)
    (State.deliverBefore a r (allSlots.foldl (fun s k => s.deliverFault a r k)
      (allSlots.foldl (fun s k => s.deliverSetting k) s))) := rfl

theorem apart_settings (away : s.away k) (other : (s.round k).state ≠ .setting) :
    Apart k s (allSlots.foldl (fun s k => s.deliverSetting k) s) :=
  .foldlSelf away (fun _ _ apart here => apart_deliverSetting here fun _ => apart.record ▸ other) _

theorem apart_deliverBefore (away : s.away k)
    (fills : ∀ t, Apart k s t → (t.round k).state ≠ .stepFill ∨ ∀ n, t.carried a r n = none)
    (times : ∀ t, Apart k s t → (t.round k).state ≠ .stepTiming ∨ ∀ n, t.carried a r n = none) :
    Apart k s (s.deliverBefore a r) := by
  have filled : Apart k s (allSlots.foldl (fun s k => s.deliverFill a r k) s) :=
    .foldlSelf away (fun t _ apart here => apart_deliverFill here fun _ => fills t apart) _
  have timed := Apart.foldl (f := fun s k => s.deliverWindows a r k)
    (fun t _ apart here => apart_deliverWindows here fun _ => times t apart) away allSlots _ filled
  exact Apart.foldl (f := fun s h => s.deliverCond a r h) (fun _ h _ _ => apart_deliverCond h) away allHeaders _ timed

end deliveries

end Sys2Proof.Machine

/-! ## The causes taken, and the replies that bring one (R99, R109, R141, R158) -/

namespace Sys2Proof.Machine

open Sys2Proof

/-! ### The images of a reply (R158, R159) -/

section images

variable {s t : State} {k : Slot} {a : Octet} {r : Reading} {n i : Nat} {e : NodeEntry} {f : Frame} {d : DriveEntry}

/-- The node heard and the images written, before the deliveries (R158). -/
def State.imaged (i : Nat) (e : NodeEntry) (r : Reading) (s : State) : State :=
  (s.hearNode i e).writeReading e.address r

theorem hearNode_of_loud (loud : e.silent = false) : s.hearNode i e = { s with nodes := (s.hearNode i e).nodes } := by
  unfold State.hearNode
  dsimp only
  rw [if_neg (by simp [loud])]

theorem imaged_eq (loud : e.silent = false) : s.imaged i e r = { s with
    nodes := (s.imaged i e r).nodes, valves := (s.imaged i e r).valves
    drives := (s.imaged i e r).drives, points := (s.imaged i e r).points } := by
  unfold State.imaged
  rw [writeReading_frame, hearNode_of_loud loud]

theorem exec_frameArrivalF_tapped {octets : List Octet} (read : readFrame (s.rxF ++ octets) = some f)
    (taps : s.tapped f = some (i, e, r)) : exec (.frameArrivalF octets) s
      = .next ((State.deliver e.address r (State.imaged i e r { s with rxF := [] })).sendU
          (.relayed (s.rxF ++ octets))) := by
  have tapped : (readFrame (s.rxF ++ octets)).bind (State.tapped { s with rxF := [] }) = some (i, e, r) := by
    rw [read]
    exact taps
  refine congrArg Host.Outcome.next ?_
  unfold State.arriveF
  rw [tapped]
  rfl

theorem round_sendU (x : SentU) : (s.sendU x).round k = s.round k := rfl

/-! ### The drive of a node and channel (R148, R159) -/

/-- A drive index answers one channel of a node. -/
def State.drivesAt (a : Octet) (n channel : Nat) (s : State) : Prop := ∀ c, s.driveAt a c = some n ↔ c = channel

theorem Table.first_each {α : Type} {p : Nat → α → Bool} {g : Nat → α → α} (kept : ∀ n v, p n (g n v) = p n v)
    (t : Table α) : Table.first p (Table.each g t) = Table.first p t := by
  induction t with
  | nil => rfl
  | cons x t ih =>
    show (if p x.1 (g x.1 x.2) then some x.1 else Table.first p (Table.each g t)) = _
    rw [kept, ih]
    rfl

theorem driveAt_write {m c : Nat} {x : DriveStatus × Nat} :
    (s.updDrive m (DriveEntry.write x.1 x.2)).driveAt a c = s.driveAt a c := by
  unfold State.driveAt
  rw [State.updDrive_drives, Table.adjust_eq_each, Table.first_each fun j v => ?_]
  split <;> rfl

theorem drivesAt_of_canonical (canonical : s.tablesCanonical) (entry : Table.entry s.drives n = some d)
    (node : d.node = a) : s.drivesAt a n d.channel := by
  obtain ⟨-, -, -, ⟨sorted, -⟩, -, -, -, -, -, distinct, -⟩ := canonical
  have found : ∀ c m, s.driveAt a c = some m → ∃ d', (m, d') ∈ s.drives ∧ d'.node = a ∧ d'.channel = c := by
    intro c m at'
    obtain ⟨d', mem, answers⟩ := Table.first_eq_some at'
    exact ⟨d', mem, by simpa using answers⟩
  refine fun c => ⟨fun at' => ?_, ?_⟩
  · obtain ⟨d', mem, -, channel⟩ := found c n at'
    rw [← channel, Option.some.inj (entry.symm.trans (Table.entry_of_mem sorted mem))]
  · rintro rfl
    cases at' : s.driveAt a d.channel with
    | none =>
      have fails := Table.first_eq_none.1 at' _ (Table.mem_of_entry entry)
      simp [node] at fails
    | some m =>
      obtain ⟨d', mem, node', channel⟩ := found _ m at'
      exact congrArg some (distinct _ mem _ (Table.mem_of_entry entry) (Prod.ext (node'.trans node.symm) channel))

/-- A channel before those still to be written stands. -/
theorem entry_writeDrives_passed {l : List (DriveStatus × Nat)} {first channel : Nat} (at' : s.drivesAt a n channel)
    (passed : channel < first) : Table.entry (s.writeDrives a first l).drives n = Table.entry s.drives n := by
  induction l generalizing s first with
  | nil => rfl
  | cons x l ih =>
    unfold State.writeDrives
    dsimp only
    cases found : s.driveAt a first with
    | none => exact ih at' (Nat.lt_succ_of_lt passed)
    | some m =>
      have ne : n ≠ m := by
        rintro rfl
        exact absurd ((at' first).1 found) (Nat.ne_of_gt passed)
      have rest := ih (s := s.updDrive m (DriveEntry.write x.1 x.2)) (first := first + 1)
        (fun c => driveAt_write (s := s) ▸ at' c) (Nat.lt_succ_of_lt passed)
      dsimp only
      rw [rest, State.updDrive_drives, Table.entry_adjust_ne _ _ ne]

/-- The entry a drive node's reply leaves (R159): the channel's status and value, where the reply reaches it. -/
theorem entry_writeDrives {l : List (DriveStatus × Nat)} {first channel : Nat} (at' : s.drivesAt a n channel)
    (reach : first ≤ channel) : Table.entry (s.writeDrives a first l).drives n = (Table.entry s.drives n).map fun d =>
      (l[channel - first]?).elim d fun x => d.write x.1 x.2 := by
  induction l generalizing s first with
  | nil => simp [State.writeDrives]
  | cons x l ih =>
    unfold State.writeDrives
    dsimp only
    by_cases here : first = channel
    · subst here
      rw [(at' first).2 rfl]
      dsimp only
      rw [entry_writeDrives_passed (fun c => driveAt_write (s := s) ▸ at' c) (Nat.lt_succ_self first),
        State.updDrive_drives, Table.entry_adjust_self, Nat.sub_self]
      rfl
    · have later : first + 1 ≤ channel := Nat.lt_of_le_of_ne reach here
      have index : (x :: l)[channel - first]? = l[channel - (first + 1)]? := by
        rw [show channel - first = channel - (first + 1) + 1 by omega, List.getElem?_cons_succ]
      rw [index]
      cases found : s.driveAt a first with
      | none => exact ih at' later
      | some m =>
        have ne : n ≠ m := by
          rintro rfl
          exact here ((at' first).1 found)
        dsimp only
        rw [ih (fun c => driveAt_write (s := s) ▸ at' c) later, State.updDrive_drives, Table.entry_adjust_ne _ _ ne]

/-- What a reply shows of a drive stands through the work of the sequencer. -/
theorem showsFault_of_frame (frame : sequencerFrame s t) : t.showsFault a r n = s.showsFault a r n := by
  have seen : ∀ u : State, ∀ l, u.showsFault a (.drives l) n
      = ((Table.entry u.drives n).map DriveEntry.untouched).any fun d => d.node == a && d.status == .fault := by
    intro u l
    cases entry : Table.entry u.drives n <;> simp [State.showsFault, entry, DriveEntry.untouched]
  cases r with
  | drives l => rw [seen, seen, drive_untouched_of_frame frame]
  | valves l => rfl
  | points l => rfl

theorem heldPump_of_apart (apart : Apart k s t) : t.heldPump k = s.heldPump k := by
  unfold State.heldPump
  rw [apart.record]
  refine congrArg (Option.map _) (Option.bind_congr fun st _ => apart.frame.2.2.2.1 st)

/-- What a reply carries of a point stands through the work of the sequencer. -/
theorem carried_of_frame (frame : sequencerFrame s t) : t.carried a r n = s.carried a r n := by
  unfold State.carried
  rw [frame.1]

/-- What a drive node's reply leaves of one of its drives' entries. -/
theorem entry_imaged_drives {replies : List (DriveStatus × Nat)} (canonical : s.tablesCanonical)
    (loud : e.silent = false) (entry : Table.entry s.drives n = some d) (node : d.node = e.address) :
    Table.entry (s.imaged i e (.drives replies)).drives n
      = some ((replies[d.channel]?).elim d fun x => d.write x.1 x.2) := by
  have drives : (s.hearNode i e).drives = s.drives := by rw [hearNode_of_loud loud]
  have at' : (s.hearNode i e).drivesAt e.address n d.channel := fun c => by
    rw [State.driveAt, drives]
    exact drivesAt_of_canonical canonical entry node c
  have written := entry_writeDrives (l := replies) at' (Nat.zero_le _)
  rw [drives, entry] at written
  exact written

/-- A reply that reaches a drive's channel shows FAULT by the status it gives there (R99). -/
theorem showsFault_imaged {replies : List (DriveStatus × Nat)} (canonical : s.tablesCanonical)
    (loud : e.silent = false) (entry : Table.entry s.drives n = some d) (node : d.node = e.address)
    {x : DriveStatus × Nat} (reached : replies[d.channel]? = some x) :
    (s.imaged i e (.drives replies)).showsFault e.address (.drives replies) n = (x.1 == .fault) := by
  rw [State.showsFault, entry_imaged_drives canonical loud entry node, reached]
  simp [DriveEntry.write, node]

theorem takes_driveFault {x : Round} : x.takes .driveFault = true ↔ x.state = .stepFill ∨ x.state = .stepTiming := by
  simp [Round.takes]

/-- SEGREGATION_BREACH is taken by a wet round that holds its claim, until it is on its way out (R53, R109). -/
theorem takes_segregationBreach {x : Round} : x.takes .segregationBreach = true ↔ x.wet = true
    ∧ (x.state = .setting ∨ x.state = .waitStation ∨ x.state = .stepFill ∨ x.state = .stepTiming
      ∨ x.state = .paused ∨ x.state = .holding ∧ x.resume ≠ some .ending) := by
  cases state : x.state <;> simp [Round.takes, state, RoundState.claims]

end images

/-! ### A drive node's reply, seen from the round that holds the station (R99, R160) -/

section driven

variable {s : State} {k : Slot} {a : Octet} {replies : List (DriveStatus × Nat)} {n : Nat}

/-- Nothing of a drive node's reply but a pump's FAULT reaches a round past SETTING. -/
theorem apart_deliver_drives (away : s.away k) (other : (s.round k).state ≠ .setting)
    (spared : ∀ n, s.heldPump k = some n → s.showsFault a (.drives replies) n = true →
      (s.round k).takes .driveFault = false) : Apart k s (s.deliver a (.drives replies)) := by
  have begun := apart_settings away other
  have faulted := begun.trans (.foldlSelf (f := fun s k => s.deliverFault a (.drives replies) k) (begun.away away)
    (fun t j apart here => by
      by_cases own : j = k
      · subst own
        have both := begun.trans apart
        rw [deliverFault_of_spared fun n held shows => ?_]
        · exact .refl j t
        · rw [both.record]
          exact spared n (heldPump_of_apart both ▸ held) (showsFault_of_frame both.frame ▸ shows)
      · exact apart_deliverFault_ne here own) allSlots)
  have before := faulted.trans (apart_deliverBefore (a := a) (r := .drives replies) (faulted.away away)
    (fun _ _ => .inr fun _ => carried_drives) fun _ _ => .inr fun _ => carried_drives)
  rw [deliver_eq]
  exact .foldl (f := fun s k => s.deliverDrain a (.drives replies) k)
    (fun t j _ here => apart_deliverDrain here fun _ => .inr carried_flow_drives) away allSlots _ before

/-- A pump shown with FAULT faults the round that holds its station in STEP_FILL or STEP_TIMING. -/
theorem faulted_deliver_drives (away : s.away k) (supplied : (s.round k).state = .stepFill
    ∨ (s.round k).state = .stepTiming) (held : s.heldPump k = some n)
    (shows : s.showsFault a (.drives replies) n = true) :
    ((s.deliver a (.drives replies)).round k).faultedWith
      ⟨.driveFault, some (.drive n), (s.round k).step, s.partTime⟩ := by
  have begun := apart_settings away fun setting => by simp [setting] at supplied
  obtain ⟨t, apart, rest⟩ := foldl_allSlots_split (f := fun s k => s.deliverFault a (.drives replies) k)
    (begun.away away) fun t j here ne => apart_deliverFault_ne here ne
  have reached := begun.trans apart
  have faults : t.deliverFault a (.drives replies) k = t.cascade [.fault k .driveFault (some (.drive n))] := by
    unfold State.deliverFault
    rw [heldPump_of_apart reached, held]
    dsimp only
    rw [showsFault_of_frame reached.frame, if_pos shows]
  have takes : (t.round k).takes .driveFault = true := by
    rw [reached.record]
    exact takes_driveFault.2 supplied
  obtain ⟨w, entered⟩ := faults_of_takes (subject := some (.drive n)) takes
  rw [← faults] at entered
  have after := rest entered.queues
  have awayAfter := after.away entered.queues
  have before := after.trans (apart_deliverBefore (a := a) (r := .drives replies) awayAfter
    (fun _ _ => .inr fun _ => carried_drives) fun _ _ => .inr fun _ => carried_drives)
  have whole := Apart.foldl (f := fun s k => s.deliverDrain a (.drives replies) k)
    (fun t j _ here => apart_deliverDrain here fun _ => .inr carried_flow_drives) entered.queues allSlots _ before
  have time : t.partTime = s.partTime := by rw [reached.frame.1]
  rw [deliver_eq, whole.record, ← time, ← reached.record]
  exact entered.record

end driven

/-- Settles O43: the table of R109, HEADER_LOST at a grant, and DRIVE_FAULT by a reply. -/
theorem faultCausesTaken : Obligations.FaultCausesTaken := by
  refine ⟨fun r => ?takes, fun s k r routed none => headerLost routed none,
    fun s octets f i e replies k st l d canonical read taps loud away held load entry node => ?replies⟩
  case takes =>
    refine ⟨?_, ?_, ?_, ?_, takes_driveFault, ?_, ?_, ?_, ?_, ?_, takes_segregationBreach⟩
    all_goals simp [Round.takes, or_assoc]
  case replies =>
    dsimp only
    obtain ⟨b, imaged⟩ : ∃ b, b = State.imaged i e (.drives replies) { s with rxF := [] } := ⟨_, rfl⟩
    have shape := imaged_eq (s := { s with rxF := [] }) (i := i) (r := .drives replies) loud
    have shown := fun x => showsFault_imaged (s := { s with rxF := [] }) (i := i) (replies := replies) (x := x)
      canonical loud entry node
    have executes := exec_frameArrivalF_tapped read taps
    rw [← imaged] at shape shown executes
    have record : b.round k = s.round k := by rw [shape]; rfl
    have here : b.away k := fun st => by rw [shape]; exact away st
    have pump : b.heldPump k = some l.pump := by
      rw [State.heldPump, record, held, shape]
      exact congrArg (Option.map (·.pump)) load
    refine ⟨_, executes, fun shows supplied => ?_, fun other spared => ?_⟩
    · obtain ⟨x, reached, fault⟩ := Option.map_eq_some_iff.1 shows
      have time : b.partTime = s.partTime := by rw [shape]
      rw [round_sendU, ← record, ← time]
      exact faulted_deliver_drives here (record ▸ supplied) pump ((shown x reached).trans (by simp [fault]))
    · rw [round_sendU, ← record]
      refine (apart_deliver_drives here (record ▸ other) fun n held' shows => ?_).record
      obtain rfl : l.pump = n := Option.some.inj (pump.symm.trans held')
      obtain ⟨spares, reaches⟩ | still := spared
      · obtain ⟨x, reached⟩ : ∃ x, replies[d.channel]? = some x := ⟨_, List.getElem?_eq_getElem reaches⟩
        refine absurd ?_ spares
        rw [shown x reached] at shows
        rw [reached]
        simpa using shows
      · rw [record, ← Bool.not_eq_true, takes_driveFault]
        exact not_or.2 still

end Sys2Proof.Machine

/-! ## The drain hold (R107, R141) -/

namespace Sys2Proof.Machine

open Sys2Proof

section drain

variable {s t : State} {k : Slot} {a : Octet} {l : List (Nat × Quality × Nat)} {x : HeaderLoad} {n : Nat}
  {p : PointEntry} {e : NodeEntry}

theorem carried_points : t.carried e.address (.points l) n = some p ↔ t.carriesPoint e l n p := by
  simp [State.carried, State.carriesPoint, Option.filter_eq_some_iff]

theorem carriesPoint_sendU {y : SentU} : (t.sendU y).carriesPoint e l n p ↔ t.carriesPoint e l n p := Iff.rfl

theorem drainRunsOn_iff : s.drainRunsOn p = true
    ↔ p.quality = .good ∧ ∃ v, p.value = some v ∧ v ≤ s.config.drainFlow.toNat := by
  simp [State.drainRunsOn, Option.any_eq_true]

theorem headerLoadOf_of_apart (apart : Apart k s t) : t.headerLoadOf k = s.headerLoadOf k := by
  unfold State.headerLoadOf
  rw [apart.record]
  exact Option.bind_congr fun h _ => apart.frame.2.2.2.2 h

/-- The orders of R160 up to the drain hold leave a round in ENDING or HOLDING alone. -/
theorem apart_before_drains (away : s.away k) (late : (s.round k).state = .ending ∨ (s.round k).state = .holding) :
    Apart k s (State.deliverBefore a (.points l) (allSlots.foldl (fun s k => s.deliverFault a (.points l) k)
      (allSlots.foldl (fun s k => s.deliverSetting k) s))) := by
  have past : ∀ {st : RoundState}, st ≠ .ending → st ≠ .holding → (s.round k).state ≠ st := by
    rintro st notEnding notHolding rfl
    exact late.elim notEnding notHolding
  have begun := apart_settings away (past (by decide) (by decide))
  have faulted := begun.trans (.foldlSelf (f := fun s k => s.deliverFault a (.points l) k) (begun.away away)
    (fun t j _ here => by
      by_cases own : j = k
      · rw [deliverFault_of_spared fun n _ shows => nomatch showsFault_points.symm.trans shows]
        exact .refl k t
      · exact apart_deliverFault_ne here own) allSlots)
  refine faulted.trans (apart_deliverBefore (faulted.away away) (fun t apart => .inl ?_) fun t apart => .inl ?_)
  all_goals
    rw [(faulted.trans apart).record]
    exact past (by decide) (by decide)

/-- A round that is not in ENDING, or whose return flow the reply does not carry, takes nothing. -/
theorem apart_deliver_points (away : s.away k) (late : (s.round k).state = .ending ∨ (s.round k).state = .holding)
    (spared : (s.round k).state = .holding
      ∨ (s.headerLoadOf k).bind (fun x => s.carried a (.points l) x.flow) = none) :
    Apart k s (s.deliver a (.points l)) := by
  rw [deliver_eq]
  refine .foldl (f := fun s k => s.deliverDrain a (.points l) k) (fun t j apart here => apart_deliverDrain here
    fun _ => ?_) away allSlots _ (apart_before_drains away late)
  refine spared.imp (fun holding ending => ?_) fun nothing => ?_
  · rw [apart.record, holding] at ending
    cases ending
  · rw [headerLoadOf_of_apart apart, ← nothing]
    exact Option.bind_congr fun x _ => carried_of_frame apart.frame

/-- The return flow sample of a round in ENDING: the drain hold runs on, or starts again from 0.0 (R141). -/
theorem round_deliver_points (away : s.away k) (ending : (s.round k).state = .ending)
    (flow : (s.headerLoadOf k).bind (fun x => s.carried a (.points l) x.flow) = some p) :
    (s.deliver a (.points l)).round k = if s.drainRunsOn p then s.round k else
      { s.round k with drainHold := ⟨.running, 0, 100 * s.config.drainHold.toNat⟩ } := by
  have before := apart_before_drains (a := a) (l := l) away (.inl ending)
  obtain ⟨t, apart, rest⟩ := foldl_allSlots_split (f := fun s k => s.deliverDrain a (.points l) k)
    (before.away away) fun t j here ne => apart_deliverDrain here fun own => absurd own ne
  have reached := before.trans apart
  have flow' : (t.headerLoadOf k).bind (fun x => t.carried a (.points l) x.flow) = some p := by
    rw [headerLoadOf_of_apart reached, ← flow]
    exact Option.bind_congr fun x _ => carried_of_frame reached.frame
  have config : t.config = s.config := by rw [reached.frame.1]
  have runsOn : t.drainRunsOn p = s.drainRunsOn p := by rw [State.drainRunsOn, config, ← State.drainRunsOn]
  have own : t.deliverDrain a (.points l) k = if s.drainRunsOn p then t else
      t.updRound k fun x => { x with drainHold := ⟨.running, 0, 100 * s.config.drainHold.toNat⟩ } := by
    unfold State.deliverDrain
    rw [flow']
    dsimp only
    rw [reached.record, runsOn, config, tenths, Nat.mul_comm]
    cases s.drainRunsOn p
    · exact if_pos ⟨ending, rfl⟩
    · exact if_neg fun both => nomatch both.2
  rw [deliver_eq]
  rw [own] at rest
  split at rest
  next low => rw [(rest (reached.away away)).record, reached.record, if_pos low]
  next high => rw [(rest (reached.away away)).record, State.round_updRound, reached.record, if_neg high]

end drain

/-- Settles O47: a hold that does not run, the hold that elapses, and the reply that carries the return flow. -/
theorem drainHoldElapse : Obligations.DrainHoldElapse := by
  refine ⟨fun k s => exec_drainHoldElapse_idle, fun k s r running routed => ?elapses,
    fun s octets f i e l k h x _ read taps loud away named load => ?reply⟩
  case elapses =>
    dsimp only
    refine ⟨exec_drainHoldElapse_other running, fun ending => ⟨_, exec_drainHoldElapse_ending running ending, ?_⟩⟩
    have done : Finishes s _ _ k r :=
      finishes_pass (n := (s.round k).drainHold.limit - (s.round k).drainHold.elapsed) routed
    obtain ⟨state, endTime, result, header, drainHold, drainMax, causes⟩ := done.settled
    have events := done.events
    rw [result_pass] at result events
    exact ⟨done.frame, done.claimQueue, done.stations, done.drives, done.others, done.segments, done.disowned,
      done.header, state, endTime, result, header, drainHold, drainMax, causes, events⟩
  case reply =>
    obtain ⟨b, imaged⟩ : ∃ b, b = State.imaged i e (.points l) { s with rxF := [] } := ⟨_, rfl⟩
    have shape := imaged_eq (s := { s with rxF := [] }) (i := i) (r := .points l) loud
    have executes := exec_frameArrivalF_tapped read taps
    rw [← imaged] at shape executes
    have record : b.round k = s.round k := by rw [shape]; rfl
    have here : b.away k := fun st => by rw [shape]; exact away st
    have config : b.config = s.config := by rw [shape]
    have loaded : b.headerLoadOf k = some x := by
      rw [State.headerLoadOf, record, named, shape]
      exact load
    have delivered : Work (fun _ => True) False b (b.deliver e.address (.points l)) := deliver_work ..
    have carries : ∀ p, ((b.deliver e.address (.points l)).sendU (.relayed (s.rxF ++ octets))).carriesPoint e l x.flow p
        ↔ (b.headerLoadOf k).bind (fun x => b.carried e.address (.points l) x.flow) = some p := fun p => by
      rw [loaded, Option.bind_some, ← carried_of_frame delivered.frame, carried_points, carriesPoint_sendU]
    refine ⟨_, executes, fun p ending carried => ?_, fun spared => ?_⟩
    · have round := round_deliver_points here (record ▸ ending) ((carries p).1 carried)
      rw [record, config] at round
      have runsOn := drainRunsOn_iff (s := b) (p := p)
      rw [config] at runsOn
      rw [round_sendU, round]
      exact ⟨fun low => if_pos (runsOn.2 low), fun high => if_neg fun low => high (runsOn.1 low)⟩
    · rw [round_sendU, ← record]
      rw [← record] at spared
      refine (apart_deliver_points here (spared.imp And.left id) ?_).record
      refine spared.symm.imp id fun nothing => Option.eq_none_iff_forall_not_mem.2 fun p found => ?_
      exact nothing.2 p ((carries p).2 found)

end Sys2Proof.Machine

/-! ## Criteria: samples, windows, and what a reply appends (R119 to R122) -/

namespace Sys2Proof.Machine

open Sys2Proof

section windows

variable {c : Criterion} {x : CriterionState} {p : PointEntry} {n : Nat}

theorem passes_iff : c.passes p = true ↔ p.quality = .good ∧ ∃ v, p.value = some v
    ∧ (c.comparison = .atLeast ∧ c.limit ≤ v ∨ c.comparison = .atMost ∧ v ≤ c.limit) := by
  cases compares : c.comparison with
  | atLeast => simp [Criterion.passes, compares, Option.any_eq_true]
  | atMost => simp [Criterion.passes, compares, Option.any_eq_true]

theorem satisfied_iff : c.satisfied x = true
    ↔ x.point ≠ none ∧ x.window.length = c.window ∧ c.required ≤ x.window.count true := by
  have passed : x.window.countP id = x.window.count true := List.countP_congr fun b _ => by cases b <;> decide
  simp [Criterion.satisfied, passed, Option.isSome_iff_ne_none, and_assoc]

/-- A window that starts empty holds the newest results, at most as many as it has places (R121). -/
theorem foldl_appendResult (places : 1 ≤ n) (results : List Bool) :
    results.foldl (fun w x => appendResult n x w) [] = results.drop (results.length - n) := by
  induction results using List.reverseRecOn with
  | nil => exact List.drop_nil.symm
  | append_singleton results x ih =>
    have dropped : results.length - n + ((results.drop (results.length - n)).length + 1 - n)
        = (results ++ [x]).length - n := by
      rw [List.length_drop, List.length_append, List.length_singleton]
      omega
    have within : (results ++ [x]).length - n ≤ results.length := by
      rw [List.length_append, List.length_singleton]
      omega
    rw [List.foldl_append, ih]
    show appendResult n x (results.drop (results.length - n)) = _
    rw [appendResult, List.drop_drop, dropped, List.drop_append_of_le_length within]

end windows

section samples

variable {s t : State} {k : Slot} {a : Octet} {r : Reading} {l : List (Nat × Quality × Nat)} {c : Criterion}
  {x : CriterionState} {p : PointEntry} {m : Nat}

/-! ### The sample of a resolved point -/

theorem takeSample_of_carried (resolved : x.point = some m) (carried : s.carried a r m = some p) :
    s.takeSample a r c x = { x with window := appendResult c.window (c.passes p) x.window } := by
  rw [State.takeSample, resolved, Option.bind_some, carried]

theorem takeSample_of_not_carried (nothing : ∀ m, x.point = some m → s.carried a r m = none) :
    s.takeSample a r c x = x := by
  rw [State.takeSample, Option.bind_eq_none_iff.2 nothing]

/-- The samples a reply carries stand through the work of the sequencer. -/
theorem takeSamples_of_frame (frame : sequencerFrame s t) (cs : List Criterion) (xs : List CriterionState) :
    t.takeSamples a r cs xs = s.takeSamples a r cs xs := by
  have carried : t.carried a r = s.carried a r := funext fun _ => carried_of_frame frame
  induction cs generalizing xs with
  | nil => rfl
  | cons c cs ih =>
    cases xs with
    | nil => rfl
    | cons x xs => rw [State.takeSamples, ih, State.takeSample, carried, ← State.takeSample, State.takeSamples]

/-! ### An instrument's reply, seen from a round in STEP_TIMING -/

theorem criteriaOf_of_stepOf {step : RecipeStep} (current : s.stepOf k = some step) :
    s.criteriaOf k = step.criteria := by
  rw [State.criteriaOf, current]

theorem criteriaOf_of_apart (apart : Apart k s t) : t.criteriaOf k = s.criteriaOf k := by
  have recipes : t.recipes = s.recipes := by rw [apart.frame.1]
  unfold State.criteriaOf
  rw [stepOf_congr recipes (by rw [apart.record]) (by rw [apart.record])]

/-- An instrument's reply shows no drive, so it faults no round of its own. -/
theorem apart_deliverFaults_points (away : s.away k) :
    Apart k s (allSlots.foldl (fun s k => s.deliverFault a (.points l) k) s) :=
  .foldlSelf away (fun t j _ here => by
    by_cases own : j = k
    · rw [deliverFault_of_spared fun n _ shows => nomatch showsFault_points.symm.trans shows]
      exact .refl k t
    · exact apart_deliverFault_ne here own) allSlots

/-- The orders of R160 before the windows leave a round in STEP_TIMING alone. -/
theorem apart_before_windows (away : s.away k) (timing : (s.round k).state = .stepTiming) :
    Apart k s (allSlots.foldl (fun s k => s.deliverFill a (.points l) k)
      (allSlots.foldl (fun s k => s.deliverFault a (.points l) k)
        (allSlots.foldl (fun s k => s.deliverSetting k) s))) := by
  have begun := apart_settings away (by rw [timing]; decide)
  have faulted := begun.trans (apart_deliverFaults_points (a := a) (l := l) (begun.away away))
  refine faulted.trans (.foldlSelf (faulted.away away) (fun t j apart here => apart_deliverFill here fun _ => .inl ?_)
    allSlots)
  rw [(faulted.trans apart).record, timing]
  decide

/-- The orders of R160 behind the windows leave a round in STEP_TIMING alone. -/
theorem apart_after_windows (away : s.away k) (timing : (s.round k).state = .stepTiming) :
    Apart k s (allSlots.foldl (fun s k => s.deliverDrain a r k)
      (allHeaders.foldl (fun s h => s.deliverCond a r h) s)) := by
  have judged := Apart.foldlSelf (f := fun s h => s.deliverCond a r h) away (fun _ h _ _ => apart_deliverCond h)
    allHeaders
  refine judged.trans (.foldlSelf (judged.away away) (fun t j apart here => apart_deliverDrain here fun _ => .inl ?_)
    allSlots)
  rw [(judged.trans apart).record, timing]
  decide

/-- A reply leaves of a round in STEP_TIMING everything but the samples its criteria take (R119). -/
theorem round_deliver_samples (away : s.away k) (timing : (s.round k).state = .stepTiming) :
    (s.deliver a (.points l)).round k = { s.round k with
      criteria := s.takeSamples a (.points l) (s.criteriaOf k) (s.round k).criteria } := by
  have before := apart_before_windows (a := a) (l := l) away timing
  obtain ⟨t, apart, rest⟩ := foldl_allSlots_split (f := fun s k => s.deliverWindows a (.points l) k)
    (before.away away) fun t j here ne => apart_deliverWindows here fun own => absurd own ne
  have reached := before.trans apart
  have own : t.deliverWindows a (.points l) k = t.updRound k fun x =>
      { x with criteria := t.takeSamples a (.points l) (t.criteriaOf k) x.criteria } :=
    if_pos (by rw [reached.record]; exact timing)
  have record : (t.deliverWindows a (.points l) k).round k = { s.round k with
      criteria := s.takeSamples a (.points l) (s.criteriaOf k) (s.round k).criteria } := by
    rw [own, State.round_updRound, reached.record, criteriaOf_of_apart reached, takeSamples_of_frame reached.frame]
  have away' : (t.deliverWindows a (.points l) k).away k := by
    rw [own]
    exact reached.away away
  have sampled := rest away'
  have after := apart_after_windows (a := a) (r := .points l) (sampled.away away') (by
    rw [sampled.record, record]
    exact timing)
  exact (sampled.trans after).record.trans record

end samples

/-- Settles O56: the three readings of a window, and the reply by the samples it leaves of the round. -/
theorem criterionWindows : Obligations.CriterionWindows := by
  refine ⟨fun _ _ => passes_iff, fun _ results places => foldl_appendResult places results, fun _ _ => satisfied_iff,
    fun s octets f i e l k step _ read taps loud away timing current => ?reply⟩
  obtain ⟨b, imaged⟩ : ∃ b, b = State.imaged i e (.points l) { s with rxF := [] } := ⟨_, rfl⟩
  have shape := imaged_eq (s := { s with rxF := [] }) (i := i) (r := .points l) loud
  have executes := exec_frameArrivalF_tapped read taps
  rw [← imaged] at shape executes
  have record : b.round k = s.round k := by rw [shape]; rfl
  have current' : b.stepOf k = some step := by
    rw [← current]
    exact stepOf_congr (by rw [shape]) (by rw [record]) (by rw [record])
  have round := round_deliver_samples (a := e.address) (l := l) (fun st => by rw [shape]; exact away st)
    (record ▸ timing)
  rw [record, criteriaOf_of_stepOf current'] at round
  have carries : ∀ m p, ((b.deliver e.address (.points l)).sendU (.relayed (s.rxF ++ octets))).carriesPoint e l m p
      ↔ b.carried e.address (.points l) m = some p := fun m p => by
    rw [← carried_of_frame (deliver_work b e.address (.points l)).frame, carried_points, carriesPoint_sendU]
  refine ⟨_, executes, ?_, ?_, fun n c x listed state => ⟨fun m p resolved carried => ?_, fun nothing => ?_⟩⟩
  · rw [round_sendU, round]
  · rw [round_sendU, round, takeSamples_length]
  · rw [round_sendU, round, takeSamples_getElem? listed state,
      takeSample_of_carried resolved ((carries m p).1 carried)]
  · rw [round_sendU, round, takeSamples_getElem? listed state, takeSample_of_not_carried fun m resolved =>
      Option.eq_none_iff_forall_not_mem.2 fun p found => nothing m p resolved ((carries m p).2 found)]

end Sys2Proof.Machine

/-! ## A step that completes (R74, R75, R90, R95, R96, R123) -/

namespace Sys2Proof.Machine

open Sys2Proof

section holdTime

variable {s t : State} {k : Slot} {step : RecipeStep} (n : Nat)

/-! ### Hold accumulated and the hold time (R123) -/

theorem holdTime_eq (current : s.stepOf k = some step) : s.holdTime k = 1000 * step.holdTime := by
  rw [State.holdTime, current]
  exact Nat.mul_comm ..

theorem timing_of_inSpec (spec : s.inSpec k = true) : (s.round k).state = .stepTiming := by
  unfold State.inSpec at spec
  exact beq_iff_eq.1 (Bool.and_elim_left spec)

theorem stepComplete_iff (current : s.stepOf k = some step) : s.stepComplete k = true ↔
    (s.round k).state = .stepTiming ∧ 1000 * step.holdTime ≤ (s.round k).holdAcc ∧ (s.round k).lift = .done := by
  simp [State.stepComplete, current, holdTime_eq current, and_assoc]

/-- Hold accumulated in spec, once the part time has passed that it lacks. -/
theorem holdAcc_pass_lacks (spec : s.inSpec k = true) (current : s.stepOf k = some step) :
    ((s.pass (1000 * step.holdTime - (s.round k).holdAcc)).round k).holdAcc
      = max (s.round k).holdAcc (1000 * step.holdTime) := by
  rw [State.round_pass]
  show s.accumulated _ k = _
  rw [State.accumulated, if_pos spec, holdTime_eq current]
  omega

theorem exec_holdTimeReached_inSpec (spec : s.inSpec k = true) (current : s.stepOf k = some step) :
    exec (.holdTimeReached k) s
      = .next ((s.pass (1000 * step.holdTime - (s.round k).holdAcc)).cascade [.judge k]) := by
  have lacks : s.holdLacks k = 1000 * step.holdTime - (s.round k).holdAcc := by
    rw [State.holdLacks, holdTime_eq current]
  rw [← lacks]
  exact if_pos spec

theorem exec_holdTimeReached_outOfSpec (out : s.inSpec k = false) :
    exec (.holdTimeReached k) s = .next (s.cascade [.judge k]) :=
  if_neg (by rw [out]; exact Bool.false_ne_true)

/-! ### The next step and the linked hold across part time (R74) -/

theorem nextStep_congr (recipes : t.recipes = s.recipes) (named : (t.round k).recipe = (s.round k).recipe)
    (step : (t.round k).step = (s.round k).step) : t.nextStep k = s.nextStep k := by
  rw [State.nextStep, State.recipeOf, recipes, named, step, State.nextStep, State.recipeOf]

theorem nextStep_pass : (s.pass n).nextStep k = s.nextStep k :=
  nextStep_congr (State.pass_recipes ..) (by rw [State.round_pass]; rfl) (by rw [State.round_pass]; rfl)

/-- What a station offers a step depends on loaded fields alone. -/
theorem supplies_pass (st : StationId) : (s.pass n).supplies step st = s.supplies step st := by
  have medium : (s.pass n).offersMedium step st = s.offersMedium step st := by
    rw [State.offersMedium, State.station_pass, State.offersMedium]
  have heater : (s.pass n).hasHeater step st = s.hasHeater step st := by
    rw [State.hasHeater, State.station_pass, State.hasHeater]
  have pumpFits : (s.pass n).pumpFits step st = s.pumpFits step st := by
    rw [State.pumpFits, State.station_pass, State.pass_drives, State.pumpFits]
  have heaterFits : (s.pass n).heaterFits step st = s.heaterFits step st := by
    rw [State.heaterFits, State.station_pass, State.pass_drives, State.heaterFits]
  simp only [State.supplies, State.supplyChecks, List.all_cons, List.all_nil, State.driveLimit, medium, heater,
    pumpFits, heaterFits]

theorem linkedHold_pass : (s.pass n).linkedHold k = s.linkedHold k := by
  have held : ((s.pass n).round k).held = (s.round k).held := by rw [State.round_pass]; rfl
  unfold State.linkedHold
  rw [stepOf_pass, nextStep_pass, held]
  split
  · rw [supplies_pass]
  · rfl

theorem linkedHold_of_last (last : s.nextStep k = none) : s.linkedHold k = false := by
  unfold State.linkedHold
  rw [last]
  cases s.stepOf k <;> rfl

end holdTime

/-! ### Headers with no interface to cut (R137) -/

section uncut

variable {s t : State} {k : Slot} {h : HeaderId} {x : Target} {res : RoundResult}

/-- No interface runs at the round's header. -/
def State.uncut (s : State) (k : Slot) : Prop := ∀ h, (s.round k).header = some h → (s.header h).interface = .steady

theorem uncut_congr (headers : t.headers = s.headers) (named : (t.round k).header = (s.round k).header)
    (uncut : s.uncut k) : t.uncut k := by
  intro h own
  rw [State.header, headers, ← State.header]
  exact uncut h (named.symm.trans own)

theorem uncut_pass (n : Nat) (uncut : s.uncut k) : (s.pass n).uncut k := by
  intro h own
  rw [State.header_pass]
  rw [State.round_pass] at own
  exact uncut h own

/-- A target request to a STEADY header queues nothing. -/
theorem eventQueue_requestTarget (steady : (s.header h).interface = .steady) :
    (s.requestTarget h k x).eventQueue = s.eventQueue := by
  have cut : s.cutInterface h k = s := if_pos steady
  unfold State.requestTarget
  dsimp only
  rw [cut, judgeTarget_eq]
  rfl

theorem eventQueue_asked (uncut : s.uncut k) : (s.asked k).eventQueue = s.eventQueue := by
  unfold State.asked
  split
  next h named => exact eventQueue_requestTarget (uncut h named)
  next => rfl

/-- The ROUND_STATE of the second half of ENDING: ENDING, or HOLDING where causes stand (R106). -/
theorem eventQueue_endingTail (other : (s.round k).state ≠ .holding) (uncut : s.uncut k) :
    (s.endingTail k).eventQueue
      = (s.offer (roundStateEvent k ((s.endingTail k).round k).state none s.partTime)).eventQueue := by
  have drained : (s.draining k).eventQueue = s.eventQueue := eventQueue_asked uncut
  by_cases clear : s.causesWith k (s.endingNodes k) = ⟨false, []⟩
  · rw [endingTail_ends other clear, State.round_enter]
    exact eventQueue_enter_of k drained (by decide)
  · rw [endingTail_holds other clear, round_enterHolding, State.enterHolding, eventQueue_putOnHold, closeLift_partTime,
      partTime_of_eventQueue drained]
    exact eventQueue_offer_congr _ (closeLift_eventQueue.trans drained)

theorem beginEnding_fields : s.beginEnding k res = { s with
    valves := (s.beginEnding k res).valves, drives := (s.beginEnding k res).drives
    stations := (s.beginEnding k res).stations, rounds := (s.beginEnding k res).rounds } := by
  rw [beginEnding_eq, freeStation_eq, stopped_eq]

/-- The events of the entry into ENDING of a round that holds no station. -/
theorem eventQueue_ending_of_none (none : (s.round k).held = none) (other : (s.round k).state ≠ .holding)
    (uncut : s.uncut k) : (s.cascade [.ending k res]).eventQueue = (s.offer
      (roundStateEvent k ((s.cascade [.ending k res]).round k).state Option.none s.partTime)).eventQueue := by
  have begun : (s.beginEnding k res).eventQueue = s.eventQueue := by rw [beginEnding_fields]; rfl
  have uncut' : (s.beginEnding k res).uncut k :=
    uncut_congr (by rw [beginEnding_fields]) (by rw [round_beginEnding]; rfl) uncut
  have other' : ((s.beginEnding k res).round k).state ≠ .holding := by rw [round_beginEnding]; exact other
  rw [cascade_ending_of_none none, eventQueue_endingTail other' uncut', partTime_of_eventQueue begun]
  exact eventQueue_offer_congr _ begun

theorem step_ending_of_none (none : (s.round k).held = none) :
    ((s.cascade [.ending k res]).round k).step = (s.round k).step := by
  have begun : Work (· = k) True s (s.beginEnding k res) := Work.beginEnding (P := (· = k)) .rfl' rfl res
  rw [cascade_ending_of_none none]
  exact (Work.endingTail (P := (· = k)) begun rfl).quiet.1 k

end uncut

/-! ### The step done (R96) -/

section done

variable {s : State} {k : Slot} {st j : StationId} {next : RecipeStep}

/-- The STEP_DONE of a completed step (R96). -/
def stepDoneEvent (k : Slot) (step : Nat) (time : PartTime) : Event :=
  { bareEvent .stepDone time with slot := some k, value := some (.number step) }

theorem closeLift_of_done (done : (s.round k).lift = .done) : s.closeLift k = s := by
  unfold State.closeLift
  rw [done]
  split
  next lifted _ => cases lifted
  next => rfl

theorem finishStep_eq (done : (s.round k).lift = .done) : s.finishStep k = (s.updRound k fun r =>
    { r with wall := r.wall.stop, liftTimer := r.liftTimer.stop, criteria := [] }).offer
      (stepDoneEvent k (s.round k).step s.partTime) := by
  unfold State.finishStep
  rw [closeLift_of_done done]
  dsimp only
  rw [State.round_updRound]
  rfl

theorem finishStep_fields (done : (s.round k).lift = .done) : s.finishStep k = { s with
    rounds := (s.finishStep k).rounds
    events := (s.finishStep k).events
    overflow := (s.finishStep k).overflow } := by
  rw [finishStep_eq done, State.offer_eq]
  rfl

theorem round_finishStep (done : (s.round k).lift = .done) : (s.finishStep k).round k = { s.round k with
    wall := (s.round k).wall.stop, liftTimer := (s.round k).liftTimer.stop, criteria := [] } := by
  rw [finishStep_eq done, State.round_offer, State.round_updRound]

theorem eventQueue_finishStep (done : (s.round k).lift = .done) : (s.finishStep k).eventQueue
    = (s.offer (stepDoneEvent k (s.round k).step s.partTime)).eventQueue := by
  rw [finishStep_eq done]
  exact eventQueue_offer_congr _ rfl

/-! ### The station released at the step's end (R75) -/

/-- STEP_DONE, and the station given up. -/
def State.parted (k : Slot) (s : State) : State := (s.finishStep k).freeStation k true

theorem cascade_judge_unlinked (complete : s.stepComplete k = true) (unlinked : s.linkedHold k = false) :
    s.cascade [.judge k] = ((s.parted k).cascade (examineHeld (s.round k).held)).cascade [.next k] := by
  have judged : s.take (.judge k) = (s.parted k, examineHeld (s.round k).held ++ [.next k]) := by
    rw [State.take, State.judgeStep, if_pos complete, unlinked]
    rfl
  rw [Cascade.one, judged, Cascade.append]

theorem round_parted (done : (s.round k).lift = .done) : (s.parted k).round k = { s.round k with
    wall := (s.round k).wall.stop
    liftTimer := (s.round k).liftTimer.stop
    criteria := []
    held := none
    linked := false } := by
  rw [State.parted, round_freeStation, round_finishStep done]

theorem parted_eq (done : (s.round k).lift = .done) : s.parted k = { s with
    valves := (s.parted k).valves
    drives := (s.parted k).drives
    stations := (s.parted k).stations
    rounds := (s.parted k).rounds
    events := (s.parted k).events
    overflow := (s.parted k).overflow } := by
  unfold State.parted
  rw [freeStation_eq, finishStep_fields done]

theorem parted_work {P : Slot → Prop} {Q : Prop} (p : P k) : Work P Q s (s.parted k) :=
  Work.freeStation (Work.finishStep .rfl' p) p true

theorem eventQueue_parted (done : (s.round k).lift = .done) : (s.parted k).eventQueue
    = (s.offer (stepDoneEvent k (s.round k).step s.partTime)).eventQueue :=
  eventQueue_freeStation.trans (eventQueue_finishStep done)

theorem queue_parted : ((s.parted k).station st).queue = (s.station st).queue :=
  (parted_work (P := fun _ => True) (Q := True) trivial).quiet.2 st

theorem station_parted (done : (s.round k).lift = .done) (held : (s.round k).held = some st) :
    ((s.parted k).station st).granted = none ∧ ∀ j, j ≠ st → (s.parted k).station j = s.station j := by
  have held' : ((s.finishStep k).round k).held = some st := by rw [round_finishStep done]; exact held
  refine ⟨granted_freeStation held', fun j ne => ?_⟩
  rw [State.parted, freeStation_of_held held', State.station_updRound, State.station_updStation_ne _ _ ne, if_pos rfl,
    giveUpActuators_eq, finishStep_fields done]
  rfl

/-- With no round waiting for the released station, the next step or ENDING follows at once. -/
theorem cascade_judge_unwaited (complete : s.stepComplete k = true) (unlinked : s.linkedHold k = false)
    (empty : ∀ st, (s.round k).held = some st → (s.station st).queue = []) :
    s.cascade [.judge k] = (s.parted k).cascade [.next k] := by
  rw [cascade_judge_unlinked complete unlinked, examined_quiet fun st held => queue_parted.trans (empty st held)]

/-! ### The last step: ENDING with COMPLETED (R96, R106) -/

theorem cascade_next_of_none (last : s.nextStep k = none) : s.cascade [.next k] = s.cascade [.ending k .completed] := by
  have after : s.take (.next k) = (s, [.ending k .completed]) := by
    rw [State.take, State.afterStep, last]
  rw [Cascade.one, after]

/-- What comes between the last step's release and ENDING leaves the round as the release left it. -/
theorem cascade_judge_last (complete : s.stepComplete k = true) (done : (s.round k).lift = .done)
    (last : s.nextStep k = none) (absent : ∀ st, k ∉ (s.station st).queue) :
    ∃ w, Apart k (s.parted k) w ∧ s.cascade [.judge k] = w.cascade [.ending k .completed]
      ∧ ((∀ st, (s.round k).held = some st → (s.station st).queue = []) → w = s.parted k) := by
  have examined := examined_work (s := s.parted k) (k := k) (held := (s.round k).held)
    fun st => by rw [queue_parted]; exact absent st
  have apart := Apart.ofWork (not_not.2 rfl) examined
  refine ⟨_, apart, ?_, fun empty => examined_quiet fun st held => queue_parted.trans (empty st held)⟩
  rw [cascade_judge_unlinked complete (linkedHold_of_last last), cascade_next_of_none]
  rw [← last]
  exact nextStep_congr (by rw [apart.frame.1, parted_eq done]) (by rw [apart.record, round_parted done])
    (by rw [apart.record, round_parted done])

/-! ### The next step at another station (R66, R75, R90) -/

/-- The step index advances. -/
def State.advanced (k : Slot) (s : State) : State := s.updRound k fun r => { r with step := r.step + 1 }

theorem cascade_next_of_some (following : s.nextStep k = some next) :
    s.cascade [.next k] = (s.advanced k).cascade [.begin k] := by
  have after : s.take (.next k) = (s.advanced k, [.begin k]) := by
    rw [State.take, State.afterStep, following]
    rfl
  rw [Cascade.one, after]

theorem round_advanced : (s.advanced k).round k = { s.round k with step := (s.round k).step + 1 } :=
  State.round_updRound ..

end done

section begin

variable {s t : State} {k : Slot} {st j : StationId} {step : RecipeStep} {route : Route}

/-- The current step of a round whose step index has advanced by one. -/
theorem stepOf_of_advanced (recipes : t.recipes = s.recipes) (named : (t.round k).recipe = (s.round k).recipe)
    (advanced : (t.round k).step = (s.round k).step + 1) : t.stepOf k = s.nextStep k := by
  rw [State.stepOf, State.recipeOf, recipes, named, advanced, State.nextStep, State.recipeOf]

/-- The record at the begin of a step (R90). -/
theorem round_resetStep (current : s.stepOf k = some step) : (s.resetStep k).round k = { s.round k with
    holdAcc := 0
    fill := Timer.off
    wall := Timer.off
    supplyBegun := false
    lift := s.placeLift k step
    liftTimer := Timer.off
    criteria := [] } := by
  unfold State.resetStep
  rw [State.round_updRound, current]

theorem placement_of_choice (current : s.stepOf k = some step) (routed : s.routeOf k = some route)
    (choice : step.choice = some j) : s.placement k = some j := by
  unfold State.placement
  rw [current, routed]
  dsimp only
  rw [choice]

/-- A round that has placed its request waits at the back of a station's queue (R66). -/
def State.requesting (k : Slot) (j : StationId) (s : State) : State :=
  ((s.resetStep k).enter k .waitStation).joinQueue k j

theorem cascade_begin_requesting (unlinked : (s.round k).linked = false) (current : s.stepOf k = some step)
    (routed : s.routeOf k = some route) (choice : step.choice = some j) (granted : (s.station j).granted ≠ none) :
    s.cascade [.begin k] = s.requesting k j := by
  have entered : Work (fun _ => True) True s ((s.resetStep k).enter k .waitStation) :=
    Work.enter (Work.resetStep .rfl' trivial) trivial _
  have placed : ((s.resetStep k).enter k .waitStation).placement k = some j :=
    placement_of_choice ((stepOf_of_quiet entered).trans current) ((routeOf_of_work entered).trans routed) choice
  have unlinked' : ((s.resetStep k).round k).linked = false := by
    rw [round_resetStep current]
    exact unlinked
  have begun : s.take (.begin k) = (s.requesting k j, [.examine j]) := by
    rw [State.take, State.beginStep]
    dsimp only
    rw [unlinked']
    dsimp only
    rw [placed]
    rfl
  have busy : ((s.requesting k j).station j).granted ≠ none := by
    rw [State.requesting, State.joinQueue, State.station_updRound, State.station_updStation, State.station_enter]
    exact granted
  rw [Cascade.one, begun, Cascade.one, State.take, examine_of_granted busy, Cascade.nil]

theorem round_requesting (current : s.stepOf k = some step) : (s.requesting k j).round k = { s.round k with
    state := .waitStation
    holdAcc := 0
    fill := Timer.off
    wall := Timer.off
    supplyBegun := false
    lift := s.placeLift k step
    liftTimer := Timer.off
    criteria := []
    effective := (s.round k).given
    requestTime := some s.partTime
    ageing := s.ageingFor (s.round k).given } := by
  have config : ((s.resetStep k).enter k .waitStation).config = s.config := State.enter_config ..
  have time : ((s.resetStep k).enter k .waitStation).partTime = s.partTime := State.enter_partTime ..
  rw [State.requesting, State.joinQueue, State.round_updRound, State.round_updStation, State.round_enter,
    round_resetStep current, time]
  unfold State.ageingFor State.ageLimit
  rw [config]

theorem station_requesting :
    (s.requesting k j).station j = { s.station j with queue := (s.station j).queue ++ [k] } := by
  rw [State.requesting, State.joinQueue, State.station_updRound, State.station_updStation, State.station_enter]
  rfl

theorem station_requesting_ne (ne : st ≠ j) : (s.requesting k j).station st = s.station st := by
  rw [State.requesting, State.joinQueue, State.station_updRound, State.station_updStation_ne _ _ ne,
    State.station_enter]
  rfl

theorem eventQueue_requesting : (s.requesting k j).eventQueue
    = (s.offer (roundStateEvent k .waitStation none s.partTime)).eventQueue :=
  eventQueue_enter_of k (t := s.resetStep k) rfl (by decide)

end begin

/-! ### The supply actions of a step whose supply has not begun (R91) -/

section freshSupply

variable {s : State} {k : Slot} {st : StationId} {step : RecipeStep} {onReturn : Bool}

/-- The flags and the wall timer as the first supply of a step sets them (R91, part 3). -/
def State.wetted (k : Slot) (st : StationId) (step : RecipeStep) (s : State) : State :=
  (s.updStation st fun x => { x with linked := false }).updRound k fun r =>
    { r with wet := true, supplyBegun := true, linked := false, wall := Timer.start (seconds step.wallLimit) }

/-- Part 3 of the supply actions: flags, wall timer, and a target request. -/
theorem beginSupply_eq : s.beginSupply k st step = { s.wetted k st step with
    valves := (s.beginSupply k st step).valves
    headers := (s.beginSupply k st step).headers
    events := (s.beginSupply k st step).events
    overflow := (s.beginSupply k st step).overflow } := by
  unfold State.beginSupply
  dsimp only
  rw [← State.wetted]
  split
  · exact requestTarget_eq ..
  · rfl

theorem eventQueue_beginSupply (uncut : s.uncut k) : (s.beginSupply k st step).eventQueue = s.eventQueue := by
  have uncut' : (s.wetted k st step).uncut k :=
    uncut_congr (s := s) rfl (by rw [State.wetted, State.round_updRound]; rfl) uncut
  unfold State.beginSupply
  dsimp only
  rw [← State.wetted]
  split
  next h named => exact eventQueue_requestTarget (uncut' h named)
  next => rfl

theorem supply_of_fresh (fresh : (s.round k).supplyBegun = false) : s.supply k st step onReturn
    = ((s.fed k st step).beginSupply k st step).updRound k fun r =>
        { r with fill := ⟨.running, if onReturn then r.fill.elapsed else 0, seconds step.fillLimit⟩ } := by
  have fresh' : ((s.fed k st step).round k).supplyBegun = false := by
    rw [fed_eq]
    exact fresh
  unfold State.supply
  dsimp only
  rw [← State.fed, fresh', if_neg Bool.false_ne_true]

theorem round_supply_of_fresh (fresh : (s.round k).supplyBegun = false) :
    (s.supply k st step onReturn).round k = { s.round k with
      wet := true
      supplyBegun := true
      linked := false
      wall := ⟨.running, 0, 1000 * step.wallLimit⟩
      fill := ⟨.running, if onReturn then (s.round k).fill.elapsed else 0, 1000 * step.fillLimit⟩ } := by
  have begun : ((s.fed k st step).beginSupply k st step).round k
      = ((s.fed k st step).wetted k st step).round k := by
    rw [beginSupply_eq]
    rfl
  have fed : (s.fed k st step).round k = s.round k := by
    rw [fed_eq]
    rfl
  rw [supply_of_fresh fresh, State.round_updRound, begun, State.wetted, State.round_updRound, State.round_updStation,
    fed, Timer.start, seconds, seconds, Nat.mul_comm, Nat.mul_comm step.fillLimit]

theorem station_supply_of_fresh (fresh : (s.round k).supplyBegun = false) :
    (s.supply k st step onReturn).station st = { s.station st with linked := false } := by
  have begun : ((s.fed k st step).beginSupply k st step).station st
      = ((s.fed k st step).wetted k st step).station st := by
    rw [beginSupply_eq]
    rfl
  rw [supply_of_fresh fresh, State.station_updRound, begun, State.wetted, State.station_updRound,
    State.station_updStation, fed_eq]
  rfl

theorem eventQueue_supply_of_fresh (fresh : (s.round k).supplyBegun = false) (uncut : s.uncut k) :
    (s.supply k st step onReturn).eventQueue = s.eventQueue := by
  have uncut' : (s.fed k st step).uncut k := uncut_congr (by rw [fed_eq]) (by rw [fed_eq]; rfl) uncut
  rw [supply_of_fresh fresh, eventQueue_updRound, eventQueue_beginSupply uncut', fed_eq]
  rfl

end freshSupply

/-! ### The linked hold (R74, R90) -/

section linked

variable {s : State} {k : Slot} {st j : StationId} {step next : RecipeStep}

/-- STEP_DONE with the station kept for the next step (R74). -/
def State.linkedOn (k : Slot) (st : StationId) (s : State) : State :=
  ((s.finishStep k).updStation st fun x => { x with linked := true }).updRound k fun r =>
    { r with linked := true, step := r.step + 1 }

theorem cascade_judge_linked (complete : s.stepComplete k = true) (held : (s.round k).held = some st)
    (linked : s.linkedHold k = true) : s.cascade [.judge k] = (s.linkedOn k st).cascade [.begin k] := by
  have judged : s.take (.judge k) = (s.linkedOn k st, [.begin k]) := by
    rw [State.take, State.judgeStep, if_pos complete, held, linked]
    rfl
  rw [Cascade.one, judged]

theorem round_linkedOn (done : (s.round k).lift = .done) : (s.linkedOn k st).round k = { s.round k with
    wall := (s.round k).wall.stop
    liftTimer := (s.round k).liftTimer.stop
    criteria := []
    linked := true
    step := (s.round k).step + 1 } := by
  rw [State.linkedOn, State.round_updRound, State.round_updStation, round_finishStep done]

theorem station_linkedOn (done : (s.round k).lift = .done) :
    (s.linkedOn k st).station st = { s.station st with linked := true } := by
  rw [State.linkedOn, State.station_updRound, State.station_updStation, finishStep_fields done]
  rfl

theorem linkedOn_eq (done : (s.round k).lift = .done) : s.linkedOn k st = { s with
    stations := (s.linkedOn k st).stations
    rounds := (s.linkedOn k st).rounds
    events := (s.finishStep k).events
    overflow := (s.finishStep k).overflow } := by
  unfold State.linkedOn
  rw [finishStep_fields done]
  rfl

theorem eventQueue_linkedOn (done : (s.round k).lift = .done) : (s.linkedOn k st).eventQueue
    = (s.offer (stepDoneEvent k (s.round k).step s.partTime)).eventQueue :=
  (show (s.linkedOn k st).eventQueue = (s.finishStep k).eventQueue from rfl).trans (eventQueue_finishStep done)

/-- A step begun at the station kept: roles resolved again, causes noted (R90). -/
def State.rebegun (k : Slot) (st : StationId) (s : State) : State :=
  let t := (s.resetStep k).resolve k st
  t.noteSilent k (t.supplyNodes k ++ t.resolvedNodes k)

theorem rebegun_eq (k : Slot) (st : StationId) (s : State) :
    s.rebegun k st = { s with rounds := (s.rebegun k st).rounds } := rfl

theorem round_rebegun (current : s.stepOf k = some step) : (s.rebegun k st).round k = { s.round k with
    holdAcc := 0
    fill := Timer.off
    wall := Timer.off
    supplyBegun := false
    lift := s.placeLift k step
    liftTimer := Timer.off
    criteria := ((s.rebegun k st).round k).criteria
    causes := ((s.rebegun k st).round k).causes } := by
  rw [State.rebegun]
  dsimp only
  rw [round_noteSilent, State.resolve, State.round_updRound, round_resetStep current]

theorem station_rebegun : (s.rebegun k st).station j = s.station j := rfl

theorem eventQueue_rebegun : (s.rebegun k st).eventQueue = s.eventQueue := rfl

theorem cascade_begin_linked (current : s.stepOf k = some step) (linked : (s.round k).linked = true)
    (held : (s.round k).held = some st) : s.cascade [.begin k] = (s.rebegun k st).cascade [.fill k false] := by
  have record := round_resetStep current
  have begun : s.take (.begin k) = (s.rebegun k st, [.fill k false]) := by
    rw [State.take, State.beginStep]
    dsimp only
    rw [record, linked, held]
    rfl
  rw [Cascade.one, begun]

/-- STEP_FILL entered for the first time in a step that is not AIR, with no cause standing (R91). -/
theorem cascade_fill_fresh (clear : (s.round k).causes = ⟨false, []⟩) (current : s.stepOf k = some step)
    (held : (s.round k).held = some st) (liquid : step.medium ≠ .air) :
    s.cascade [.fill k false] = (s.filling k).supply k st step false := by
  rw [cascade_fill, enterFill_supply false clear current held, if_neg liquid, Cascade.nil]

theorem cascade_fill_caused (some : (s.round k).causes ≠ ⟨false, []⟩) :
    s.cascade [.fill k false] = s.putOnHold k .stepFill := by
  rw [cascade_fill, enterFill_hold false some, Cascade.nil]

end linked

/-! ### What comes after a completed step -/

section outcomes

variable {s : State} {k : Slot} {st j : StationId} {next : RecipeStep} {route : Route}

/-- The last step: ENDING with the result COMPLETED, or HOLDING where causes stand. -/
structure CompletesRound (s u : State) (k : Slot) : Prop where
  result : (u.round k).result = some ((s.round k).result.getD .completed)
  held : (u.round k).held = none
  step : (u.round k).step = (s.round k).step
  clear : (u.round k).causes = ⟨false, []⟩ → (u.round k).state = .ending
    ∧ (u.round k).drainHold = ⟨.running, 0, 100 * s.config.drainHold.toNat⟩
  caused : (u.round k).causes ≠ ⟨false, []⟩ → (u.round k).state = .holding ∧ (u.round k).resume = some .ending
  events : s.uncut k → (∀ st, (s.round k).held = some st → (s.station st).queue = []) →
    u.eventQueue = ((s.offer (stepDoneEvent k (s.round k).step s.partTime)).offer
      (roundStateEvent k (u.round k).state none s.partTime)).eventQueue

theorem completesRound (complete : s.stepComplete k = true) (timing : (s.round k).state = .stepTiming)
    (done : (s.round k).lift = .done) (last : s.nextStep k = none) (absent : ∀ st, k ∉ (s.station st).queue) :
    CompletesRound s (s.cascade [.judge k]) k := by
  obtain ⟨w, apart, ends, unwaited⟩ := cascade_judge_last complete done last absent
  have record : w.round k = _ := apart.record.trans (round_parted done)
  have held : (w.round k).held = none := by rw [record]
  have other : (w.round k).state ≠ .holding := by
    rw [record]
    show (s.round k).state ≠ _
    rw [timing]
    decide
  have config : w.config = s.config := by rw [apart.frame.1, parted_eq done]
  have ended := ends_of_none (res := .completed) held
  rw [ends]
  refine {
    result := by rw [ended.result, record]
    held := ended.given_up.1
    step := by rw [step_ending_of_none held, record]
    clear := fun clear => ?clear
    caused := fun some => ?caused
    events := fun uncut empty => ?events }
  case clear =>
    obtain ⟨state, -, drainHold, -⟩ := ended.clear other clear
    exact ⟨state, by rw [drainHold, config]⟩
  case caused =>
    obtain ⟨state, resume, -⟩ := ended.caused (.inr some)
    exact ⟨state, resume⟩
  case events =>
    obtain rfl := unwaited empty
    have uncut' : (s.parted k).uncut k := uncut_congr (by rw [parted_eq done]) (by rw [record]) uncut
    rw [eventQueue_ending_of_none held other uncut', show (s.parted k).partTime = s.partTime by rw [parted_eq done]]
    exact eventQueue_offer_congr _ (eventQueue_parted done)

/-- The linked hold: the next step begins at the station kept, in STEP_FILL, or in HOLDING where causes stand. -/
structure LinksOn (s u : State) (k : Slot) (st : StationId) (next : RecipeStep) : Prop where
  step : (u.round k).step = (s.round k).step + 1
  held : (u.round k).held = some st
  holdAcc : (u.round k).holdAcc = 0
  granted : (u.station st).granted = (s.station st).granted
  queue : (u.station st).queue = (s.station st).queue
  clear : (u.round k).causes = ⟨false, []⟩ → (u.round k).state = .stepFill ∧ (u.round k).linked = false
    ∧ (u.station st).linked = false ∧ (u.round k).supplyBegun = true
    ∧ (u.round k).wall = ⟨.running, 0, 1000 * next.wallLimit⟩
    ∧ (u.round k).fill = ⟨.running, 0, 1000 * next.fillLimit⟩
  caused : (u.round k).causes ≠ ⟨false, []⟩ → (u.round k).state = .holding
    ∧ (u.round k).resume = some .stepFill ∧ (u.round k).linked = true
  events : s.uncut k → u.eventQueue = ((s.offer (stepDoneEvent k (s.round k).step s.partTime)).offer
    (roundStateEvent k (u.round k).state none s.partTime)).eventQueue

theorem linksOn (complete : s.stepComplete k = true) (done : (s.round k).lift = .done)
    (following : s.nextStep k = some next) (held : (s.round k).held = some st) (linked : s.linkedHold k = true)
    (liquid : next.medium ≠ .air) : LinksOn s (s.cascade [.judge k]) k st next := by
  have linkedRecord := round_linkedOn (st := st) done
  have fields := linkedOn_eq (st := st) done
  have current : (s.linkedOn k st).stepOf k = some next :=
    (stepOf_of_advanced (by rw [fields]) (by rw [linkedRecord]) (by rw [linkedRecord])).trans following
  have record := round_rebegun (st := st) current
  have begins : s.cascade [.judge k] = ((s.linkedOn k st).rebegun k st).cascade [.fill k false] := by
    rw [cascade_judge_linked complete held linked, cascade_begin_linked current (by rw [linkedRecord])
      (by rw [linkedRecord]; exact held)]
  have station : ((s.linkedOn k st).rebegun k st).station st = { s.station st with linked := true } :=
    station_rebegun.trans (station_linkedOn done)
  have queued : ((s.linkedOn k st).rebegun k st).eventQueue
      = (s.offer (stepDoneEvent k (s.round k).step s.partTime)).eventQueue :=
    eventQueue_rebegun.trans (eventQueue_linkedOn done)
  have time : ((s.linkedOn k st).rebegun k st).partTime = s.partTime := by rw [rebegun_eq, fields]
  rw [linkedRecord] at record
  have uncut : s.uncut k → ((s.linkedOn k st).rebegun k st).uncut k :=
    uncut_congr (by rw [rebegun_eq, fields]) (by rw [record])
  have current' : ((s.linkedOn k st).rebegun k st).stepOf k = some next := by
    rw [← current]
    exact stepOf_congr (by rw [rebegun_eq]) (by rw [record, linkedRecord]) (by rw [record, linkedRecord])
  rw [begins]
  generalize (s.linkedOn k st).rebegun k st = b at record station queued time uncut current'
  have held' : (b.round k).held = some st := by rw [record]; exact held
  by_cases clear : (b.round k).causes = ⟨false, []⟩
  · have fresh : ((b.filling k).round k).supplyBegun = false := by rw [round_filling, record]
    have filled := round_supply_of_fresh (st := st) (step := next) (onReturn := false) fresh
    have kept := station_supply_of_fresh (st := st) (step := next) (onReturn := false) fresh
    have filling : (b.filling k).station st = b.station st := by rw [filling_eq]; rfl
    rw [round_filling] at filled
    rw [filling, station] at kept
    rw [cascade_fill_fresh clear current' held' liquid]
    refine {
      step := by rw [filled, record]
      held := by rw [filled]; exact held'
      holdAcc := by rw [filled, record]
      granted := by rw [kept]
      queue := by rw [kept]
      clear := fun _ => ⟨by rw [filled], by rw [filled], by rw [kept], by rw [filled], by rw [filled],
        by rw [filled]; rfl⟩
      caused := fun some => absurd (by rw [filled]; exact clear) some
      events := fun steady => ?_ }
    have uncut' : (b.filling k).uncut k :=
      uncut_congr (by rw [filling_eq]) (by rw [round_filling]) (uncut steady)
    rw [eventQueue_supply_of_fresh fresh uncut', eventQueue_filling, filled, time]
    exact eventQueue_offer_congr _ queued
  · have onHold := round_putOnHold (s := b) (k := k) .stepFill
    have kept : (b.putOnHold k .stepFill).station st = b.station st := by rw [putOnHold_eq]; rfl
    rw [station] at kept
    rw [cascade_fill_caused clear]
    refine {
      step := by rw [onHold, record]; rfl
      held := by rw [onHold]; exact held'
      holdAcc := by rw [onHold, record]; rfl
      granted := by rw [kept]
      queue := by rw [kept]
      clear := fun none => absurd (by rw [onHold] at none; exact none) clear
      caused := fun _ => ⟨by rw [onHold], by rw [onHold], by rw [onHold, record]; rfl⟩
      events := fun _ => ?_ }
    rw [eventQueue_putOnHold, onHold, time]
    exact eventQueue_offer_congr _ queued

/-- No linked hold, and the next step at a station that is not FREE: the round waits there, and the station it held
is FREE. -/
structure WaitsNext (s u : State) (k : Slot) (st j : StationId) : Prop where
  step : (u.round k).step = (s.round k).step + 1
  held : (u.round k).held = none
  state : (u.round k).state = .waitStation
  requestTime : (u.round k).requestTime = some s.partTime
  effective : (u.round k).effective = (s.round k).given
  queue : (u.station j).queue = (s.station j).queue ++ [k]
  granted : (u.station st).granted = none
  events : u.eventQueue = ((s.offer (stepDoneEvent k (s.round k).step s.partTime)).offer
    (roundStateEvent k .waitStation none s.partTime)).eventQueue

theorem waitsNext (complete : s.stepComplete k = true) (done : (s.round k).lift = .done)
    (following : s.nextStep k = some next) (held : (s.round k).held = some st) (unlinked : s.linkedHold k = false)
    (routed : s.routeOf k = some route) (choice : next.choice = some j) (empty : (s.station st).queue = [])
    (ne : j ≠ st) (granted : (s.station j).granted ≠ none) : WaitsNext s (s.cascade [.judge k]) k st j := by
  have parted := round_parted done
  have fields := parted_eq done
  have advanced : ((s.parted k).advanced k).round k = _ := round_advanced
  rw [parted] at advanced
  obtain ⟨released, others⟩ := station_parted done held
  have following' : (s.parted k).nextStep k = some next :=
    (nextStep_congr (by rw [fields]) (by rw [parted]) (by rw [parted])).trans following
  have current : ((s.parted k).advanced k).stepOf k = some next :=
    (stepOf_of_advanced (s := s) (by rw [State.advanced, State.updRound_recipes, fields]) (by rw [advanced])
      (by rw [advanced])).trans following
  have routed' : ((s.parted k).advanced k).routeOf k = some route :=
    (routeOf_congr (s := s) (by rw [State.advanced, State.updRound_routes, fields]) (by rw [advanced])).trans routed
  have waits : s.cascade [.judge k] = ((s.parted k).advanced k).requesting k j := by
    rw [cascade_judge_unwaited complete unlinked fun i held' => by
        obtain rfl : st = i := Option.some.inj (held.symm.trans held')
        exact empty,
      cascade_next_of_some following']
    refine cascade_begin_requesting (by rw [advanced]) current routed' choice ?_
    show ((s.parted k).station j).granted ≠ none
    rw [others j ne]
    exact granted
  have time : ((s.parted k).advanced k).partTime = s.partTime := by
    rw [State.advanced, State.updRound_partTime, fields]
  have record := round_requesting (j := j) current
  rw [advanced] at record
  rw [waits]
  refine {
    step := by rw [record]
    held := by rw [record]
    state := by rw [record]
    requestTime := by rw [record, time]
    effective := by rw [record]
    queue := ?queue
    granted := ?granted
    events := ?events }
  case queue =>
    rw [station_requesting]
    exact congrArg (· ++ [k]) queue_parted
  case granted =>
    rw [station_requesting_ne ne.symm]
    exact released
  case events =>
    rw [eventQueue_requesting, time]
    exact eventQueue_offer_congr _ (eventQueue_parted done)

end outcomes

/-- Settles O45: in spec by the lifts that remain, and with none left by what follows the completed step. -/
theorem holdTimeReached : Obligations.HoldTimeReached := by
  intro k s step current r p
  have current' : p.stepOf k = some step := (stepOf_pass _).trans current
  refine ⟨fun out early => ?outOfSpec, fun spec => ?inSpec⟩
  case outOfSpec =>
    rw [exec_holdTimeReached_outOfSpec out, cascade_judge_of_incomplete]
    rw [← Bool.not_eq_true, stepComplete_iff current]
    exact fun ⟨_, reached, _⟩ => absurd reached (Nat.not_le.2 early)
  case inSpec =>
    have executes : exec (.holdTimeReached k) s = .next (p.cascade [.judge k]) :=
      exec_holdTimeReached_inSpec spec current
    have holdAcc : (p.round k).holdAcc = max r.holdAcc (1000 * step.holdTime) := holdAcc_pass_lacks spec current
    have timing : (p.round k).state = .stepTiming := (state_pass _).trans (timing_of_inSpec spec)
    have lift : (p.round k).lift = r.lift := lift_pass _
    refine ⟨holdAcc, fun lifts => ?_, fun done absent => ?_⟩
    · rw [executes, cascade_judge_of_incomplete]
      rw [← Bool.not_eq_true, stepComplete_iff current', lift]
      exact fun ⟨_, _, done⟩ => lifts done
    · have done' : (p.round k).lift = .done := lift.trans done
      have complete : p.stepComplete k = true :=
        (stepComplete_iff current').2 ⟨timing, holdAcc ▸ Nat.le_max_right .., done'⟩
      have nextStep : p.nextStep k = s.nextStep k := nextStep_pass _
      have linkedHold : p.linkedHold k = s.linkedHold k := linkedHold_pass _
      have held : (p.round k).held = r.held := held_pass _
      have index : (p.round k).step = r.step := step_pass _
      have station : ∀ st, p.station st = s.station st := fun st => State.station_pass ..
      refine ⟨_, executes, (Work.anyCascade .rfl' _).frame, fun last _ => ?last,
        fun next st following own linked _ liquid => ?linked,
        fun next st j route following own unlinked routed choice empty ne granted => ?waits⟩
      case last =>
        obtain ⟨result, gone, step, clear, caused, events⟩ := completesRound complete timing done'
          (nextStep.trans last) fun st => by rw [station]; exact absent.2 st
        rw [result_pass] at result
        rw [index] at step events
        refine ⟨result, gone, step, fun none => ?_, caused, fun steady empty => events_of_eventQueue (events
          (uncut_pass _ steady) fun st own => ?_)⟩
        · rw [← State.pass_config s]
          exact clear none
        · rw [station]
          exact empty st (held.symm.trans own)
      case linked =>
        obtain ⟨step, kept, holdAcc, grants, queue, clear, caused, events⟩ := linksOn complete done'
          (nextStep.trans following) (held.trans own) (linkedHold.trans linked) liquid
        rw [index] at step events
        rw [station] at grants queue
        exact ⟨step, kept, holdAcc, grants, queue, clear, caused,
          fun steady => events_of_eventQueue (events (uncut_pass _ steady))⟩
      case waits =>
        obtain ⟨step, gone, state, requestTime, effective, queue, free, events⟩ := waitsNext complete done'
          (nextStep.trans following) (held.trans own) (linkedHold.trans unlinked) ((routeOf_pass _).trans routed) choice
          (by rw [station]; exact empty) ne (by rw [station]; exact granted)
        rw [index] at step events
        rw [station] at queue
        rw [State.round_pass] at effective
        exact ⟨step, gone, state, requestTime, effective, queue, free, events_of_eventQueue events⟩

end Sys2Proof.Machine

/-! ## Sound headers (R23, R129, R132 to R140) -/

namespace Sys2Proof.Machine

open Sys2Proof

/-! ### One header -/

section header

variable {s t : State} {x : Header} {h : HeaderId} {l : Option HeaderLoad}

@[simp] theorem mode_count (n : Nat) (t : Timer) : (t.count n).mode = t.mode := by
  unfold Timer.count
  split <;> rfl

/-- Soundness reads the modes of the timers, and part time changes none. -/
theorem sound_count (n : Nat) (sound : x.sound) :
    { x with hold := x.hold.count n, maximum := x.maximum.count n : Header }.sound := by
  simpa [Header.sound] using sound

/-- A header STEADY on DRAIN with both timers stopped (R23, R129). -/
theorem sound_of_idle (l : Option HeaderLoad) : { Header.empty with load := l : Header }.sound := by
  simp [Header.sound, Header.empty, Timer.off]

/-! ### Every header -/

theorem headersSound_of_headers (same : t.headers = s.headers) (sound : s.headersSound) : t.headersSound := by
  intro h
  rw [State.header, same]
  exact sound h

theorem headersSound_updHeader {f : Header → Header} (new : (f (s.header h)).sound) (sound : s.headersSound) :
    (s.updHeader h f).headersSound := by
  intro j
  by_cases same : j = h
  · rw [same, State.header_updHeader]
    exact new
  · rw [State.header_updHeader_ne _ _ same]
    exact sound j

theorem headersSound_foldl {β : Type} {f : State → β → State} (each : ∀ s x, s.headersSound → (f s x).headersSound)
    (l : List β) : ∀ s, s.headersSound → (l.foldl f s).headersSound := by
  induction l with
  | nil => exact fun _ => id
  | cons x l ih => exact fun s sound => ih _ (each s x sound)

/-- Headers as power-on and a failed image record leave them (R199, R202). -/
theorem headersSound_of_empty (empty : s.headers = Vector.replicate 4 Header.empty) : s.headersSound := by
  intro h
  have idle : s.header h = Header.empty := by simp [State.header, empty]
  rw [idle]
  exact sound_of_idle none

theorem headersSound_pass (n : Nat) (sound : s.headersSound) : (s.pass n).headersSound := by
  intro h
  rw [State.header_pass]
  exact sound_count n (sound h)

theorem headersSound_expire {effect : State → State} (keeps : ∀ u, u.headersSound → (effect u).headersSound)
    (x : Timer) (sound : s.headersSound) : (s.expire x effect).headersSound := by
  unfold State.expire
  split
  · exact keeps _ (headersSound_pass _ sound)
  · exact sound

end header

/-! ### The frame path -/

section frames

variable {s : State}

theorem headersSound_linkHeard (sound : s.headersSound) : s.linkHeard.headersSound := by
  by_cases silent : s.linkSilent = true
  · exact (linkHeard_work s silent).headersSound (headersSound_of_headers rfl sound)
  · unfold State.linkHeard
    rw [if_neg silent]
    exact headersSound_of_headers rfl sound

theorem headersSound_linkExpires (sound : s.headersSound) : s.linkExpires.headersSound :=
  (linkExpires_work s).headersSound (headersSound_of_headers rfl sound)

/-- A silent node stops the holds of the interfaces it samples (R138). -/
theorem headersSound_nodeExpires (i : Nat) (a : Octet) (sound : s.headersSound) :
    (s.nodeExpires i a).headersSound :=
  (nodeExpires_work s i a).headersSound (headersSound_of_headers rfl sound)

theorem Settled.headers {t : State} (h : Settled s t) : t.headers = s.headers := by rw [h.fields]

theorem headers_sendF (octets : List Octet) : (s.sendF octets).headers = s.headers := rfl

theorem headers_rebuild (a : Octet) (cause : RebuildCause) : (s.rebuild a cause).headers = s.headers := by
  have drives := (Settled.rebuildDrives a 4 0 s).headers
  have valves := (Settled.rebuildValves a 16 0 s).headers
  unfold State.rebuild
  dsimp only
  split
  · rw [State.offer_headers, headers_sendF, drives]
  · rw [State.offer_headers, headers_sendF, valves]

theorem headers_wrongForm (f : Frame) (octets : List Octet) : (s.wrongForm f octets).headers = s.headers := by
  unfold State.wrongForm
  split
  · exact headers_rebuild _ _
  · rfl

theorem headers_relayGood (f : Frame) (octets : List Octet) : (s.relayGood f octets).headers = s.headers := by
  unfold State.relayGood State.relayCommand
  split
  · split
    · split
      · exact (Settled.settleValves _ _ 0 s).headers
      · exact headers_wrongForm _ _
    · split
      · exact (Settled.settleDrives _ _ 0 s).headers
      · exact headers_wrongForm _ _
    · rfl
  · rfl

theorem headers_relayBad (octets : List Octet) : (s.relayBad octets).headers = s.headers := by
  unfold State.relayBad
  split
  · split
    · exact headers_rebuild _ _
    · rfl
  · rfl

theorem headers_writeReading (a : Octet) (r : Reading) : (s.writeReading a r).headers = s.headers := by
  rw [writeReading_frame]

theorem headersSound_sendU (x : SentU) (sound : s.headersSound) : (s.sendU x).headersSound := sound

/-- A reply's samples reach the interfaces in its deliveries (R138, R160). -/
theorem headersSound_arriveF (octets : List Octet) (sound : s.headersSound) : (s.arriveF octets).headersSound := by
  unfold State.arriveF
  refine headersSound_sendU _ ?_
  split
  next x _ =>
    obtain ⟨i, e, r⟩ := x
    have heard := (hearNode_work s i e).headersSound (headersSound_of_headers rfl sound)
    have imaged : (s.imaged i e r).headersSound := headersSound_of_headers (headers_writeReading _ _) heard
    exact (deliver_work (s.imaged i e r) e.address r).headersSound imaged
  next => exact sound

end frames

/-! ### The proof scan -/

section scan

variable {s : State}

theorem headersSound_takeHanded (sound : s.headersSound) : s.takeHanded.headersSound :=
  (Claimed.takeHanded s).headers (headersSound_of_headers rfl sound)

theorem headersSound_handOver (waits : Bool) (l : List Handover) (sound : s.headersSound) :
    (s.handOver waits l).headersSound := by
  cases waits with
  | true => exact headersSound_of_headers rfl sound
  | false => exact headersSound_takeHanded (headersSound_of_headers rfl sound)

theorem headersSound_offer (e : Event) (sound : s.headersSound) : (s.offer e).headersSound :=
  headersSound_of_headers (State.offer_headers s e) sound

theorem headersSound_judgeValve (waits : Bool) (n : Nat) (v : ValveEntry) (want : Feedback) (sound : s.headersSound) :
    (s.judgeValve waits n v want).headersSound := by
  unfold State.judgeValve
  split
  · exact headersSound_handOver _ _ (headersSound_offer _ sound)
  · split
    · exact headersSound_handOver _ _ sound
    · exact headersSound_offer _ sound

theorem headersSound_visit (waits : Bool) (n : Nat) (v : ValveEntry) (sound : s.headersSound) :
    (s.visit waits n v).headersSound := by
  unfold State.visit
  split
  · exact sound
  · split
    · exact sound
    · split
      · exact sound
      · exact headersSound_judgeValve _ _ _ _ sound

theorem headersSound_scan (sound : s.headersSound) : s.scan.headersSound := by
  have cleared : (State.clearPassed { s with visitTimer := Timer.start s.config.visitPeriod.toNat }).headersSound :=
    headersSound_foldl (f := fun s n => s.setMisses n 0) (fun _ _ => id) _
      { s with visitTimer := Timer.start s.config.visitPeriod.toNat } sound
  unfold State.scan State.scanWith
  dsimp only
  split
  · exact headersSound_visit _ _ _ cleared
  · exact cleared

end scan

/-! ### Requests -/

section requests

variable {s t : State} {k : Slot}

/-- A header as written, or written empty, is STEADY on DRAIN (R23); the walk grants claims (R47). -/
theorem headersSound_takeWrite (w : TableWrite) (sound : s.headersSound) : (s.takeWrite w).headersSound := by
  have applied : (s.applyWrite w).headersSound := by
    cases w with
    | unknown code => exact sound
    | empty table index =>
      cases table with
      | header =>
        unfold State.applyWrite State.removeEntry
        dsimp only
        split
        · exact headersSound_updHeader (sound_of_idle none) sound
        · exact sound
      | station =>
        unfold State.applyWrite State.removeEntry
        dsimp only
        split <;> exact sound
      | nodeMap | segment | valve | drive | point | route | recipe => exact sound
    | full index content =>
      cases content with
      | header f =>
        unfold State.applyWrite State.putContent
        dsimp only
        split
        · exact headersSound_updHeader (sound_of_idle _) sound
        · exact sound
      | station f =>
        unfold State.applyWrite State.putContent
        dsimp only
        split <;> exact sound
      | nodeMap f | segment f | valve f | drive f | point f | route f | recipe l => exact sound
  unfold State.takeWrite
  dsimp only
  split
  · exact (Claimed.walk _).headers applied
  · exact applied

/-! The five round controls stay within the claim arbiter's frame (R103 to R105, R110, R111). -/

theorem Claimed.cascade (s : State) (ts : List Task) : Claimed s (s.cascade ts) := .ofWork (.anyCascade .rfl' ts)

theorem pauseRound_claimed (paused : pauseRound k s = some t) : Claimed s t := by
  have suspended : Claimed s (s.suspend k) := .ofWork (suspend_work (P := fun _ => True) (Q := True) trivial)
  unfold pauseRound at paused
  split at paused
  · exact Option.some.inj paused ▸ suspended
  · exact Option.some.inj paused ▸ suspended
  · cases paused

theorem resumeRound_claimed (resumed : resumeRound k s = some t) : Claimed s t := by
  unfold resumeRound at resumed
  split at resumed
  · exact Option.some.inj resumed ▸ (Claimed.updRound s k _).trans (.cascade _ _)
  · cases resumed

theorem abortRound_claimed (aborted : abortRound k s = some t) : Claimed s t := by
  have waiting : Claimed s ((s.leaveQueues k).cascade [.ending k .aborted]) :=
    .ofWork (Work.anyCascade (Work.leaveQueues .rfl' trivial) _)
  unfold abortRound at aborted
  cases state : (s.round k).state <;> rw [state] at aborted <;> dsimp only at aborted
  case idle | done | faulted => cases aborted
  case waitRoute => exact Option.some.inj aborted ▸ .abandonWait s k
  case waitStation => exact Option.some.inj aborted ▸ waiting
  case setting | stepFill | stepTiming | paused => exact Option.some.inj aborted ▸ .cascade _ _
  case ending => exact Option.some.inj aborted ▸ .rfl'
  case holding =>
    split at aborted
    · exact Option.some.inj aborted ▸ .rfl'
    · exact Option.some.inj aborted ▸ .cascade _ _

theorem releaseRound_claimed (released : releaseRound k s = some t) : Claimed s t := by
  unfold releaseRound at released
  split at released
  · split at released
    · exact Option.some.inj released ▸ .releaseBreach s k
    · exact Option.some.inj released ▸ (Claimed.updRound s k _).trans (.cascade _ _)
  · cases released

theorem clearRound_claimed (cleared : clearRound k s = some t) : Claimed s t := by
  unfold clearRound at cleared
  split at cleared
  · exact Option.some.inj cleared ▸ (Claimed.updRound s k _).trans (.enter _ _ _)
  · cases cleared

/-- Part 4 of R204: every header is STEADY on DRAIN. -/
theorem headersSound_freeAll (sound : s.headersSound) : s.freeAll.headersSound :=
  headersSound_foldl (f := fun s h => s.updHeader h fun x => { Header.empty with load := x.load })
    (fun _ _ => headersSound_updHeader (sound_of_idle _)) allHeaders _
    (headersSound_foldl (f := fun s k => s.updStation k fun x => { x with granted := none, linked := false })
      (fun _ _ => id) allStations s sound)

theorem headersSound_suspectRoute (sound : s.headersSound) : (s.suspectRoute k).headersSound := by
  unfold State.suspectRoute
  split
  · exact (Claimed.setSegStates s _ _).headers sound
  · exact sound

theorem headersSound_dropRound (sound : s.headersSound) : (s.dropRound k).headersSound := by
  unfold State.dropRound
  split <;> exact sound

theorem headersSound_dropOwners (sound : s.headersSound) : s.dropOwners.headersSound := sound

theorem headersSound_restarted (sound : s.headersSound) : s.restarted.headersSound :=
  headersSound_offer (s := { s with staging := none, lastFetch := none, events := [], overflow := false }) _ sound

theorem headersSound_restartAll (sound : s.headersSound) : s.restartAll.headersSound := by
  have suspected := headersSound_foldl (fun _ k => headersSound_suspectRoute (k := k)) allSlots s sound
  have dropped := headersSound_foldl (fun _ k => headersSound_dropRound (k := k)) allSlots _ suspected
  unfold State.restartAll
  exact headersSound_restarted (headersSound_freeAll (headersSound_dropOwners dropped))

/-- An action that keeps every header sound. -/
def Action.keepsSound (act : Action) : Prop := ∀ s : State, s.headersSound → (act s).1.headersSound

theorem headersSound_requestArrives {act : Action} (keeps : act.keepsSound) (a : Ask) (sound : s.headersSound) :
    (s.requestArrives a act).headersSound := by
  refine headersSound_linkHeard ?_
  unfold State.takeRequest
  split
  · exact sound
  · split
    · exact sound
    · exact keeps _ sound

theorem badRequest_keepsSound : badRequest.keepsSound := fun _ => id

theorem control_keepsSound {act : Slot → State → Option State} (claimed : ∀ {k s t}, act k s = some t → Claimed s t)
    (slot : Octet) : (control act slot).keepsSound := by
  intro s sound
  unfold control
  split
  · exact sound
  · split
    next done => exact (claimed done).headers sound
    next => exact sound

theorem controlAction_keepsSound (slot action : Octet) : (controlAction slot action).keepsSound := by
  unfold controlAction
  split
  · exact control_keepsSound pauseRound_claimed slot
  · exact control_keepsSound resumeRound_claimed slot
  · exact control_keepsSound abortRound_claimed slot
  · exact control_keepsSound releaseRound_claimed slot
  · exact control_keepsSound clearRound_claimed slot
  · intro s sound
    dsimp only
    split <;> exact sound

theorem onSegment_keepsSound {act : Nat → SegmentState → Action} (keeps : ∀ n st, (act n st).keepsSound)
    (segment : Octet) : (onSegment segment act).keepsSound := by
  intro s sound
  unfold onSegment
  split
  · split
    · exact keeps _ _ s sound
    · exact sound
  · exact sound

/-- A segment that becomes FREE, and the walk that follows (R60, R62). -/
theorem headersSound_setFree (n : Nat) (sound : s.headersSound) : (s.setSegState n .free).walk.headersSound :=
  ((Claimed.setSegState s n .free).trans (.walk _)).headers sound

theorem markAction_keepsSound (segment mark : Octet) : (markAction segment mark).keepsSound := by
  unfold markAction
  split
  · refine onSegment_keepsSound (fun n st s sound => ?_) segment
    unfold markFree
    split
    · exact sound
    · exact headersSound_setFree n sound
    · exact sound
  · refine onSegment_keepsSound (fun n st s sound => ?_) segment
    unfold markProduct
    split
    · split <;> exact sound
    · exact sound
    · exact sound
  · exact onSegment_keepsSound (fun _ _ => badRequest_keepsSound) segment

theorem fetchAction_keepsSound (mode count : Octet) : (fetchAction mode count).keepsSound := by
  unfold fetchAction
  split <;> intro s sound
  · unfold fetchTake
    split <;> exact sound
  · unfold fetchRepeat
    split
    · split <;> exact sound
    · exact sound
  · exact sound

/-- Every request of the table (R183). -/
theorem actionOf_keepsSound (r : Request) : (actionOf r).keepsSound := by
  intro s sound
  cases r with
  | configRead => exact sound
  | roundControl slot action => exact controlAction_keepsSound slot action s sound
  | segmentMark segment mark => exact markAction_keepsSound segment mark s sound
  | tableWrite w =>
    unfold actionOf writeTable1
    dsimp only
    split
    · exact sound
    · rw [dropStaging_eq]
      exact headersSound_takeWrite w sound
  | recipeSecondPart index steps =>
    unfold actionOf completeRecipe
    dsimp only
    split
    · exact sound
    · split
      · exact sound
      · split
        · exact sound
        · exact headersSound_takeWrite _ sound
  | roundStart slot recipe route cls =>
    unfold actionOf startAction
    dsimp only
    split
    · exact sound
    · split
      · exact sound
      · split
        · exact sound
        · split
          · exact sound
          · split
            · exact sound
            · exact (Claimed.startRound _ _ _ _ _).headers sound
  | suspectClear segment =>
    refine onSegment_keepsSound (fun n st s sound => ?_) segment s sound
    unfold clearSuspect
    split
    · exact headersSound_setFree n sound
    · exact sound
  | restart =>
    unfold actionOf restartAction
    dsimp only
    split
    · exact sound
    · exact headersSound_restartAll sound
  | configWrite record =>
    unfold actionOf writeConfig
    dsimp only
    split <;> exact sound
  | recipeFirstPart index count steps =>
    unfold actionOf stageFirst
    dsimp only
    split <;> exact sound
  | tableRead table index part =>
    unfold actionOf readTable
    dsimp only
    split
    · exact sound
    · split
      · exact sound
      · split <;> exact sound
  | roundRead slot =>
    unfold actionOf readRound
    dsimp only
    split <;> exact sound
  | eventFetch mode count => exact fetchAction_keepsSound mode count s sound

theorem frameAction_keepsSound (f : Frame) : (frameAction f).keepsSound := by
  unfold frameAction
  split
  · split
    · exact actionOf_keepsSound _
    · exact badRequest_keepsSound
  · exact badRequest_keepsSound

theorem headersSound_arriveU (octets : List Octet) (sound : s.headersSound) : (s.arriveU octets).headersSound := by
  unfold State.arriveU
  split
  · split
    · exact headersSound_requestArrives (frameAction_keepsSound _) _ sound
    · exact headersSound_linkHeard (headersSound_of_headers (headers_relayGood _ _) sound)
  · exact headersSound_of_headers (headers_relayBad _) sound

/-- A command that carries a request is the request's arrival, as what it asks or as a BAD_REQUEST (R183, log 6). -/
theorem exec_of_request {i : Instr} {a : Ask} {r : Request} (carries : i.request? = some (a, r)) (s : State) :
    exec i s = .next (s.requestArrives a (actionOf r)) ∨ exec i s = .next (s.requestArrives a badRequest) := by
  have judged : ∀ (c : Prop) [Decidable c] (act : Action),
      State.requestArrives a (if c then act else badRequest) s = s.requestArrives a act
        ∨ State.requestArrives a (if c then act else badRequest) s = s.requestArrives a badRequest := by
    intro c _ act
    by_cases holds : c
    · exact .inl (by rw [if_pos holds])
    · exact .inr (by rw [if_neg holds])
  cases i with
  | recipeFirstPart _ index count steps =>
    cases carries
    exact (judged _ _).imp (congrArg Host.Outcome.next) (congrArg Host.Outcome.next)
  | tableRead _ table index part =>
    cases carries
    exact (judged _ _).imp (congrArg Host.Outcome.next) (congrArg Host.Outcome.next)
  | _ => cases carries <;> exact .inl rfl

end requests

/-! ### The image -/

section image

variable {s t : State}

theorem headers_imageBad (cause : ImageCause) (record : Option Nat) : (s.imageBad cause record).headers = s.headers :=
  State.offer_headers _ _

theorem headers_imageLoaded (applied : Nat) : (s.imageLoaded applied).headers = s.headers := State.offer_headers _ _

theorem headers_readHeader (octets : List Octet) : (s.readHeader octets).headers = s.headers := by
  unfold State.readHeader
  split
  · split
    · rfl
    · split
      · exact State.offer_headers _ _
      · exact headers_imageBad _ _
  · exact headers_imageBad _ _

theorem headers_endFirstPass (length : Nat) (check : Word16) (octets : List Octet) :
    (s.endFirstPass length check octets).headers = s.headers := by
  unfold State.endFirstPass
  split
  · exact headers_imageBad _ _
  · split
    · exact headers_imageBad _ _
    · split
      · exact headers_imageLoaded _
      · rfl

/-- A record that fails leaves every header entry empty (R202). -/
theorem headersSound_failRecord (cause : ImageCause) (record : Nat) : (s.failRecord cause record).headersSound :=
  headersSound_of_headers (headers_imageBad _ _) (headersSound_of_empty rfl)

theorem headersSound_applyRecord {r : ImageRecord} (applied : s.applyRecord r = some t) (sound : s.headersSound) :
    t.headersSound := by
  unfold State.applyRecord at applied
  split at applied
  · split at applied
    · cases applied
    · exact Option.some.inj applied ▸ sound
  · split at applied
    · cases applied
    · exact Option.some.inj applied ▸ headersSound_takeWrite _ sound

theorem headersSound_takeRecord (length position applied n : Nat) (octets : List Octet) (sound : s.headersSound) :
    (s.takeRecord length position applied n octets).headersSound := by
  unfold State.takeRecord
  split
  next => exact headersSound_failRecord _ _
  next t taken =>
    obtain ⟨r, -, applied⟩ := Option.bind_eq_some_iff.1 taken
    have sound := headersSound_applyRecord applied sound
    split
    · exact headersSound_of_headers (headers_imageLoaded _) sound
    · exact sound

theorem headersSound_readRecord (length position applied : Nat) (octets : List Octet) (sound : s.headersSound) :
    (s.readRecord length position applied octets).headersSound := by
  unfold State.readRecord
  dsimp only
  split
  · exact headersSound_failRecord _ _
  · split <;> exact headersSound_failRecord _ _
  · split
    · exact headersSound_failRecord _ _
    · split
      · exact headersSound_failRecord _ _
      · exact headersSound_takeRecord _ _ _ _ _ sound

end image

/-! ### Timers and the step -/

section steps

variable {s t : State} {k : Slot}

theorem headers_age : (s.age k).headers = s.headers := by
  unfold State.age
  split
  · exact State.offer_headers _ _
  · exact State.offer_headers _ _
  · rfl

theorem liftElapses_claimed : Claimed s (s.liftElapses k) := by
  have lifted : ∀ n p, Claimed s (s.startLifted k n p) := fun n p =>
    .ofWork (Work.startLifted (P := fun _ => True) (Q := True) .rfl' trivial n p)
  unfold State.liftElapses State.nextPulse
  split
  · exact .ofWork (Work.startClosed (P := fun _ => True) (Q := True) .rfl' trivial _ _)
  · split
    · exact lifted _ _
    · split
      · exact lifted _ _
      · exact (Claimed.updRound s k _).trans (.cascade _ _)
  · exact .rfl'

theorem drainElapses_claimed : Claimed s (if (s.round k).state = .ending then s.finishRound k else s) := by
  split
  · exact .finishRound s k
  · exact .rfl'

theorem headersSound_tick (sound : s.headersSound) : s.tick.headersSound := by
  unfold State.tick
  split
  · exact headersSound_takeHanded sound
  · exact headersSound_pass 1 sound
  · exact sound

/-- A command that ends in a state with sound headers. -/
theorem headersSound_of_next {u : State} (e : Host.Outcome.next (φ := Fault) (ρ := Refusal) u = .next t)
    (sound : u.headersSound) : t.headersSound := by
  cases e
  exact sound

theorem headersSound_exec {i : Instr} (sound : s.headersSound) (e : exec i s = .next t) : t.headersSound := by
  have timer : ∀ {effect : State → State} {x : Timer}, (∀ u, Claimed u (effect u)) →
      .next (s.expire x effect) = Host.Outcome.next (φ := Fault) (ρ := Refusal) t → t.headersSound :=
    fun claimed e => headersSound_of_next e (headersSound_expire (fun u => (claimed u).headers) _ sound)
  have interface : ∀ {effect : State → State} {x : Timer}, (∀ u, Work (fun _ => True) True u (effect u)) →
      .next (s.expire x effect) = Host.Outcome.next (φ := Fault) (ρ := Refusal) t → t.headersSound :=
    fun work => timer fun u => .ofWork (work u)
  cases request : i.request? with
  | some x =>
    obtain ⟨a, r⟩ := x
    obtain performed | bad := exec_of_request request s
    · exact headersSound_of_next (performed.symm.trans e)
        (headersSound_requestArrives (actionOf_keepsSound r) a sound)
    · exact headersSound_of_next (bad.symm.trans e) (headersSound_requestArrives badRequest_keepsSound a sound)
  | none =>
    cases i with
    | powerOn => exact headersSound_of_next e (headersSound_of_empty rfl)
    | imageHeaderRead octets =>
      simp only [exec, execImageHeaderRead] at e
      split at e
      · exact headersSound_of_next e (headersSound_of_headers (headers_readHeader octets) sound)
      · exact headersSound_of_next e sound
    | imageFirstPassEnd octets =>
      simp only [exec, execImageFirstPassEnd] at e
      split at e
      · exact headersSound_of_next e (headersSound_of_headers (headers_endFirstPass _ _ octets) sound)
      · exact headersSound_of_next e sound
    | imageRecordApply octets =>
      simp only [exec, execImageRecordApply] at e
      split at e
      · exact headersSound_of_next e (headersSound_readRecord _ _ _ octets sound)
      · exact headersSound_of_next e sound
    | frameArrivalU octets =>
      exact headersSound_of_next e (headersSound_arriveU (s := { s with rxU := [] }) (s.rxU ++ octets) sound)
    | frameArrivalF octets =>
      exact headersSound_of_next e (headersSound_arriveF (s := { s with rxF := [] }) (s.rxF ++ octets) sound)
    | linkSilenceExpiry =>
      exact headersSound_of_next e (headersSound_expire (fun _ => headersSound_linkExpires) _ sound)
    | nodeSilenceExpiry node =>
      simp only [exec, execNodeSilenceExpiry] at e
      split at e
      · exact headersSound_of_next e (headersSound_expire (fun _ => headersSound_nodeExpires _ _) _ sound)
      · exact headersSound_of_next e sound
    | answerSent => exact headersSound_of_next (u := s.answerLeaves) e sound
    | ageingTimerExpiry k =>
      exact headersSound_of_next e (headersSound_expire (fun _ => headersSound_of_headers headers_age) _ sound)
    | travelTimerExpiry k | fillTimerExpiry k | wallTimerExpiry k | holdLimitExpiry k | drainMaximumExpiry k =>
      exact timer (fun _ => .cascade _ _) e
    | liftTimerExpiry k => exact timer (fun _ => liftElapses_claimed) e
    | drainHoldElapse k => exact timer (fun _ => drainElapses_claimed) e
    | holdTimeReached k =>
      simp only [exec, execHoldTimeReached] at e
      split at e
      · exact headersSound_of_next e ((Claimed.cascade _ _).headers (headersSound_pass _ sound))
      · exact headersSound_of_next e ((Claimed.cascade _ _).headers sound)
    | interfaceOutHoldElapse h =>
      simp only [exec, execInterfaceOutHoldElapse] at e
      split at e
      · exact interface (fun _ => Work.takePending .rfl' h) e
      · exact headersSound_of_next e sound
    | interfaceInHoldElapse h =>
      simp only [exec, execInterfaceInHoldElapse] at e
      split at e
      · exact interface (fun _ => Work.finishIn .rfl' h) e
      · exact headersSound_of_next e sound
    | interfaceMaximumExpiry h => exact interface (fun _ => Work.interfaceLong .rfl' h) e
    | visitTimerExpiry =>
      exact headersSound_of_next e
        (headersSound_expire (fun _ => headersSound_scan) _ (headersSound_takeHanded sound))
    | configWrite | configRead | tableWrite | recipeFirstPart | recipeSecondPart | tableRead | roundStart | pause
    | resume | abort | release | clear | roundRead | segmentMarkProduct | segmentMarkFree | suspectClear
    | eventFetchTake | eventFetchRepeat | restart => cases request

end steps

/-- Settles O52: the header controller's own operations keep every header sound, a header written, restarted or emptied
is STEADY on DRAIN, part time changes no mode, and nothing else writes a header. -/
theorem stepKeepsHeadersSound : Obligations.StepKeepsHeadersSound := by
  intro s t sound e
  unfold step at e
  split at e
  next i rest _ => exact headersSound_exec (s := { s with pending := rest }) sound e
  next => exact headersSound_of_next e (headersSound_tick sound)

end Sys2Proof.Machine

/-! ## The interface of a header (R130, R132 to R138) -/

namespace Sys2Proof.Machine

open Sys2Proof

/-! ### What a switch leaves (R130) -/

section switch

variable {h j : HeaderId} {l : HeaderLoad} {s p b u : State} {target : Target} {n : Nat} {v : ValveEntry}

theorem untouched_command {now : PartTime} {x : Position} : (v.command now x).untouched = v.untouched := by
  unfold ValveEntry.command
  split <;> rfl

/-- The serving diverter valve is commanded OPEN, the others CLOSE. -/
theorem entry_switch (loaded : (s.header h).load = some l) (diverts : n ∈ l.diverters) :
    Table.entry (s.switch h target).valves n = (Table.entry s.valves n).map
      (ValveEntry.command s.partTime (if l.serving target = some n then .open else .close)) := by
  rw [valves_switch loaded]
  refine entry_commandValves (List.mem_map_of_mem diverts) fun y mem same => ?_
  obtain ⟨m, -, rfl⟩ := List.mem_map.1 mem
  obtain rfl : m = n := same
  rfl

/-- The header controller finds in `b` the valves, configuration, points and silent nodes of `s`, the time of `p`, and
every header but `h` as in `p`. -/
structure Stands (h : HeaderId) (s p b : State) : Prop where
  headers : ∀ j, j ≠ h → b.header j = p.header j
  time : b.partTime = p.partTime
  valves : b.valves = s.valves
  config : b.config = s.config
  points : b.points = s.points
  silent : b.nodeSilent = s.nodeSilent

theorem nodeSilent_pass (n : Nat) : (s.pass n).nodeSilent = s.nodeSilent := by
  funext a
  have index : (s.pass n).nodeIndex a = s.nodeIndex a := by
    unfold State.nodeIndex
    rw [State.pass_nodes]
    refine Table.first_each (fun _ _ => ?_) _
    rfl
  unfold State.nodeSilent State.nodeAt
  rw [index, State.pass_nodes]
  cases s.nodeIndex a with
  | none => rfl
  | some i =>
    rw [Option.bind_some, Option.bind_some, Table.entry_each]
    cases Table.entry s.nodes i <;> rfl

theorem Stands.pass (n : Nat) : Stands h s (s.pass n) (s.pass n) :=
  ⟨fun _ _ => rfl, rfl, State.pass_valves s n, State.pass_config s n, State.pass_points s n, nodeSilent_pass n⟩

theorem Stands.offer (stands : Stands h s p b) (e : Event) : Stands h s p (b.offer e) := by
  rw [State.offer_eq]
  exact ⟨stands.headers, stands.time, stands.valves, stands.config, stands.points, stands.silent⟩

theorem Stands.steady (stands : Stands h s p b) : Stands h s p (b.steady h) :=
  ⟨fun j ne => (State.header_updHeader_ne b _ ne).trans (stands.headers j ne), stands.time, stands.valves,
    stands.config, stands.points, stands.silent⟩

/-- Header `h` has been switched to a target between `p` and `u`, whose valves were those of `s`. -/
def Diverted (h : HeaderId) (l : HeaderLoad) (s p u : State) (target : Target) : Prop :=
  (∀ j, j ≠ h → u.header j = p.header j)
  ∧ ∀ n v, Table.entry s.valves n = some v → ∃ w, Table.entry u.valves n = some w
    ∧ w.untouched = v.untouched ∧ w.owner = v.owner
    ∧ (n ∉ l.diverters → w = v)
    ∧ (n ∈ l.diverters → w.commanded = some (if l.serving target = some n then .open else .close))
    ∧ (w.commanded = v.commanded → w.changed = v.changed)
    ∧ (w.commanded ≠ v.commanded → w.changed = some p.partTime)

theorem diverted_switch (stands : Stands h s p b) (loaded : (b.header h).load = some l) :
    Diverted h l s p (b.switch h target) target := by
  refine ⟨fun j ne => (header_switch_ne ne).trans (stands.headers j ne), fun n v entry => ?_⟩
  rw [← stands.valves] at entry
  by_cases diverts : n ∈ l.diverters
  · obtain ⟨x, position⟩ : ∃ x, x = if l.serving target = some n then Position.open else .close := ⟨_, rfl⟩
    refine ⟨v.command b.partTime x, by rw [entry_switch loaded diverts, entry, Option.map_some, position],
      untouched_command, owner_command, fun other => absurd diverts other,
      fun _ => by rw [commanded_command, position], fun same => ?_, fun differs => ?_⟩
    · rw [commanded_command] at same
      rw [command_of_eq same.symm]
    · rw [commanded_command] at differs
      rw [changed_command_of_ne (Ne.symm differs), stands.time]
  · have kept := entry_switch_ne (x := target) fun x loads => Option.some.inj (loaded.symm.trans loads) ▸ diverts
    exact ⟨v, kept.trans entry, rfl, rfl, fun _ => rfl, fun diverted => absurd diverted diverts, fun _ => rfl,
      fun differs => absurd rfl differs⟩

/-- An edit of the switched header alone. -/
theorem Diverted.updHeader (diverted : Diverted h l s p u target) (f : Header → Header) :
    Diverted h l s p (u.updHeader h f) target :=
  ⟨fun j ne => (State.header_updHeader_ne u f ne).trans (diverted.1 j ne), diverted.2⟩

end switch

/-! ### How an interface ends (R133, R135, R136) -/

section ends

variable {h : HeaderId} {l : HeaderLoad} {s p b u : State} {target : Target}

/-- Header `h` is STEADY on a target. -/
def SteadyOn (h : HeaderId) (l : HeaderLoad) (u : State) (target : Target) : Prop :=
  (u.header h).load = some l ∧ (u.header h).current = target ∧ (u.header h).pending = none
  ∧ (u.header h).interface = .steady ∧ (u.header h).hold.mode = .stopped ∧ (u.header h).maximum.mode = .stopped

theorem header_steady : (s.steady h).header h = { s.header h with
    pending := none, interface := .steady, hold := (s.header h).hold.stop, maximum := (s.header h).maximum.stop } :=
  State.header_updHeader ..

theorem steadyOn_steady (loaded : (u.header h).load = some l) (current : (u.header h).current = target) :
    SteadyOn h l (u.steady h) target := by
  unfold SteadyOn
  rw [header_steady]
  exact ⟨loaded, current, rfl, rfl, rfl, rfl⟩

theorem steadyOn_switch (loaded : (b.header h).load = some l) : SteadyOn h l ((b.switch h target).steady h) target := by
  refine steadyOn_steady ?_ ?_ <;> rw [header_switch]
  exact loaded

/-- The header as an interface-in toward a target begins (R134): on DRAIN, both timers from 0.0, the hold stopped there
while the conductivity point's node is silent (R138, log 36). -/
def beginning (l : HeaderLoad) (s : State) (target : Target) : Header :=
  ⟨some l, .drain, some target, .interfaceIn,
    ⟨if (l.cond.bind s.pointNode).any s.nodeSilent then .stopped else .running, 0,
      100 * s.config.interfaceHold.toNat⟩,
    ⟨.running, 0, 1000 * s.config.interfaceMax.toNat⟩⟩

theorem beginHold_eq (loaded : (s.header h).load = some l) : s.beginHold h
    = ⟨if (l.cond.bind s.pointNode).any s.nodeSilent then .stopped else .running, 0,
      100 * s.config.interfaceHold.toNat⟩ := by
  unfold State.beginHold State.condSilent State.interfaceHoldLimit
  rw [loaded, Option.bind_some, tenths, Nat.mul_comm]
  split <;> rfl

theorem header_beginIn (loaded : (s.header h).load = some l) :
    (s.beginIn h target).header h = beginning l s target := by
  have switched : ((s.switch h .drain).header h).load = some l := by rw [header_switch]; exact loaded
  unfold State.beginIn beginning State.interfaceMaxLimit
  rw [State.header_updHeader, beginHold_eq loaded, switched, header_switch, seconds, Nat.mul_comm 1000]
  rfl

theorem beginning_of_stands (stands : Stands h s p b) : beginning l b target = beginning l s target := by
  have node : b.pointNode = s.pointNode := by
    funext n
    rw [State.pointNode, stands.points]
    rfl
  unfold beginning
  rw [node, stands.silent, stands.config]

/-- The pending target is taken (R133): switched to at once, or after an interface-in where it carries a medium. -/
def Takes (h : HeaderId) (l : HeaderLoad) (s p u : State) (target : Target) : Prop :=
  (target.chemical = none → SteadyOn h l u target ∧ Diverted h l s p u target)
  ∧ (target.chemical ≠ none → Diverted h l s p u .drain ∧ u.header h = beginning l s target)

theorem takePending_of_none (pending : (b.header h).pending = some target) (plain : target.chemical = none) :
    b.takePending h = (b.switch h target).steady h := by
  unfold State.takePending
  rw [pending]
  exact if_neg (by simp [plain])

theorem takePending_of_some (pending : (b.header h).pending = some target) (carries : target.chemical ≠ none) :
    b.takePending h = (b.steady h).beginIn h target := by
  unfold State.takePending
  rw [pending]
  exact if_pos (Option.isSome_iff_ne_none.2 carries)

theorem takes_takePending (stands : Stands h s p b) (loaded : (b.header h).load = some l)
    (pending : (b.header h).pending = some target) : Takes h l s p (b.takePending h) target := by
  refine ⟨fun plain => ?_, fun carries => ?_⟩
  · rw [takePending_of_none pending plain]
    exact ⟨steadyOn_switch loaded, (diverted_switch stands loaded).updHeader _⟩
  · have steadied : ((b.steady h).header h).load = some l := by rw [header_steady]; exact loaded
    rw [takePending_of_some pending carries]
    exact ⟨(diverted_switch stands.steady steadied).updHeader _,
      (header_beginIn steadied).trans (beginning_of_stands stands.steady)⟩

theorem takePending_eq : b.takePending h
    = { b with valves := (b.takePending h).valves, headers := (b.takePending h).headers } := by
  unfold State.takePending
  split
  · split
    · unfold State.beginIn
      rw [switch_eq]
      rfl
    · rw [steady_eq, switch_eq]
  · rfl

theorem finishIn_of_pending (pending : (b.header h).pending = some target) :
    b.finishIn h = (b.switch h target).steady h := by
  unfold State.finishIn
  rw [pending]

/-- An INTERFACE_IN header that gives its pending target up is STEADY on DRAIN (R136). -/
theorem steadyOn_settleOnDrain (loaded : (b.header h).load = some l) : SteadyOn h l (b.settleOnDrain h) .drain := by
  have steadied := steadyOn_steady loaded rfl
  unfold State.settleOnDrain
  dsimp only
  split
  next drained => exact ⟨steadied.1, drained, steadied.2.2⟩
  next =>
    unfold SteadyOn
    rw [header_switch]
    exact ⟨steadied.1, rfl, steadied.2.2⟩

theorem settleOnDrain_of_drain (drained : (b.header h).current = .drain) : b.settleOnDrain h = b.steady h :=
  if_pos (by rw [header_steady]; exact drained)

theorem settleOnDrain_of_ne (other : (b.header h).current ≠ .drain) :
    b.settleOnDrain h = (b.steady h).switch h .drain :=
  if_neg (by rw [header_steady]; exact other)

theorem headerOwner_of_load (loaded : (b.header h).load = some l) :
    b.headerOwner h = claimSlot (some (b.segState l.segment)) := by
  rw [State.headerOwner, loaded, Option.bind_some]

/-- The INTERFACE_LONG of a header (R136). -/
def State.longEvent (h : HeaderId) (s : State) : Event :=
  { s.event .interfaceLong with
    slot := s.headerOwner h
    subject := s.headerSubject h
    cause := some (.interface (s.header h).interface)
    value := (s.header h).pending.map .target }

theorem interfaceLong_out (out : (b.header h).interface = .interfaceOut) :
    b.interfaceLong h = (b.offer (b.longEvent h)).takePending h := if_pos out

theorem interfaceLong_in (inward : (b.header h).interface = .interfaceIn) :
    b.interfaceLong h = (b.offer (b.longEvent h)).settleOnDrain h := if_neg (by rw [inward]; decide)

/-- After its event, the expiry of the maximum changes headers and diverter valves. -/
theorem interfaceLong_eq (busy : (b.header h).interface ≠ .steady) : b.interfaceLong h
    = { b.offer (b.longEvent h) with valves := (b.interfaceLong h).valves, headers := (b.interfaceLong h).headers } := by
  cases state : (b.header h).interface with
  | steady => exact absurd state busy
  | interfaceOut =>
    rw [interfaceLong_out state]
    exact takePending_eq
  | interfaceIn =>
    rw [interfaceLong_in state]
    exact settleOnDrain_eq h _

theorem exec_interfaceInHoldElapse (inward : (s.header h).interface = .interfaceIn)
    (running : (s.header h).hold.mode = .running) : exec (.interfaceInHoldElapse h) s
      = .next ((s.pass ((s.header h).hold.limit - (s.header h).hold.elapsed)).finishIn h) :=
  (if_pos inward).trans (congrArg Host.Outcome.next (expire_of_running _ running))

theorem exec_interfaceOutHoldElapse (out : (s.header h).interface = .interfaceOut)
    (running : (s.header h).hold.mode = .running) : exec (.interfaceOutHoldElapse h) s
      = .next ((s.pass ((s.header h).hold.limit - (s.header h).hold.elapsed)).takePending h) :=
  (if_pos out).trans (congrArg Host.Outcome.next (expire_of_running _ running))

theorem exec_interfaceInHoldElapse_idle
    (idle : (s.header h).interface ≠ .interfaceIn ∨ (s.header h).hold.mode ≠ .running) :
    exec (.interfaceInHoldElapse h) s = .next s := by
  by_cases inward : (s.header h).interface = .interfaceIn
  · exact (if_pos inward).trans (congrArg Host.Outcome.next (expire_of_idle _ (idle.resolve_left (not_not.2 inward))))
  · exact if_neg inward

theorem exec_interfaceOutHoldElapse_idle
    (idle : (s.header h).interface ≠ .interfaceOut ∨ (s.header h).hold.mode ≠ .running) :
    exec (.interfaceOutHoldElapse h) s = .next s := by
  by_cases out : (s.header h).interface = .interfaceOut
  · exact (if_pos out).trans (congrArg Host.Outcome.next (expire_of_idle _ (idle.resolve_left (not_not.2 out))))
  · exact if_neg out

theorem load_pass (n : Nat) : ((s.pass n).header h).load = (s.header h).load := by rw [State.header_pass]

theorem pending_pass (n : Nat) : ((s.pass n).header h).pending = (s.header h).pending := by rw [State.header_pass]

theorem interface_pass (n : Nat) : ((s.pass n).header h).interface = (s.header h).interface := by
  rw [State.header_pass]

theorem current_pass (n : Nat) : ((s.pass n).header h).current = (s.header h).current := by rw [State.header_pass]

theorem segState_pass (n m : Nat) : (s.pass n).segState m = s.segState m := by
  rw [State.segState, State.pass_segments]
  rfl

end ends

/-! ### A sample of the conductivity point (R132, R134, R138) -/

section samples

variable {s t : State} {h j : HeaderId} {x : Header} {v : Nat} {q : Quality} {a : Octet} {r : Reading} {k : Slot}
  {samples : List (Nat × Quality × Nat)} {l : List HeaderId}

/-- A sample meets the limit of the medium that its interface judges. -/
theorem sampleRunsOn_iff : s.sampleRunsOn x v q = true ↔ q = .good ∧ ∃ m,
    x.interface = .interfaceOut ∧ x.current.chemical = some m ∧ v < s.interfaceLimit m
    ∨ x.interface = .interfaceIn ∧ x.pending.bind Target.chemical = some m ∧ s.interfaceLimit m ≤ v := by
  cases state : x.interface with
  | steady => simp [State.sampleRunsOn, Header.judgedMedium, state]
  | interfaceOut =>
    cases medium : x.current.chemical <;> simp [State.sampleRunsOn, Header.judgedMedium, state, medium]
  | interfaceIn =>
    cases medium : x.pending.bind Target.chemical <;> simp [State.sampleRunsOn, Header.judgedMedium, state, medium]

/-- What a sample leaves of a header. -/
def State.sampled (s : State) (x : Header) (v : Nat) (q : Quality) : Header :=
  if x.interface = .steady ∨ s.sampleRunsOn x v q = true ∧ x.hold.mode = .running then x
  else { x with hold := Timer.start s.interfaceHoldLimit }

theorem header_condSample : (s.condSample h v q).header h = s.sampled (s.header h) v q := by
  unfold State.condSample State.sampled
  dsimp only
  by_cases steady : (s.header h).interface = .steady
  · rw [if_pos steady, if_pos (.inl steady)]
  · by_cases runsOn : s.sampleRunsOn (s.header h) v q = true ∧ (s.header h).hold.mode = .running
    · rw [if_neg steady, if_pos (by simpa using runsOn), if_pos (.inr runsOn)]
    · rw [if_neg steady, if_neg (by simpa using runsOn), if_neg (not_or.2 ⟨steady, runsOn⟩), State.header_updHeader]

theorem condSample_eq : s.condSample h v q = { s with headers := (s.condSample h v q).headers } := by
  unfold State.condSample
  dsimp only
  split
  · rfl
  · split <;> rfl

theorem header_condSample_ne (ne : j ≠ h) : (s.condSample h v q).header j = s.header j := by
  unfold State.condSample
  dsimp only
  split
  · rfl
  · split
    · rfl
    · exact State.header_updHeader_ne _ _ ne

theorem sampled_congr (config : t.config = s.config) : t.sampled x v q = s.sampled x v q := by
  have limit : t.interfaceLimit = s.interfaceLimit := by
    funext m
    cases m <;> simp [State.interfaceLimit, config]
  unfold State.sampled State.sampleRunsOn State.interfaceHoldLimit
  rw [limit, config]

/-! ### The interface's part of the deliveries (R160) -/

theorem header_deliverCond : (s.deliverCond a r h).header h
    = (((s.header h).load.bind (·.cond)).bind (s.carried a r)).elim (s.header h)
        fun p => s.sampled (s.header h) (p.value.getD 0) p.quality := by
  unfold State.deliverCond
  cases ((s.header h).load.bind (·.cond)).bind (s.carried a r) with
  | none => rfl
  | some p => exact header_condSample

theorem header_deliverCond_ne (ne : j ≠ h) : (s.deliverCond a r h).header j = s.header j := by
  unfold State.deliverCond
  split
  · exact header_condSample_ne ne
  · rfl

theorem deliverCond_eq : s.deliverCond a r h = { s with headers := (s.deliverCond a r h).headers } := by
  unfold State.deliverCond
  split
  · exact condSample_eq
  · rfl

theorem header_deliverCond_congr (header : t.header h = s.header h) (points : t.points = s.points)
    (config : t.config = s.config) : (t.deliverCond a r h).header h = (s.deliverCond a r h).header h := by
  have carried : t.carried a r = s.carried a r := by
    funext n
    unfold State.carried
    rw [points]
  rw [header_deliverCond, header_deliverCond, header, carried]
  congr 1
  funext p
  exact sampled_congr config

/-- Each header takes its own sample. -/
theorem header_deliverConds (once : l.Nodup) : (l.foldl (fun s h => s.deliverCond a r h) s).header h
    = if h ∈ l then (s.deliverCond a r h).header h else s.header h := by
  induction l generalizing s with
  | nil => rfl
  | cons j l ih =>
    obtain ⟨absent, once⟩ := List.nodup_cons.1 once
    rw [List.foldl_cons, ih once]
    by_cases own : h = j
    · subst own
      rw [if_neg absent, if_pos List.mem_cons_self]
    · have after := header_deliverCond_congr (a := a) (r := r) (h := h) (t := s.deliverCond a r j) (s := s)
        (header_deliverCond_ne own) (by rw [deliverCond_eq]) (by rw [deliverCond_eq])
      rw [after, header_deliverCond_ne own]
      simp [own]

/-- Headers, points and configuration: what an interface judges a sample by. -/
def State.judged (s : State) : Vector Header 4 × Table PointEntry × ConfigRecord := (s.headers, s.points, s.config)

theorem judged_foldl {β : Type} {f : State → β → State} (each : ∀ s x, (f s x).judged = s.judged) (l : List β) :
    ∀ s, (l.foldl f s).judged = s.judged := by
  induction l with
  | nil => exact fun _ => rfl
  | cons x l ih => exact fun s => (ih _).trans (each s x)

theorem judged_deliverWindows : (s.deliverWindows a r k).judged = s.judged := by
  unfold State.deliverWindows
  split <;> rfl

theorem judged_deliverDrain : (s.deliverDrain a r k).judged = s.judged := by
  unfold State.deliverDrain
  split
  · split <;> rfl
  · rfl

theorem header_of_judged (same : t.judged = s.judged) : t.header h = s.header h :=
  congrArg (fun x => x.1[h]) same

/-- An instrument's reply that settles no round and completes no fill leaves the header what its sample leaves. -/
theorem header_deliver (calm : ∀ k, (s.round k).state ≠ .setting)
    (unfilled : ∀ k, (s.round k).state = .stepFill →
      ((s.fillPoint k).bind (s.carried a (.points samples))).any (PointEntry.reaches (s.fillMinimum k)) = false) :
    (s.deliver a (.points samples)).header h = (s.deliverCond a (.points samples) h).header h := by
  have settings : allSlots.foldl (fun s k => s.deliverSetting k) s = s :=
    List.foldl_fixed' (fun k => if_neg fun setting => calm k setting.1) _
  have faults : allSlots.foldl (fun s k => s.deliverFault a (.points samples) k) s = s :=
    List.foldl_fixed' (fun k => deliverFault_of_spared fun n _ shows => nomatch showsFault_points.symm.trans shows) _
  have fills : allSlots.foldl (fun s k => s.deliverFill a (.points samples) k) s = s :=
    List.foldl_fixed' (fun k => if_neg fun fills => Bool.false_ne_true ((unfilled k fills.1).symm.trans fills.2)) _
  obtain ⟨w, windows⟩ : ∃ w, w = allSlots.foldl (fun s k => s.deliverWindows a (.points samples) k) s := ⟨_, rfl⟩
  have judged : w.judged = s.judged := windows ▸ judged_foldl (fun _ _ => judged_deliverWindows) _ s
  rw [deliver_eq, State.deliverBefore, settings, faults, fills, ← windows,
    header_of_judged (judged_foldl (fun _ _ => judged_deliverDrain) _ _), header_deliverConds (by decide),
    if_pos (show h ∈ allHeaders by revert h; decide)]
  exact header_deliverCond_congr (header_of_judged judged) (congrArg (·.2.1) judged) (congrArg (·.2.2) judged)

end samples

/-! ### The points a reply writes (R159) -/

section points

variable {s t : State} {a : Octet} {n i : Nat} {e : NodeEntry} {p : PointEntry} {x : Nat × Quality × Nat}
  {samples : List (Nat × Quality × Nat)} {k : Slot}

theorem value_write {now : PartTime} {q : Quality} {v : Nat} : (p.write now q v).value ≠ none := by
  unfold PointEntry.write
  split <;> simp

theorem place_write {now : PartTime} {q : Quality} {v : Nat} : (p.write now q v).place = p.place := by
  unfold PointEntry.write
  split <;> rfl

/-- In canonical tables a node and channel name one point. -/
theorem pointAt_of_canonical (canonical : s.tablesCanonical) (entry : Table.entry s.points n = some p) :
    s.pointAt p.node p.channel = some n := by
  obtain ⟨-, -, -, -, ⟨sorted, -⟩, -, -, -, -, -, distinct⟩ := canonical
  have mem := Table.mem_of_entry entry
  refine Table.first_of_lowest sorted mem (by simp) fun y there lower => ?_
  by_contra answers
  have same : y.2.node = p.node ∧ y.2.channel = p.channel := by simpa using answers
  exact absurd (distinct y there _ mem (Prod.ext same.1 same.2)) (Nat.ne_of_lt lower)

/-- One sample written: the point of its channel has a value, and every other point stands. -/
theorem entry_writePoint (canonical : s.tablesCanonical) (entry : Table.entry s.points n = some p)
    (node : p.node = a) : ∃ p', Table.entry (s.writePoints a [x]).points n = some p' ∧ p'.place = p.place
      ∧ (x.1 = p.channel ∨ p.value ≠ none → p'.value ≠ none) := by
  unfold State.writePoints State.writePoints
  dsimp only
  have at' := pointAt_of_canonical canonical entry
  rw [node] at at'
  cases found : s.pointAt a x.1 with
  | none =>
    refine ⟨p, entry, rfl, fun written => written.resolve_left fun own => ?_⟩
    rw [own, at'] at found
    cases found
  | some m =>
    dsimp only
    rw [Table.entry_adjust, entry]
    by_cases here : n = m
    · rw [if_pos here]
      exact ⟨_, rfl, place_write, fun _ => value_write⟩
    · rw [if_neg here]
      refine ⟨p, rfl, rfl, fun written => written.resolve_left fun own => here ?_⟩
      rw [own, at'] at found
      exact Option.some.inj found

theorem value_writePoints (canonical : s.tablesCanonical) (entry : Table.entry s.points n = some p)
    (node : p.node = a) (written : p.channel ∈ samples.map (·.1) ∨ p.value ≠ none) :
    ∀ p', Table.entry (s.writePoints a samples).points n = some p' → p'.value ≠ none := by
  induction samples generalizing s p with
  | nil =>
    intro p' entry'
    obtain rfl : p = p' := Option.some.inj (entry.symm.trans entry')
    exact written.resolve_left (by simp)
  | cons x samples ih =>
    obtain ⟨p₁, entry₁, place, value⟩ := entry_writePoint (x := x) canonical entry node
    obtain ⟨node₁, channel₁⟩ := Prod.mk.inj place
    refine ih (s := s.writePoints a [x]) ((SameKeys.writePoints a [x] s).canonical canonical) entry₁
      (node₁.trans node) ?_
    rw [channel₁]
    obtain mem | valued := written
    · obtain own | later := List.mem_cons.1 mem
      · exact .inr (value (.inl own.symm))
      · exact .inl later
    · exact .inr (value (.inr valued))

/-- A point that a reply carries has a value. -/
theorem value_imaged (canonical : s.tablesCanonical)
    (carried : (s.imaged i e (.points samples)).carriesPoint e samples n p) : p.value ≠ none := by
  obtain ⟨entry, node, channel⟩ := carried
  have heard : (s.hearNode i e).tablesCanonical := (SameKeys.hearNode i e).canonical canonical
  have keys := congrArg (Table.entry · n) (SameKeys.writePoints e.address samples (s.hearNode i e)).points
  simp only [Table.entry_keys] at keys
  have entry' : Table.entry ((s.hearNode i e).writePoints e.address samples).points n = some p := entry
  rw [entry', Option.map_some] at keys
  obtain ⟨p₀, entry₀, place⟩ := Option.map_eq_some_iff.1 keys.symm
  obtain ⟨node₀, channel₀⟩ := Prod.mk.inj place
  exact value_writePoints heard entry₀ (node₀.trans node) (.inl (channel₀ ▸ channel)) p entry'

/-- A sample that would complete the fill (R92). -/
theorem completesFill_of_reaches
    (carries : ∀ n p, s.carried e.address (.points samples) n = some p → t.carriesPoint e samples n p)
    (reaches : ((s.fillPoint k).bind (s.carried e.address (.points samples))).any
      (PointEntry.reaches (s.fillMinimum k)) = true) : s.completesFill t e samples k := by
  obtain ⟨p, sample, meets⟩ := (Option.any_eq_true _ _).1 reaches
  obtain ⟨n, point, carried⟩ := Option.bind_eq_some_iff.1 sample
  simp only [PointEntry.reaches, Bool.and_eq_true, beq_iff_eq, Option.any_eq_true, decide_eq_true_eq] at meets
  obtain ⟨good, v, value, above⟩ := meets
  cases route : s.routeOf k with
  | none => simp [State.fillPoint, route] at point
  | some r =>
    rw [State.fillMinimum, route] at above
    exact ⟨r, n, p, v, route, point, carries n p carried, good, value, above⟩

end points

/-! ### A reply that carries the conductivity point -/

section reply

variable {s : State} {h : HeaderId} {l : HeaderLoad} {x : Header} {octets : List Octet} {f : Frame} {i n : Nat}
  {e : NodeEntry} {p : PointEntry} {samples : List (Nat × Quality × Nat)}

/-- Whether the sample of a point with a value lets the hold run on. -/
theorem sampleRunsOn_of_value {limit : Medium → Nat} (limits : ∀ m, limit m = s.interfaceLimit m)
    (valued : p.value ≠ none) : s.sampleRunsOn x (p.value.getD 0) p.quality = true
      ↔ p.quality = .good ∧ ∃ v m, p.value = some v
        ∧ (x.interface = .interfaceOut ∧ x.current.chemical = some m ∧ v < limit m
          ∨ x.interface = .interfaceIn ∧ x.pending.bind Target.chemical = some m ∧ limit m ≤ v) := by
  obtain ⟨v, value⟩ := Option.ne_none_iff_exists'.1 valued
  simp only [sampleRunsOn_iff, limits, value, Option.getD_some, Option.some.injEq, exists_and_left, exists_eq_left']

theorem header_sendU (y : SentU) : (s.sendU y).header h = s.header h := rfl

/-- The reply leaves the header what its sample leaves, and a header whose point it does not carry as it was. -/
theorem header_reply (canonical : s.tablesCanonical) (read : readFrame (s.rxF ++ octets) = some f)
    (taps : s.tapped f = some (i, e, .points samples)) (loud : e.silent = false)
    (loaded : (s.header h).load = some l) (cond : l.cond = some n) :
    ∃ t, exec (.frameArrivalF octets) s = .next t
      ∧ ((∀ k, (s.round k).state ≠ .setting ∧ ((s.round k).state = .stepFill → ¬s.completesFill t e samples k)) →
        (∀ p, t.carriesPoint e samples n p →
          p.value ≠ none ∧ t.header h = s.sampled (s.header h) (p.value.getD 0) p.quality)
        ∧ ((∀ p, ¬t.carriesPoint e samples n p) → t.header h = s.header h)) := by
  obtain ⟨b, imaged⟩ : ∃ b, b = State.imaged i e (.points samples) { s with rxF := [] } := ⟨_, rfl⟩
  have shape := imaged_eq (s := { s with rxF := [] }) (i := i) (r := .points samples) loud
  have executes := exec_frameArrivalF_tapped read taps
  rw [← imaged] at shape executes
  have round : b.round = s.round := by rw [shape]; rfl
  have header : b.header = s.header := by rw [shape]; rfl
  have fillPoint : b.fillPoint = s.fillPoint := by rw [shape]; rfl
  have routeOf : b.routeOf = s.routeOf := by rw [shape]; rfl
  have config : b.config = s.config := by rw [shape]
  have carries : ∀ m p, ((b.deliver e.address (.points samples)).sendU (.relayed (s.rxF ++ octets))).carriesPoint
      e samples m p ↔ b.carried e.address (.points samples) m = some p := fun m p => by
    rw [← carried_of_frame (deliver_work b e.address (.points samples)).frame, carried_points, carriesPoint_sendU]
  refine ⟨_, executes, fun calm => ?_⟩
  have delivered : (b.deliver e.address (.points samples)).header h
      = (b.carried e.address (.points samples) n).elim (s.header h)
        fun p => s.sampled (s.header h) (p.value.getD 0) p.quality := by
    rw [header_deliver (fun k => round ▸ (calm k).1) fun k filling => ?unfilled, header_deliverCond, header, loaded,
      Option.bind_some, cond, Option.bind_some]
    case unfilled =>
      refine Bool.eq_false_iff.2 fun reaches => (calm k).2 (round ▸ filling) ?_
      have completes := completesFill_of_reaches (fun m p => (carries m p).2) reaches
      unfold State.completesFill at completes ⊢
      rwa [routeOf, fillPoint] at completes
    congr 1
    funext p
    exact sampled_congr config
  refine ⟨fun p carried => ⟨value_imaged (s := { s with rxF := [] }) canonical (imaged ▸ carried_points.1
    ((carries n p).1 carried)), ?_⟩, fun nothing => ?_⟩
  · rw [header_sendU, delivered, (carries n p).1 carried, Option.elim_some]
  · have none : b.carried e.address (.points samples) n = .none :=
      Option.eq_none_iff_forall_not_mem.2 fun p found => nothing p ((carries n p).2 found)
    rw [header_sendU, delivered, none, Option.elim_none]

end reply

/-- Settles O48: by the timer that elapses or does not run, and for a reply by the sample it leaves of the header. -/
theorem interfaceTimers : Obligations.InterfaceTimers := by
  intro h l s loaded
  have loadedAt : ∀ n, ((s.pass n).header h).load = some l := fun n => (load_pass n).trans loaded
  refine ⟨fun target pending running => ⟨fun inward => ?hold_in, fun out => ?hold_out⟩,
    exec_interfaceInHoldElapse_idle, exec_interfaceOutHoldElapse_idle,
    fun idle => congrArg Host.Outcome.next (expire_of_idle _ idle), fun target pending running busy => ?maximum,
    fun octets f i e samples n canonical read taps loud cond => ?reply⟩
  case hold_in =>
    refine ⟨_, exec_interfaceInHoldElapse inward running, ?_⟩
    rw [finishIn_of_pending ((pending_pass _).trans pending)]
    exact ⟨by rw [steady_eq, switch_eq], steadyOn_switch (loadedAt _),
      (diverted_switch (.pass _) (loadedAt _)).updHeader _⟩
  case hold_out =>
    exact ⟨_, exec_interfaceOutHoldElapse out running, takePending_eq,
      takes_takePending (.pass _) (loadedAt _) ((pending_pass _).trans pending)⟩
  case maximum =>
    intro p long
    have busyAt : (p.header h).interface ≠ .steady := by rw [interface_pass]; exact busy
    have event : long = p.offer (p.longEvent h) := by
      refine congrArg p.offer ?_
      unfold State.longEvent State.headerSubject
      rw [headerOwner_of_load (loadedAt _), loadedAt, interface_pass, pending_pass, pending, segState_pass]
      cases s.segState l.segment <;> rfl
    have stands : Stands h s p (p.offer (p.longEvent h)) := (Stands.pass _).offer _
    have loadedLong : ((p.offer (p.longEvent h)).header h).load = some l := by rw [State.header_offer, loadedAt]
    refine ⟨p.interfaceLong h, congrArg Host.Outcome.next (expire_of_running _ running), ?_, fun out => ?_,
      fun inward => ?_⟩
    · rw [event]
      exact interfaceLong_eq busyAt
    · rw [interfaceLong_out ((interface_pass _).trans out)]
      exact takes_takePending stands loadedLong (by rw [State.header_offer, pending_pass, pending])
    · rw [interfaceLong_in ((interface_pass _).trans inward)]
      refine ⟨steadyOn_settleOnDrain loadedLong, fun drained => ?_, fun other => ?_⟩
      · rw [settleOnDrain_of_drain (by rw [State.header_offer, current_pass, drained])]
        exact ⟨stands.steady.valves, stands.steady.headers⟩
      · rw [settleOnDrain_of_ne (by rw [State.header_offer, current_pass]; exact other)]
        exact diverted_switch stands.steady (by rw [header_steady]; exact loadedLong)
  case reply =>
    obtain ⟨t, executes, sampled⟩ := header_reply canonical read taps loud loaded cond
    refine ⟨t, executes, fun calm => ?_⟩
    obtain ⟨carried, absent⟩ := sampled calm
    refine ⟨fun p carries busy => ?_, fun spared => ?_⟩
    · intro limit meets
      obtain ⟨valued, header⟩ := carried p carries
      have judged := sampleRunsOn_of_value (s := s) (x := s.header h) (limit := limit) (fun m => by cases m <;> rfl)
        valued
      rw [header]
      refine ⟨fun low running => if_pos (.inr ⟨judged.2 low, running⟩), fun fails => ?_⟩
      refine (if_neg fun runsOn => ?_).trans ?_
      · exact runsOn.elim busy fun ⟨runs, running⟩ => fails ⟨judged.1 runs, running⟩
      · rw [State.interfaceHoldLimit, tenths, Nat.mul_comm]
        rfl
    · by_cases carries : ∃ p, t.carriesPoint e samples n p
      · obtain ⟨p, carries⟩ := carries
        have steady := spared.resolve_right fun nothing => nothing p carries
        exact (carried p carries).2.trans (if_pos (.inl steady))
      · exact absent (not_exists.1 carries)

end Sys2Proof.Machine

/-! ## Good frames are sealed fields (R144, R206) -/

namespace Sys2Proof.Machine

open Sys2Proof

section sealing

variable {o p : Octet} {w : Word16} {l rest : List Octet} {f : Frame}

/-- A word is put together again from its low and high octet. -/
@[simp] theorem word16_parts : word16 (w.setWidth 8) ((w >>> 8).setWidth 8) = w := by
  refine BitVec.eq_of_getLsbD_eq fun i small => ?_
  rw [word16, BitVec.getLsbD_append]
  by_cases low : i < 8
  · simp [low]
  · have back : 8 + (i - 8) = i := by omega
    simp [low, back, show i - 8 < 8 by omega]

/-- Two octets are taken apart again from the word they make. -/
@[simp] theorem wordOctets_word16 : wordOctets (word16 o p) = [o, p] := by
  have low : (word16 o p).setWidth 8 = o := by
    refine BitVec.eq_of_getLsbD_eq fun i small => ?_
    rw [BitVec.getLsbD_setWidth, word16, BitVec.getLsbD_append]
    simp [small]
  have high : (word16 o p >>> 8).setWidth 8 = p := by
    refine BitVec.eq_of_getLsbD_eq fun i small => ?_
    rw [BitVec.getLsbD_setWidth, BitVec.getLsbD_ushiftRight, word16, BitVec.getLsbD_append]
    simp [small]
  rw [wordOctets, low, high]

/-- A word is read back from behind the octets before it. -/
theorem wordAt_append : wordAt (l ++ wordOctets w ++ rest) l.length = w := by
  simp [wordAt, octetAt, wordOctets]

/-- The octets a frame's CRC covers: its head and its payload (R206). -/
def Frame.body (f : Frame) : List Octet := f.dest :: f.source :: f.kind :: octet f.payload.length :: f.payload

theorem Frame.seal_eq : f.seal = f.body ++ wordOctets (crc f.body) := rfl

theorem octet_length_toNat (short : l.length ≤ 240) : (octet l.length).toNat = l.length := by
  rw [octet, BitVec.toNat_ofNat]
  omega

/-- The sealed octets are judged good and read as the frame's fields (R144). -/
theorem readFrame_seal (short : f.payload.length ≤ 240) : readFrame f.seal = some f := by
  have length := octet_length_toNat short
  have covered : f.seal.take (4 + f.payload.length) = f.body := by
    rw [Frame.seal_eq, List.take_left' (by simp [Frame.body]; omega)]
  have crcs : wordAt (f.payload ++ wordOctets (crc f.body)) f.payload.length = crc f.body := by
    simpa using wordAt_append (l := f.payload) (rest := [])
  show (if (octet f.payload.length).toNat ≤ 240
      ∧ (f.payload ++ wordOctets (crc f.body)).length = (octet f.payload.length).toNat + 2
      ∧ wordAt (f.payload ++ wordOctets (crc f.body)) (octet f.payload.length).toNat
        = crc (f.seal.take (4 + (octet f.payload.length).toNat)) then
      some (⟨f.dest, f.source, f.kind,
        (f.payload ++ wordOctets (crc f.body)).take (octet f.payload.length).toNat⟩ : Frame) else none) = some f
  rw [length, covered, crcs, if_pos ⟨short, by simp [wordOctets], rfl⟩, List.take_left' rfl]

/-- Good octets are a payload of at most 240 octets, sealed with its head (R144). -/
theorem seal_of_readFrame (good : readFrame l = some f) : f.payload.length ≤ 240 ∧ l = f.seal := by
  unfold readFrame at good
  split at good
  next dest source kind length rest =>
    split at good
    next fits =>
      obtain ⟨short, received, crcs⟩ := fits
      obtain ⟨payload, tail, rfl, whole⟩ : ∃ payload tail, rest = payload ++ tail ∧ payload.length = length.toNat :=
        ⟨rest.take length.toNat, rest.drop length.toNat, (List.take_append_drop ..).symm, by simp; omega⟩
      obtain ⟨o, p, rfl⟩ : ∃ o p, tail = [o, p] := List.length_eq_two.1 (by simp at received; omega)
      rw [List.take_left' whole] at good
      cases good
      have head : octet payload.length = length := octet_of_toNat whole.symm
      have body : (dest :: source :: kind :: length :: (payload ++ [o, p])).take (4 + length.toNat)
          = Frame.body ⟨dest, source, kind, payload⟩ := by
        rw [Frame.body, head, ← whole, show 4 + payload.length = (dest :: source :: kind :: length :: payload).length by
          simp; omega]
        exact List.take_left (l₁ := dest :: source :: kind :: length :: payload)
      have read : wordAt (payload ++ [o, p]) length.toNat = word16 o p := by
        simp [← whole, wordAt, octetAt]
      rw [body, read] at crcs
      refine ⟨whole ▸ short, ?_⟩
      rw [Frame.seal_eq, ← crcs, wordOctets_word16, Frame.body, head]
      rfl
    next => cases good
  next => cases good

end sealing

/-- Settles O5: sealed fields are read back, and what is read was sealed. -/
theorem goodFramesAreSealedFields : Obligations.GoodFramesAreSealedFields :=
  fun _ _ => ⟨seal_of_readFrame, fun ⟨short, sealed⟩ => sealed ▸ readFrame_seal short⟩

end Sys2Proof.Machine

/-! ## A request is read back from its octets (R183, R208) -/

namespace Sys2Proof.Machine

open Sys2Proof

/-! ### Lists of fixed-length elements -/

section elements

variable {l rest : List Octet}

theorem wordsOf_flatMap (ws : List Word16) : wordsOf (ws.flatMap wordOctets) = ws := by
  induction ws with
  | nil => rfl
  | cons w ws ih =>
    show word16 _ _ :: wordsOf (ws.flatMap wordOctets) = _
    rw [word16_parts, ih]

theorem stationPairsOf_flatMap (ps : List StationPair) : stationPairsOf (ps.flatMap stationPairOctets) = ps := by
  induction ps with
  | nil => rfl
  | cons p ps ih =>
    show (⟨p.station, word16 _ _⟩ : StationPair) :: stationPairsOf (ps.flatMap stationPairOctets) = _
    rw [word16_parts, ih]

theorem flatMap_singleton_octets (os : List Octet) : os.flatMap (fun o => [o]) = os := by simp

/-- A step is read back from its 34 octets. -/
theorem stepFieldsOf_append (f : StepFields) : stepFieldsOf (stepOctets f ++ rest) = f := by
  simp [stepFieldsOf, stepOctets, criterionOf, criterionOctets, wordOctets, wordAt, octetAt]

theorem stepOctets_length (f : StepFields) : (stepOctets f).length = 34 := rfl

theorem stepsOf_flatMap (fs : List StepFields) : stepsOf fs.length (fs.flatMap stepOctets) = fs := by
  induction fs with
  | nil => rfl
  | cons f fs ih =>
    rw [List.length_cons, stepsOf, List.flatMap_cons, stepFieldsOf_append, List.drop_left' (stepOctets_length f), ih]

theorem length_flatMap_of_length {α : Type} {g : α → List Octet} {n : Nat} (each : ∀ x, (g x).length = n) (xs : List α) :
    (xs.flatMap g).length = n * xs.length := by
  simp [each, Nat.mul_comm]

/-- A count octet holds the length of a list that fits. -/
theorem count_toNat {α : Type} {xs : List α} (fits : listFits xs = true) : (octet xs.length).toNat = xs.length := by
  have bound : xs.length ≤ 255 := by simpa [listFits] using fits
  rw [octet, BitVec.toNat_ofNat]
  omega

end elements

/-! ### The configuration record and the entries (R6, R208) -/

section contents

theorem configOctets_length (c : ConfigRecord) : (configOctets c).length = 30 := rfl

theorem configOf_configOctets (c : ConfigRecord) : configOf (configOctets c) = c := by
  have mask : (c.eventMask >>> 16).setWidth 16 ++ c.eventMask.setWidth 16 = c.eventMask := by
    refine BitVec.eq_of_getLsbD_eq fun i small => ?_
    rw [BitVec.getLsbD_append]
    by_cases low : i < 16
    · simp [low]
    · have back : 16 + (i - 16) = i := by omega
      simp [low, back, show i - 16 < 16 by omega]
  unfold configOctets
  generalize c.eventMask.setWidth 16 = low, (c.eventMask >>> 16).setWidth 16 = high at mask ⊢
  simp [configOf, wordOctets, wordAt, octetAt, mask]

variable {rest : List Octet}

/-- The octets of a route entry: four counted lists and three words (R208). -/
def routeOctets (f : RouteFields) : List Octet :=
  octet f.segments.length :: (f.segments
    ++ octet f.setting.length :: (f.setting.flatMap wordOctets
      ++ octet f.boundary.length :: (f.boundary.flatMap wordOctets
        ++ octet f.stations.length :: (f.stations.flatMap stationPairOctets
          ++ (wordOctets f.travel ++ wordOctets f.fillFlow ++ wordOctets f.holdLimit)))))

theorem contentOctets_route (f : RouteFields) : contentOctets (.route f) = routeOctets f := by
  simp [contentOctets, listOctets, routeOctets, List.append_assoc]

theorem routeOctets_length (f : RouteFields) : (routeOctets f).length = f.octetCount := by
  simp [routeOctets, RouteFields.octetCount, wordOctets, stationPairOctets]
  omega

/-- The four lists of a route can each be introduced by a count octet. -/
def routeCounted (f : RouteFields) : Prop :=
  (octet f.segments.length).toNat = f.segments.length ∧ (octet f.setting.length).toNat = f.setting.length
  ∧ (octet f.boundary.length).toNat = f.boundary.length ∧ (octet f.stations.length).toNat = f.stations.length

theorem routeFieldsOf_octets {f : RouteFields} (counted : routeCounted f) : routeFieldsOf (routeOctets f) = f := by
  obtain ⟨segments, setting, boundary, stations⟩ := counted
  have words := length_flatMap_of_length (g := wordOctets) (n := 2) fun _ => rfl
  have pairs := length_flatMap_of_length (g := stationPairOctets) (n := 3) fun _ => rfl
  have drop : ∀ (c : Octet) (l rest : List Octet) (n : Nat), l.length = n → (c :: (l ++ rest)).drop (1 + n) = rest := by
    rintro c l rest n rfl
    rw [Nat.add_comm, List.drop_succ_cons, List.drop_left]
  have take : ∀ (c : Octet) (l rest : List Octet) (n : Nat), l.length = n → ((c :: (l ++ rest)).drop 1).take n = l := by
    rintro c l rest n rfl
    exact List.take_left
  have count : ∀ (c : Octet) (l : List Octet), octetAt (c :: l) 0 = c := fun _ _ => rfl
  unfold routeFieldsOf
  dsimp only
  unfold routeOctets
  simp only [count, segments, setting, boundary, stations, drop _ _ _ _ rfl, drop _ _ _ _ (words _),
    drop _ _ _ _ (pairs _), take _ _ _ _ rfl, take _ _ _ _ (words _), take _ _ _ _ (pairs _), wordsOf_flatMap,
    stationPairsOf_flatMap]
  simp [wordAt, octetAt, wordOctets]

/-- The four counts of a route entry tell its length. -/
theorem routeLength_octets {f : RouteFields} (counted : routeCounted f) :
    routeLength (routeOctets f) = .exact f.octetCount := by
  obtain ⟨segments, setting, boundary, stations⟩ := counted
  have behind : ∀ (l rest : List Octet) (c : Octet) (n : Nat), l.length = n → (l ++ c :: rest)[n]? = some c := by
    rintro l rest c n rfl
    simp
  have first : (routeOctets f)[0]? = some (octet f.segments.length) := rfl
  have second : (routeOctets f)[1 + f.segments.length]? = some (octet f.setting.length) :=
    behind (octet f.segments.length :: f.segments) _ _ _ (by simp; omega)
  have third : (routeOctets f)[1 + f.segments.length + 1 + 2 * f.setting.length]? = some (octet f.boundary.length) := by
    have split := behind (octet f.segments.length :: (f.segments ++ octet f.setting.length :: f.setting.flatMap wordOctets))
      (f.boundary.flatMap wordOctets ++ octet f.stations.length :: (f.stations.flatMap stationPairOctets
        ++ (wordOctets f.travel ++ wordOctets f.fillFlow ++ wordOctets f.holdLimit)))
      (octet f.boundary.length) (1 + f.segments.length + 1 + 2 * f.setting.length)
      (by simp [wordOctets]; omega)
    simpa only [routeOctets, List.cons_append, List.append_assoc] using split
  have fourth : (routeOctets f)[1 + f.segments.length + 1 + 2 * f.setting.length + 1 + 2 * f.boundary.length]?
      = some (octet f.stations.length) := by
    have split := behind (octet f.segments.length :: (f.segments ++ octet f.setting.length :: (f.setting.flatMap wordOctets
        ++ octet f.boundary.length :: f.boundary.flatMap wordOctets)))
      (f.stations.flatMap stationPairOctets
        ++ (wordOctets f.travel ++ wordOctets f.fillFlow ++ wordOctets f.holdLimit))
      (octet f.stations.length) (1 + f.segments.length + 1 + 2 * f.setting.length + 1 + 2 * f.boundary.length)
      (by simp [wordOctets]; omega)
    simpa only [routeOctets, List.cons_append, List.append_assoc] using split
  unfold routeLength
  rw [first]
  dsimp only
  rw [segments, second]
  dsimp only
  rw [setting, third]
  dsimp only
  rw [boundary, fourth]
  dsimp only
  rw [stations, RouteFields.octetCount]
  exact congrArg EntryLength.exact (by omega)

/-- A well-formed route entry is counted (R206, R208). -/
theorem routeCounted_of_wf {f : RouteFields} (wf : (Content.route f).wf = true) : routeCounted f := by
  simp only [Content.wf, Bool.and_eq_true] at wf
  obtain ⟨⟨⟨⟨segments, setting⟩, boundary⟩, stations⟩, -⟩ := wf
  exact ⟨count_toNat segments, count_toNat setting, count_toNat boundary, count_toNat stations⟩

/-- An entry in full form, but for a recipe's, is read back, and its octets tell its length (R208). -/
theorem contentOf_contentOctets {c : Content} (wf : c.wf = true) (other : Content.table c ≠ .recipe) :
    contentOf (Content.table c) (contentOctets c) = c
      ∧ entryLength (Content.table c) (contentOctets c) = .exact (contentOctets c).length := by
  cases c with
  | nodeMap f | segment f | valve f | drive f | point f | station f | header f =>
    exact ⟨by simp [Content.table, contentOf, contentOctets, octetAt, wordAt, wordOctets], rfl⟩
  | route f =>
    have counted := routeCounted_of_wf wf
    rw [contentOctets_route]
    refine ⟨congrArg Content.route (routeFieldsOf_octets counted), ?_⟩
    rw [routeOctets_length]
    exact routeLength_octets counted
  | recipe steps => exact absurd rfl other

end contents

/-! ### Requests (R183, R208) -/

section requests

theorem tableOfCode_tableCode (t : TableId) : tableOfCode (tableCode t) = some t := by cases t <;> rfl

/-- A code beside the nine names no table. -/
theorem tableOfCode_none {code : Octet} (outside : code.toNat = 0 ∨ 9 < code.toNat) : tableOfCode code = none := by
  unfold tableOfCode
  split
  case h_10 => rfl
  all_goals omega

/-- A taken form of a table write (R208): the whole entry in one part. -/
theorem parseTableWrite_full {t : TableId} {index : Word16} {l : List Octet} :
    parseTableWrite (tableCode t :: wordOctets index ++ 0x01 :: l) = parseFull t index l := by
  show parseTableWrite (tableCode t :: _ :: _ :: 0x01 :: l) = _
  simp [parseTableWrite, tableOfCode_tableCode]

/-- A recipe's steps behind their count octet (R208). -/
theorem count_steps {fs : List StepFields} (short : 34 * fs.length + 8 ≤ 240) :
    (octet fs.length).toNat = fs.length := by
  rw [octet, BitVec.toNat_ofNat]
  omega

theorem flatMap_stepOctets_length (fs : List StepFields) : (fs.flatMap stepOctets).length = 34 * fs.length :=
  length_flatMap_of_length stepOctets_length fs

/-- An entry in full form is read back from a table write (R208). -/
theorem parseFull_contentOctets {c : Content} (wf : c.wf = true) (index : Word16) :
    parseFull (Content.table c) index (contentOctets c) = some (.tableWrite (.full index c)) := by
  by_cases recipe : Content.table c = .recipe
  · cases c with
    | recipe fs =>
      have counted := count_steps (fs := fs) (by simpa [Content.wf, maxPayload] using wf)
      show (if (fs.flatMap stepOctets).length = 34 * (octet fs.length).toNat then
        some (Request.tableWrite (.full index (.recipe (stepsOf (octet fs.length).toNat (fs.flatMap stepOctets)))))
        else none) = _
      rw [counted, flatMap_stepOctets_length, if_pos rfl, stepsOf_flatMap]
    | _ => cases recipe
  · obtain ⟨read, length⟩ := contentOf_contentOctets wf recipe
    unfold parseFull
    rw [if_neg recipe, if_pos length, read]

/-- Every request of a form R208 gives is read back from its octets. -/
theorem parseRequest_requestOctets {r : Request} (wf : r.wf = true) (tag : Octet) :
    parseRequest (tag :: requestOctets r) = some r := by
  cases r with
  | configWrite c =>
    show (if (configOctets c).length = 30 then some (Request.configWrite (configOf (configOctets c))) else none) = _
    rw [if_pos (configOctets_length c), configOf_configOctets]
  | configRead | roundStart | roundControl | roundRead | segmentMark | suspectClear | eventFetch | restart => rfl
  | tableWrite w =>
    cases w with
    | unknown code =>
      have none := tableOfCode_none (code := code) (by simpa [Request.wf] using wf)
      show parseTableWrite [code, 0, 0, 0x00] = _
      simp [parseTableWrite, none]
    | empty t index =>
      show parseTableWrite (tableCode t :: _ :: _ :: [0x00]) = _
      simp [parseTableWrite, tableOfCode_tableCode]
    | full index c => exact parseTableWrite_full.trans (parseFull_contentOctets wf index)
  | recipeFirstPart index count fs =>
    have six : fs.length = 6 := by simpa [Request.wf] using wf
    show parseTableWrite (tableCode .recipe :: wordOctets index ++ 0x01 :: 0x01 :: count :: fs.flatMap stepOctets) = _
    rw [parseTableWrite_full]
    show (if (fs.flatMap stepOctets).length = 34 * 6 then
      some (Request.recipeFirstPart index count (stepsOf 6 (fs.flatMap stepOctets))) else none) = _
    rw [flatMap_stepOctets_length, six, if_pos rfl, ← six, stepsOf_flatMap]
  | recipeSecondPart index fs =>
    have counted := count_steps (fs := fs) (by simpa [Request.wf, maxPayload] using wf)
    show parseTableWrite (tableCode .recipe :: wordOctets index ++ 0x01 :: 0x02 :: listOctets stepOctets fs) = _
    rw [parseTableWrite_full]
    show (if (fs.flatMap stepOctets).length = 34 * (octet fs.length).toNat then
      some (Request.recipeSecondPart index (stepsOf (octet fs.length).toNat (fs.flatMap stepOctets))) else none) = _
    rw [counted, flatMap_stepOctets_length, if_pos rfl, stepsOf_flatMap]
  | tableRead table index part =>
    have named : part.isSome = (table == 0x09) := by simpa [Request.wf] using wf
    cases part with
    | none =>
      have other : table ≠ tableCode .recipe := fun same => by simp [same, tableCode] at named
      show (if table = tableCode .recipe then none else some (Request.tableRead table (word16 _ _) none)) = _
      rw [if_neg other, word16_parts]
    | some p =>
      have recipe : table = tableCode .recipe := beq_iff_eq.1 named.symm
      show (if table = tableCode .recipe then some (Request.tableRead table (word16 _ _) (some p)) else none) = _
      rw [if_pos recipe, word16_parts]

/-- The payload of a well-formed request fits a frame (R206, R208). -/
theorem requestOctets_length {r : Request} (wf : r.wf = true) : (requestOctets r).length + 1 ≤ 240 := by
  cases r with
  | configWrite | configRead | roundStart | roundControl | roundRead | segmentMark | suspectClear | eventFetch
  | restart => simp [requestOctets, configOctets, wordOctets]
  | tableWrite w =>
    cases w with
    | unknown | empty => simp [requestOctets, wordOctets]
    | full index c =>
      cases c with
      | route f =>
        have short : f.octetCount + 6 ≤ 240 := by
          simp only [Request.wf, Content.wf, Bool.and_eq_true, decide_eq_true_eq] at wf
          exact wf.2
        have length : (contentOctets (.route f)).length = f.octetCount := by
          rw [contentOctets_route, routeOctets_length]
        simp [requestOctets, wordOctets, length]
        omega
      | recipe fs =>
        have short : 34 * fs.length + 8 ≤ 240 := by simpa [Request.wf, Content.wf, maxPayload] using wf
        have length : (contentOctets (.recipe fs)).length = 34 * fs.length + 2 := by
          simp only [contentOctets, listOctets, List.length_cons, flatMap_stepOctets_length]
        simp [requestOctets, wordOctets, length]
        omega
      | _ => simp [requestOctets, contentOctets, wordOctets]
  | recipeFirstPart index count fs =>
    have six : fs.length = 6 := by simpa [Request.wf] using wf
    simp only [requestOctets, wordOctets, List.length_cons, List.length_append, flatMap_stepOctets_length, six]
    decide
  | recipeSecondPart index fs =>
    have short : 34 * fs.length + 8 ≤ 240 := by simpa [Request.wf, maxPayload] using wf
    simp only [requestOctets, wordOctets, listOctets, List.length_cons, List.length_append, List.length_nil,
      flatMap_stepOctets_length]
    omega
  | tableRead table index part => cases part <;> simp [requestOctets, wordOctets]

/-- A well-formed command that carries a request performs that request's action (R183). -/
theorem exec_of_wf_request {i : Instr} {a : Ask} {r : Request} (carries : i.request? = some (a, r)) (wf : r.wf = true)
    (s : State) : exec i s = .next (s.requestArrives a (actionOf r)) := by
  cases i with
  | recipeFirstPart _ index count fs =>
    cases carries
    have six : fs.length = 6 := by simpa [Request.wf] using wf
    exact congrArg (fun act => Host.Outcome.next (s.requestArrives a act)) (if_pos six)
  | tableRead _ table index part =>
    cases carries
    have named : part.isSome = (table == tableCode .recipe) := by simpa [Request.wf, tableCode] using wf
    exact congrArg (fun act => Host.Outcome.next (s.requestArrives a act)) (if_pos named)
  | _ => cases carries <;> rfl

/-- A well-formed command's request is well-formed. -/
theorem request_wf {i : Instr} {a : Ask} {r : Request} (carries : i.request? = some (a, r)) (wf : i.wf = true) :
    r.wf = true := by
  cases i <;> cases carries <;> exact wf

end requests

/-- Settles O7: the frame is good, its request is read back, and the port holds no octets afterwards. -/
theorem requestFrameIsItsCommand : Obligations.RequestFrameIsItsCommand := by
  intro i a r s octets carries wf sealed
  have requestWf := request_wf carries wf
  have good : readFrame (s.rxU ++ octets) = some (requestFrame s.config.ownAddress a r) :=
    sealed ▸ readFrame_seal (requestOctets_length requestWf)
  have action : frameAction (requestFrame s.config.ownAddress a r) = actionOf r := by
    have mreq : (requestFrame s.config.ownAddress a r).kind = kindMreq := rfl
    unfold frameAction
    rw [if_pos mreq, show parseRequest (requestFrame s.config.ownAddress a r).payload = some r from
      parseRequest_requestOctets requestWf a.tag]
  rw [exec_of_wf_request carries requestWf]
  refine congrArg Host.Outcome.next ?_
  unfold State.arriveU
  rw [good]
  dsimp only
  rw [action]
  exact if_pos rfl

end Sys2Proof.Machine

/-! ## Frames that are forwarded octet for octet (R144 to R146, R155, R164) -/

namespace Sys2Proof.Machine

open Sys2Proof

/-! ### The nodes of the map, and guarding (R144, R155) -/

section guarding

variable {s : State} {a : Octet} {e : NodeEntry} {v : ValveEntry}

/-- In a canonical table the first entry that answers a key is the one entry that does. -/
theorem Table.first_eq_some_iff {α β : Type} {p : α → Bool} {g : α → β} {size n : Nat} {t : Table α} {key : β}
    (fits : tableFits size t) (distinct : distinctBy g t) (reads : ∀ x, p x = true ↔ g x = key) :
    Table.first (fun _ x => p x) t = some n ↔ ∃ x, Table.entry t n = some x ∧ g x = key := by
  obtain ⟨sorted, -⟩ := fits
  constructor
  · intro first
    obtain ⟨x, mem, answers⟩ := Table.first_eq_some first
    exact ⟨x, Table.entry_of_mem sorted mem, (reads x).1 answers⟩
  · rintro ⟨x, entry, keyed⟩
    cases first : Table.first (fun _ x => p x) t with
    | none => exact absurd (Table.first_eq_none.1 first _ (Table.mem_of_entry entry)) (by simp [(reads x).2 keyed])
    | some m =>
      obtain ⟨y, mem, answers⟩ := Table.first_eq_some first
      exact congrArg some (distinct _ mem _ (Table.mem_of_entry entry) (((reads y).1 answers).trans keyed.symm))

theorem nodeIndex_eq_some (canonical : s.tablesCanonical) {i : Nat} :
    s.nodeIndex a = some i ↔ ∃ e, Table.entry s.nodes i = some e ∧ e.address = a := by
  obtain ⟨nodes, -, -, -, -, -, -, addresses, -⟩ := canonical
  exact Table.first_eq_some_iff nodes addresses fun _ => beq_iff_eq

/-- The entry a canonical node map holds for an address (R144). -/
theorem nodeAt_eq_some (canonical : s.tablesCanonical) :
    s.nodeAt a = some e ↔ ∃ i, Table.entry s.nodes i = some e ∧ e.address = a := by
  simp only [State.nodeAt, Option.bind_eq_some_iff, nodeIndex_eq_some canonical]
  constructor
  · rintro ⟨i, ⟨e', entry', address⟩, entry⟩
    obtain rfl := Option.some.inj (entry'.symm.trans entry)
    exact ⟨i, entry, address⟩
  · exact fun ⟨i, entry, address⟩ => ⟨i, ⟨e, entry, address⟩, entry⟩

theorem kindAt_eq_some (canonical : s.tablesCanonical) {kind : NodeKind} :
    s.kindAt a = some kind ↔ ∃ x ∈ s.nodes, x.2.address = a ∧ x.2.kind = kind := by
  simp only [State.kindAt, Option.map_eq_some_iff, nodeAt_eq_some canonical]
  exact ⟨fun ⟨e, ⟨i, entry, address⟩, kind⟩ => ⟨(i, e), Table.mem_of_entry entry, address, kind⟩,
    fun ⟨x, mem, address, kind⟩ => ⟨x.2, ⟨x.1, Table.entry_of_mem canonical.1.1 mem, address⟩, kind⟩⟩

theorem sideLocks_iff {side : Option Nat} : sideLocks (s.sideState side) = true
    ↔ ∃ n, side = some n ∧ ((∃ k, s.segState n = .claimed k) ∨ ∃ c, s.segState n = .suspect c) := by
  cases side with
  | none => simp [State.sideState, sideLocks]
  | some n => cases state : s.segState n <;> simp [State.sideState, sideLocks, state]

/-- A valve qualifies when a round owns it or a side locks it (R55, R169). -/
theorem qualifies_iff : s.qualifies v = true ↔ v.owner ≠ none
    ∨ ∃ n, (v.sideA = some n ∨ v.sideB = some n)
      ∧ ((∃ k, s.segState n = .claimed k) ∨ ∃ c, s.segState n = .suspect c) := by
  have sides : (∃ n, (v.sideA = some n ∨ v.sideB = some n)
      ∧ ((∃ k, s.segState n = .claimed k) ∨ ∃ c, s.segState n = .suspect c))
      ↔ (sideLocks (s.sideState v.sideA) || sideLocks (s.sideState v.sideB)) = true := by
    simp only [Bool.or_eq_true, sideLocks_iff, or_and_right, exists_or]
  rw [sides]
  cases owner : v.owner <;> simp [State.qualifies, State.locked, owner]

/-- R155 by the kind of the node. -/
theorem needsGuarding_iff : s.needsGuarding a = true
    ↔ (s.kindAt a = some .valveCluster ∧ ∃ v ∈ s.valves, v.2.node = a ∧ s.qualifies v.2 = true)
      ∨ s.kindAt a = some .drive ∧ ∃ d ∈ s.drives, d.2.node = a ∧ d.2.owner ≠ none := by
  have found : ∀ {α : Type} {p : Nat → α → Bool} {t : Table α},
      (Table.first p t).isSome = true ↔ ∃ x ∈ t, p x.1 x.2 = true := fun {α p t} => by
    rw [← Option.ne_none_iff_isSome, Ne, Table.first_eq_none]
    simp
  unfold State.needsGuarding State.kindAt
  cases s.nodeAt a with
  | none => simp
  | some e => cases kind : e.kind <;> simp [kind, found, Option.isSome_iff_ne_none]

end guarding

/-! ### What arrives on a port -/

section arrivals

variable {s : State} {octets : List Octet} {f : Frame}

/-- A good frame on U while the link is heard (R164). -/
theorem linkHeard_of_heard (heard : s.linkSilent = false) : s.linkHeard = s.restartLink := by
  unfold State.linkHeard
  rw [heard]
  rfl

/-- The octets of port U have been completed to a frame, and the port is empty again (log 9). -/
def State.receivedU (s : State) : State := { s with rxU := [] }

/-- A bad frame on U is judged by its first octet alone (R145). -/
theorem exec_frameArrivalU_bad (bad : readFrame (s.rxU ++ octets) = none) :
    exec (.frameArrivalU octets) s = .next (s.receivedU.relayBad (s.rxU ++ octets)) := by
  refine congrArg Host.Outcome.next ?_
  unfold State.arriveU
  rw [bad]
  rfl

/-- A good frame on U for another address than the own (R145, R164). -/
theorem exec_frameArrivalU_good (good : readFrame (s.rxU ++ octets) = some f) (other : f.dest ≠ s.config.ownAddress) :
    exec (.frameArrivalU octets) s = .next (s.receivedU.relayGood f (s.rxU ++ octets)).linkHeard := by
  refine congrArg Host.Outcome.next ?_
  unfold State.arriveU
  rw [good]
  exact if_neg other

theorem relayBad_of_unguarded (unguarded : ∀ dest rest, octets = dest :: rest → s.needsGuarding dest = false) :
    s.relayBad octets = s.sendF octets := by
  cases octets with
  | nil => rfl
  | cons dest rest =>
    rw [State.relayBad, unguarded dest rest rfl]
    rfl

theorem wrongForm_of_unguarded (unguarded : s.needsGuarding f.dest = false) :
    s.wrongForm f octets = s.sendF octets := by
  rw [State.wrongForm, unguarded]
  rfl

/-- A good frame that settles nothing and guards nothing (R145, R148, R156). -/
theorem relayGood_unchanged (spared : f.kind ≠ kindCmd ∨ s.kindAt f.dest = none ∨ s.kindAt f.dest = some .instrument
    ∨ s.needsGuarding f.dest = false
      ∧ (s.kindAt f.dest = some .valveCluster ∧ valveCommands f.payload = none
        ∨ s.kindAt f.dest = some .drive ∧ driveCommands f.payload = none)) :
    s.relayGood f octets = s.sendF octets := by
  unfold State.relayGood
  split
  next command =>
    unfold State.relayCommand
    obtain other | unmapped | instrument | ⟨unguarded, ⟨cluster, form⟩ | ⟨drive, form⟩⟩ := spared
    · exact absurd command other
    · rw [unmapped]
    · rw [instrument]
    · rw [cluster, form]
      exact wrongForm_of_unguarded unguarded
    · rw [drive, form]
      exact wrongForm_of_unguarded unguarded
  next => rfl

end arrivals

/-- Settles O11: bad frames, good frames on U, and frames on F. -/
theorem framesForwardedUnchanged : Obligations.FramesForwardedUnchanged := by
  refine fun s octets => ⟨fun bad unguarded => ?_, fun f good other heard spared => ?_, fun untapped => ?_⟩
  · rw [exec_frameArrivalU_bad bad, relayBad_of_unguarded (s := s.receivedU) unguarded]
    rfl
  · rw [exec_frameArrivalU_good good other, relayGood_unchanged (s := s.receivedU) spared,
      linkHeard_of_heard (s := s.receivedU.sendF _) heard]
    rfl
  · refine congrArg Host.Outcome.next ?_
    unfold State.arriveF
    rw [show (readFrame (s.rxF ++ octets)).bind (State.tapped { s with rxF := [] }) = none from untapped]
    rfl

/-- Settles O14: R155 by the node map and the actuators, and the bad frame to a node that needs no guarding. -/
theorem nodesThatNeedGuarding : Obligations.NodesThatNeedGuarding := by
  refine fun s a canonical => ⟨?_, fun rest empty bad unguarded => ?_⟩
  · simp only [needsGuarding_iff, kindAt_eq_some canonical, qualifies_iff]
    refine or_congr ?_ ?_
    all_goals exact ⟨fun ⟨⟨x, mem, address, kind⟩, rest⟩ => ⟨x, mem, address, kind, rest⟩,
      fun ⟨x, mem, address, kind, rest⟩ => ⟨⟨x, mem, address, kind⟩, rest⟩⟩
  · have whole : s.rxU ++ a :: rest = a :: rest := by rw [empty, List.nil_append]
    rw [exec_frameArrivalU_bad (by rw [whole]; exact bad), whole, relayBad_of_unguarded (s := s.receivedU)]
    · exact congrArg Host.Outcome.next (congrArg (fun l => ({ s with rxU := l }).sendF (a :: rest)) empty.symm)
    · rintro _ _ ⟨⟩
      exact unguarded

end Sys2Proof.Machine

/-! ## A cause gained: link and node silence (R86, R100, R138, R162, R164) -/

namespace Sys2Proof.Machine

open Sys2Proof

/-! ### Folds, cut at one element -/

section folds

variable {α β : Type} {f : State → β → State} {s : State}

/-- A fold whose steps keep a reading keeps it. -/
theorem foldl_keeps {g : State → α} (keeps : ∀ s x, g (f s x) = g s) (l : List β) : ∀ s, g (l.foldl f s) = g s := by
  induction l with
  | nil => exact fun _ => rfl
  | cons x l ih => exact fun s => (ih _).trans (keeps s x)

/-- A fold, cut at one element: what every other step does, before it and after it. -/
theorem foldl_split {I : State → State → Prop} (refl : ∀ s, I s s) (trans : ∀ s t u, I s t → I t u → I s u)
    {l : List β} {x : β} (mem : x ∈ l) (apart : l.Nodup) (others : ∀ t y, y ≠ x → I t (f t y)) :
    ∃ t, I s t ∧ I (f t x) (l.foldl f s) := by
  obtain ⟨before, after, rfl⟩ := List.append_of_mem mem
  have beside : ∀ l : List β, x ∉ l → ∀ s, I s (l.foldl f s) := by
    intro l
    induction l with
    | nil => exact fun _ s => refl s
    | cons y l ih =>
      intro absent s
      obtain ⟨ne, absent⟩ := not_or.1 (List.mem_cons.not.1 absent)
      exact trans _ _ _ (others s y (Ne.symm ne)) (ih absent _)
  obtain ⟨-, right, crossed⟩ := List.nodup_append.1 apart
  refine ⟨before.foldl f s, beside before (fun here => crossed x here x List.mem_cons_self rfl) s, ?_⟩
  rw [List.foldl_append, List.foldl_cons]
  exact beside after (List.nodup_cons.1 right).1 _

variable {k : Slot}

/-- The work on every slot, cut at one: the other steps leave its round alone. -/
theorem work_allSlots_split {Q : Prop} {f : State → Slot → State}
    (others : ∀ t j, j ≠ k → Work (· ≠ k) Q t (f t j)) :
    ∃ t, Work (· ≠ k) Q s t ∧ Work (· ≠ k) Q (f t k) (allSlots.foldl f s) :=
  foldl_split (fun _ => .refl) (fun _ _ _ => Relation.ReflTransGen.trans) (mem_allSlots k) (by decide) others

end folds

/-! ### A cause gained -/

section gained

variable {s : State} {k : Slot} {f : HoldCauses → HoldCauses} {r x : Round}

/-- What a gained cause does to a record, from `r` to `x` (R86, R100): recorded in the recording states, and a round
that can be held is. -/
structure Round.Gains (f : HoldCauses → HoldCauses) (r x : Round) : Prop where
  recorded : r.state.records = true → x.causes = f r.causes
  ignored : r.state.records = false → x.causes = r.causes
  held : ∀ res, r.state.held = some res → x.state = .holding ∧ x.resume = some res
  stays : r.state.held = none → x.state = r.state

theorem records_of_held {st : RoundState} {res : ResumeState} (held : st.held = some res) : st.records = true := by
  cases st <;> simp_all [RoundState.held, RoundState.records]

theorem gainCause_of_ignored (ignored : (s.round k).state.records = false) : s.gainCause k f = s :=
  if_neg (by simp [ignored])

theorem gainCause_of_held {res : ResumeState} (held : (s.round k).state.held = some res) :
    s.gainCause k f = (s.updRound k fun r => { r with causes := f r.causes }).enterHolding k res := by
  unfold State.gainCause State.takeCause
  rw [if_pos (records_of_held held), State.round_updRound, held]

theorem gainCause_of_recorded (records : (s.round k).state.records = true) (free : (s.round k).state.held = none) :
    s.gainCause k f = s.updRound k fun r => { r with causes := f r.causes } := by
  unfold State.gainCause State.takeCause
  rw [if_pos records, State.round_updRound, free]

theorem gains_gainCause : Round.Gains f (s.round k) ((s.gainCause k f).round k) := by
  cases records : (s.round k).state.records with
  | false =>
    have free : (s.round k).state.held = none := by
      by_contra held
      obtain ⟨res, held⟩ := Option.ne_none_iff_exists'.1 held
      exact nomatch (records_of_held held).symm.trans records
    rw [gainCause_of_ignored records]
    exact ⟨fun yes => (nomatch records.symm.trans yes), fun _ => rfl,
      fun res held => (nomatch free.symm.trans held), fun _ => rfl⟩
  | true =>
    cases held : (s.round k).state.held with
    | none =>
      rw [gainCause_of_recorded records held, State.round_updRound]
      exact ⟨fun _ => rfl, fun no => (nomatch records.symm.trans no),
        fun res some => (nomatch held.symm.trans some), fun _ => rfl⟩
    | some res =>
      rw [gainCause_of_held held, round_enterHolding, State.round_updRound]
      refine ⟨fun _ => rfl, fun no => (nomatch records.symm.trans no), fun res' some => ⟨rfl, ?_⟩,
        fun none => (nomatch held.symm.trans none)⟩
      exact held.symm.trans some

theorem gainCause_work_ne {j : Slot} (ne : j ≠ k) : Work (· ≠ k) True s (s.gainCause j f) :=
  Work.gainCause (P := (· ≠ k)) .rfl' ne f

/-- A gained cause leaves stations and headers alone. -/
theorem stations_headers_gainCause : (s.gainCause k f).stations = s.stations ∧ (s.gainCause k f).headers = s.headers := by
  unfold State.gainCause State.takeCause
  split
  · split
    · rw [enterHolding_eq]
      exact ⟨rfl, rfl⟩
    · exact ⟨rfl, rfl⟩
  · exact ⟨rfl, rfl⟩

end gained

/-! ### Link silence (R164) -/

section link

variable {s : State}

/-- The flag, the time and the timer of a link silence (R164). -/
def State.linkLost (s : State) : State :=
  { s with linkSilent := true, linkExpiry := some s.partTime, linkTimer := s.linkTimer.stop }

/-- Every round has gained LINK_SILENT (R86, R164). -/
def State.linkHeld (s : State) : State :=
  allSlots.foldl (fun s k => s.gainCause k fun c => { c with link := true }) s.linkLost

theorem linkExpires_eq : s.linkExpires = s.linkHeld.offer (bareEvent .linkSilent s.linkHeld.partTime) := rfl

theorem gains_linkHeld (k : Slot) :
    Round.Gains (fun c => { c with link := true }) (s.round k) (s.linkHeld.round k) := by
  obtain ⟨t, before, after⟩ := work_allSlots_split (s := s.linkLost) (k := k) (Q := True)
    (f := fun s k => s.gainCause k fun c => { c with link := true }) fun _ _ ne => gainCause_work_ne ne
  have reached : t.round k = s.round k := (before.rounds k).1 (not_not.2 rfl)
  have left : s.linkHeld.round k = _ := (after.rounds k).1 (not_not.2 rfl)
  rw [left, ← reached]
  exact gains_gainCause

theorem Round.Gains.of_pass {t : State} {n : Nat} {k : Slot} {f : HoldCauses → HoldCauses} {x : Round}
    (passed : t = s.pass n) (gains : Round.Gains f (t.round k) x) : Round.Gains f (s.round k) x := by
  subst passed
  have causes : ((s.pass n).round k).causes = (s.round k).causes := by rw [State.round_pass]; rfl
  obtain ⟨recorded, ignored, held, stays⟩ := gains
  rw [state_pass, causes] at *
  exact ⟨recorded, ignored, held, stays⟩

end link

/-- Settles O17: the idle timer, and the expiry with every round's gained cause. -/
theorem linkSilenceExpiry : Obligations.LinkSilenceExpiry := by
  refine fun s => ⟨fun idle => congrArg Host.Outcome.next (expire_of_idle _ idle), fun running => ?_⟩
  obtain ⟨p, passed⟩ : ∃ p, p = s.pass (s.linkTimer.limit - s.linkTimer.elapsed) := ⟨_, rfl⟩
  obtain ⟨frame, valves, drives, stations, headers⟩ := (linkExpires_work p).frame
  have time : p.linkExpires.partTime = p.partTime := by rw [frame]
  have expiry : p.linkExpires.linkExpiry = some p.partTime := by rw [frame]
  have timer : p.linkExpires.linkTimer = p.linkTimer.stop := by rw [frame]
  refine ⟨p.linkExpires, p.linkHeld, ?_, ?_, ?_, ?_, ?_, ?_, ?_, fun k => ?_⟩
  · rw [passed, ← expire_of_running State.linkExpires running]
    rfl
  · rw [time, passed, State.pass_partTime]
  · rw [frame]
  · rw [expiry, time]
  · rw [timer]
    rfl
  · rw [linkExpires_eq, State.offer_partTime]
  · rw [← passed, expiry, timer]
    exact ⟨frame, valves, drives, stations, headers⟩
  · obtain ⟨recorded, ignored, held, stays⟩ := (gains_linkHeld (s := p) k).of_pass passed
    rw [linkExpires_eq, State.round_offer]
    exact ⟨recorded, ignored, held, stays⟩

/-! ### Node silence (R162) -/

section node

variable {s t : State} {k : Slot} {i n : Nat} {a : Octet} {h : HeaderId}

/-- The nodes a round depends on are read from its record and from what the tables place (R86). -/
theorem dependencies_congr (state : (t.round k).state = (s.round k).state)
    (resume : (t.round k).resume = (s.round k).resume) (held : (t.round k).held = (s.round k).held)
    (criteria : (t.round k).criteria = (s.round k).criteria) (route : t.routeOf k = s.routeOf k)
    (loads : ∀ st, (t.station st).load = (s.station st).load) (header : t.headerLoadOf k = s.headerLoadOf k)
    (valves : t.valveNode = s.valveNode) (drives : t.driveNode = s.driveNode) (points : t.pointNode = s.pointNode) :
    t.dependencies k = s.dependencies k := by
  have supply : t.supplyNodes k = s.supplyNodes k := by
    unfold State.supplyNodes
    simp only [held, loads, drives]
  unfold State.dependencies State.routeNodes State.resolvedNodes State.headerNodes Round.atHeader
  rw [supply, state, resume, criteria, route, header, valves, points]

theorem driveNode_of_frame (frame : sequencerFrame s t) : t.driveNode = s.driveNode := by
  funext n
  have same := congrArg (Option.map DriveEntry.node) (drive_untouched_of_frame frame n)
  rw [Option.map_map, Option.map_map] at same
  exact same

/-- Work beside a round leaves the nodes it depends on. -/
theorem dependencies_of_work {Q : Prop} (w : Work (· ≠ k) Q s t) : t.dependencies k = s.dependencies k := by
  have record : t.round k = s.round k := (w.rounds k).1 (not_not.2 rfl)
  refine dependencies_congr ?_ ?_ ?_ ?_ (routeOf_of_work w) w.frame.2.2.2.1 (headerLoadOf_of_work w)
    (valveNode_of_frame w.frame) (driveNode_of_frame w.frame) (pointNode_of_frame w.frame)
  all_goals rw [record]

theorem dependencies_pass : (s.pass n).dependencies k = s.dependencies k := by
  refine dependencies_congr ?_ ?_ ?_ ?_ (routeOf_pass n) (fun st => by rw [State.station_pass]) (headerLoadOf_pass n) ?_ ?_ ?_
  · exact state_pass n
  · rw [State.round_pass]
    rfl
  · exact held_pass n
  · rw [State.round_pass]
    rfl
  · unfold State.valveNode
    rw [State.pass_valves]
  · unfold State.driveNode
    rw [State.pass_drives]
  · unfold State.pointNode
    rw [State.pass_points]

/-- Changing every entry without its key leaves the key at each index. -/
theorem Table.entry_each_key {α β : Type} {g : Nat → α → α} {key : α → β} (kept : ∀ n x, key (g n x) = key x)
    (t : Table α) (n : Nat) : (Table.entry (Table.each g t) n).map key = (Table.entry t n).map key := by
  rw [Table.entry_each, Option.map_map]
  exact congrArg (fun g => (Table.entry t n).map g) (funext (kept n))

theorem dependencies_blankNode : (s.blankNode i a).dependencies k = s.dependencies k := by
  refine dependencies_congr rfl rfl rfl rfl rfl (fun _ => rfl) rfl ?_ ?_ ?_
  · exact funext (Table.entry_each_key (key := ValveEntry.node)
      (g := fun _ (v : ValveEntry) => if v.node = a then { v with feedback := .unknown } else v)
      (fun _ v => by split <;> rfl) s.valves)
  · exact funext (Table.entry_each_key (key := DriveEntry.node)
      (g := fun _ (d : DriveEntry) => if d.node = a then { d with status := .unknown, value := none } else d)
      (fun _ d => by split <;> rfl) s.drives)
  · exact funext (Table.entry_each_key (key := PointEntry.node)
      (g := fun _ (p : PointEntry) => if p.node = a then { p with quality := .none } else p)
      (fun _ p => by split <;> rfl) s.points)

/-- Every round that depends on the node has gained NODE_SILENT for it (R162, part 4). -/
def State.nodeHeld (a : Octet) (s : State) : State := allSlots.foldl (fun s k => s.holdFor a k) s

/-- Every interface whose conductivity point is on the node has its hold stopped at 0.0 (R162, part 5). -/
def State.interfacesHeld (a : Octet) (s : State) : State :=
  allHeaders.foldl (fun s h => if s.condOn a h then s.condSilence h else s) s

theorem nodeExpires_eq : s.nodeExpires i a = (((s.blankNode i a).nodeHeld a).interfacesHeld a).offer
    { bareEvent .nodeSilent (((s.blankNode i a).nodeHeld a).interfacesHeld a).partTime with
      subject := some (.node i), value := some (.number a.toNat) } := rfl

theorem holdFor_of_depends (depends : a ∈ s.dependencies k) : s.holdFor a k = s.gainCause k (HoldCauses.addNode a) :=
  if_pos (List.contains_iff_mem.2 depends)

theorem holdFor_of_not_depends (apart : a ∉ s.dependencies k) : s.holdFor a k = s :=
  if_neg (List.contains_iff_mem.not.2 apart)

theorem holdFor_work_ne {j : Slot} (ne : j ≠ k) : Work (· ≠ k) True s (s.holdFor a j) := by
  unfold State.holdFor
  split
  · exact gainCause_work_ne ne
  · exact .rfl'

theorem stations_headers_nodeHeld : (s.nodeHeld a).stations = s.stations ∧ (s.nodeHeld a).headers = s.headers := by
  have each : ∀ (s : State) (k : Slot), (s.holdFor a k).stations = s.stations ∧ (s.holdFor a k).headers = s.headers := by
    intro s k
    unfold State.holdFor
    split
    · exact stations_headers_gainCause
    · exact ⟨rfl, rfl⟩
  exact ⟨foldl_keeps (g := State.stations) (fun s k => (each s k).1) allSlots s,
    foldl_keeps (g := State.headers) (fun s k => (each s k).2) allSlots s⟩

/-- What the silence of a node does to a round's record (R86, R162). -/
theorem round_nodeHeld :
    (a ∈ s.dependencies k → Round.Gains (HoldCauses.addNode a) (s.round k) ((s.nodeHeld a).round k))
    ∧ (a ∉ s.dependencies k → (s.nodeHeld a).round k = s.round k) := by
  obtain ⟨t, before, after⟩ := work_allSlots_split (s := s) (k := k) (Q := True)
    (f := fun s k => s.holdFor a k) fun _ _ ne => holdFor_work_ne ne
  have reached : t.round k = s.round k := (before.rounds k).1 (not_not.2 rfl)
  have left : (s.nodeHeld a).round k = (t.holdFor a k).round k := (after.rounds k).1 (not_not.2 rfl)
  rw [← dependencies_of_work before, left, ← reached]
  refine ⟨fun depends => ?_, fun apart => ?_⟩
  · rw [holdFor_of_depends depends]
    exact gains_gainCause
  · rw [holdFor_of_not_depends apart]

/-- The silence of a conductivity point's node changes headers alone (R138). -/
theorem condSilence_eq : s.condSilence h = { s with headers := (s.condSilence h).headers } := by
  unfold State.condSilence
  split <;> rfl

theorem interfacesHeld_eq : s.interfacesHeld a = { s with headers := (s.interfacesHeld a).headers } := by
  have each : ∀ (l : List HeaderId) (s : State), l.foldl (fun s h => if s.condOn a h then s.condSilence h else s) s
      = { s with headers := (l.foldl (fun s h => if s.condOn a h then s.condSilence h else s) s).headers } := by
    intro l
    induction l with
    | nil => exact fun _ => rfl
    | cons h l ih =>
      intro s
      rw [List.foldl_cons, ih]
      split
      · rw [condSilence_eq]
      · rfl
  exact each allHeaders s

theorem rounds_interfacesHeld : (s.interfacesHeld a).rounds = s.rounds := by rw [interfacesHeld_eq]

theorem stations_interfacesHeld : (s.interfacesHeld a).stations = s.stations := by rw [interfacesHeld_eq]

/-- A header's conductivity point stands on a node by the header's load and the points alone. -/
theorem condOn_congr (load : (t.header h).load = (s.header h).load) (points : t.pointNode = s.pointNode) :
    t.condOn a h = s.condOn a h := by
  rw [State.condOn, load, points, State.condOn]

/-- The hold of a running interface is stopped at 0.0 when its conductivity point's node falls silent (R138). -/
theorem header_interfacesHeld (on : s.condOn a h = true) (running : (s.header h).interface ≠ .steady) :
    (s.interfacesHeld a).header h
      = { s.header h with hold := { (s.header h).hold with mode := .stopped, elapsed := 0 } } := by
  obtain ⟨t, ⟨reached, points⟩, left, -⟩ := foldl_split (s := s) (l := allHeaders) (x := h)
    (f := fun s h => if s.condOn a h then s.condSilence h else s)
    (I := fun s t => t.header h = s.header h ∧ t.pointNode = s.pointNode) (fun _ => ⟨rfl, rfl⟩)
    (fun _ _ _ first second => ⟨second.1.trans first.1, second.2.trans first.2⟩) (by fin_cases h <;> decide) (by decide)
    fun t j ne => by
      split
      · unfold State.condSilence
        split
        · exact ⟨rfl, rfl⟩
        · exact ⟨State.header_updHeader_ne _ _ (Ne.symm ne), rfl⟩
      · exact ⟨rfl, rfl⟩
  have here : (if t.condOn a h then t.condSilence h else t) = t.updHeader h fun x =>
      { x with hold := { x.hold with mode := .stopped, elapsed := 0 } } := by
    rw [condOn_congr (congrArg Header.load reached) points, if_pos on, State.condSilence,
      if_neg (by rw [reached]; exact running)]
  rw [State.interfacesHeld, left, here, State.header_updHeader, reached]

theorem records_of_depends (depends : a ∈ s.dependencies k) : (s.round k).state.records = true := by
  unfold State.dependencies at depends
  split at depends
  next records => exact records
  next => cases depends

/-- What work leaves of an entry's key, of every entry that stands in the table. -/
theorem Table.exists_of_keys {α β : Type} {key : α → β} {t u : Table α} (same : t.map (fun x => (x.1, key x.2))
    = u.map (fun x => (x.1, key x.2))) {x : Nat × α} (mem : x ∈ t) : ∃ y ∈ u, key y.2 = key x.2 := by
  have kept := List.mem_map_of_mem (f := fun x : Nat × α => (x.1, key x.2)) mem
  rw [same] at kept
  obtain ⟨y, mem, eq⟩ := List.mem_map.1 kept
  exact ⟨y, mem, congrArg Prod.snd eq⟩

theorem ValveEntry.image_of_untouched {v w : ValveEntry} (same : v.untouched = w.untouched) :
    v.node = w.node ∧ v.feedback = w.feedback := by
  have node := congrArg ValveEntry.node same
  have feedback := congrArg ValveEntry.feedback same
  exact ⟨node, feedback⟩

theorem DriveEntry.image_of_untouched {d e : DriveEntry} (same : d.untouched = e.untouched) :
    d.node = e.node ∧ d.status = e.status ∧ d.value = e.value := by
  have node := congrArg DriveEntry.node same
  have status := congrArg DriveEntry.status same
  have value := congrArg DriveEntry.value same
  exact ⟨node, status, value⟩

/-- The images of a silent node's valves and drives (R162, part 2). -/
theorem silent_images (frame : sequencerFrame (s.blankNode i a) t) :
    (∀ x ∈ t.valves, x.2.node = a → x.2.feedback = .unknown)
    ∧ ∀ x ∈ t.drives, x.2.node = a → x.2.status = .unknown ∧ x.2.value = none := by
  obtain ⟨-, valves, drives, -⟩ := frame
  refine ⟨fun x mem node => ?_, fun x mem node => ?_⟩
  · obtain ⟨y, mem, same⟩ := Table.exists_of_keys valves mem
    obtain ⟨z, -, rfl⟩ := List.mem_map.1 mem
    obtain ⟨place, image⟩ := ValveEntry.image_of_untouched same
    dsimp only at place image
    split at image
    next => exact image.symm
    next off => exact absurd (by rw [← node, ← place, if_neg off]) off
  · obtain ⟨y, mem, same⟩ := Table.exists_of_keys drives mem
    obtain ⟨z, -, rfl⟩ := List.mem_map.1 mem
    obtain ⟨place, status, value⟩ := DriveEntry.image_of_untouched same
    dsimp only at place status value
    by_cases on : z.2.node = a
    · rw [if_pos on] at status value
      exact ⟨status.symm, value.symm⟩
    · exact absurd (by rw [← node, ← place, if_neg on]) on

/-- The rounds and the headers after a node silence (R138, R162). -/
theorem round_nodeExpires : (s.nodeExpires i a).round k = ((s.blankNode i a).nodeHeld a).round k := by
  rw [nodeExpires_eq, State.round_offer, State.round, rounds_interfacesHeld, State.round]

theorem header_nodeExpires (on : s.condOn a h = true) (running : (s.header h).interface ≠ .steady) :
    (s.nodeExpires i a).header h
      = { s.header h with hold := { (s.header h).hold with mode := .stopped, elapsed := 0 } } := by
  have points : ((s.blankNode i a).nodeHeld a).pointNode = s.pointNode := by
    have work : Work (fun _ => True) True (s.blankNode i a) ((s.blankNode i a).nodeHeld a) :=
      .foldl _ (fun t k => by
        unfold State.holdFor
        split
        · exact .gainCause .rfl' trivial _
        · exact .rfl') allSlots _
    rw [pointNode_of_frame work.frame]
    exact funext (Table.entry_each_key (key := PointEntry.node)
      (g := fun _ (p : PointEntry) => if p.node = a then { p with quality := .none } else p)
      (fun _ p => by split <;> rfl) s.points)
  have header : ((s.blankNode i a).nodeHeld a).header h = s.header h := by
    unfold State.header
    rw [stations_headers_nodeHeld.2]
    rfl
  have on' : ((s.blankNode i a).nodeHeld a).condOn a h = true := by
    rw [condOn_congr (congrArg Header.load header) points]
    exact on
  rw [nodeExpires_eq, State.header_offer, header_interfacesHeld on' (by rw [header]; exact running), header]

end node

/-- Settles O19: the flag and the images, the rounds that depend on the node, the interfaces, and the event. -/
theorem nodeSilenceExpiry : Obligations.NodeSilenceExpiry := by
  intro s i e entry running
  obtain ⟨p, passed⟩ : ∃ p, p = s.pass (e.silence.limit - e.silence.elapsed) := ⟨_, rfl⟩
  have frame := (nodeExpires_work p i.val e.address).frame
  obtain ⟨valves, drives⟩ := silent_images frame
  have time : (p.nodeExpires i.val e.address).partTime = p.partTime := by rw [frame.1]; rfl
  refine ⟨p.nodeExpires i.val e.address, ((p.blankNode i.val e.address).nodeHeld e.address).interfacesHeld e.address,
    ?_, ?_, ?_, valves, drives, ?_, ?_, fun h on unsteady => ?_, fun k depends => ?_, fun k apart => ?_, ?_, ?_, ?_⟩
  · rw [passed, ← expire_of_running (State.nodeExpires i.val e.address) running]
    show execNodeSilenceExpiry i s = _
    unfold execNodeSilenceExpiry
    rw [entry]
  · rw [time, passed, State.pass_partTime]
  · have nodes : (p.nodeExpires i.val e.address).nodes = (p.blankNode i.val e.address).nodes := by rw [frame.1]
    have counted : Table.entry p.nodes i.val = some { e with
        silence := e.silence.count (e.silence.limit - e.silence.elapsed) } := by
      rw [passed, State.pass_nodes, Table.entry_each, entry]
      rfl
    rw [nodes, State.blankNode, Table.entry_adjust_self, counted]
    rfl
  · have points : (p.nodeExpires i.val e.address).points = (p.blankNode i.val e.address).points := by rw [frame.1]
    rw [points, passed, State.blankNode, State.pass_points]
    rfl
  · rw [nodeExpires_eq, State.offer_partTime]
  · have load : (p.header h).load = (s.header h).load := by rw [passed, State.header_pass]
    have interface : (p.header h).interface = (s.header h).interface := by rw [passed, State.header_pass]
    have points : p.pointNode = s.pointNode := by
      unfold State.pointNode
      rw [passed, State.pass_points]
    rw [header_nodeExpires (by rw [condOn_congr load points]; exact on) (by rw [interface]; exact unsteady)]
    exact ⟨rfl, rfl, interface⟩
  · have depends' : e.address ∈ (p.blankNode i.val e.address).dependencies k := by
      rw [dependencies_blankNode, passed, dependencies_pass]
      exact depends
    obtain ⟨recorded, -, held, stays⟩ := (round_nodeHeld.1 depends').of_pass (s := s) (t := p) passed
    rw [round_nodeExpires]
    refine ⟨?_, stays, held⟩
    rw [recorded (records_of_depends depends)]
    exact mem_insertAddress.2 (.inl rfl)
  · rw [round_nodeExpires, round_nodeHeld.2, ← passed]
    · rfl
    · rw [dependencies_blankNode, passed, dependencies_pass]
      exact apart
  · rw [show (p.nodeExpires i.val e.address).segments = p.segments by rw [frame.1]; rfl, passed, State.pass_segments]
  · rw [show (p.nodeExpires i.val e.address).claimQueue = p.claimQueue by rw [frame.1]; rfl, passed,
      State.pass_claimQueue]
  · rw [nodeExpires_eq, State.offer_stations, stations_interfacesHeld, stations_headers_nodeHeld.1]
    exact (congrArg State.stations passed).trans (State.pass_stations ..)

end Sys2Proof.Machine

/-! ## Command frames settled and rebuilt, slot by slot (R148 to R156) -/

namespace Sys2Proof.Machine

open Sys2Proof

/-! ### One slot after the other -/

section slots

variable {α β : Type} {one : Nat → α → State → State × β} {s u : State} {l : List α} {i first : Nat} {x : α}

/-- What a frame's entries do one after the other, and the entries that go out (R148). -/
def runSlots (one : Nat → α → State → State × β) : Nat → List α → State → State × List β
  | _, [], s => (s, [])
  | slot, x :: l, s =>
    let done := one slot x s
    let rest := runSlots one (slot + 1) l done.1
    (rest.1, done.2 :: rest.2)

theorem runSlots_length (l : List α) : ∀ (slot : Nat) (s : State), (runSlots one slot l s).2.length = l.length := by
  induction l with
  | nil => exact fun _ _ => rfl
  | cons x l ih => exact fun slot s => congrArg (· + 1) (ih _ _)

/-- What every entry keeps, all of them keep; `J` is what holds of every state on the way. -/
theorem runSlots_keeps {I J : State → State → Prop} (refl : ∀ s, I s s) (trans : ∀ s t u, I s t → I t u → I s u)
    (goes : ∀ t j y, J s t → J s (one j y t).1) (l : List α) : ∀ {first u}, J s u →
      (∀ t j y, J s t → first ≤ j → j < first + l.length → I t (one j y t).1) → I u (runSlots one first l u).1 := by
  induction l with
  | nil => exact fun _ _ => refl _
  | cons x l ih =>
    intro first u here each
    have rest := ih (first := first + 1) (goes u first x here) fun t j y on low high =>
      each t j y on (by omega) (by rw [List.length_cons]; omega)
    exact trans _ _ _ (each u first x here (Nat.le_refl _) (by rw [List.length_cons]; omega)) rest

/-- The entries of a frame, cut at one: what the others keep, before it and after it. -/
theorem runSlots_split {I J : State → State → Prop} (refl : ∀ s, I s s) (trans : ∀ s t u, I s t → I t u → I s u)
    (goes : ∀ t j y, J s t → J s (one j y t).1) {slot : Nat} (others : ∀ t j y, J s t → j ≠ slot → I t (one j y t).1)
    (l : List α) : ∀ {first u i x}, J s u → l[i]? = some x → slot = first + i → ∃ t, J s t ∧ I u t
      ∧ (runSlots one first l u).2[i]? = some (one slot x t).2 ∧ I (one slot x t).1 (runSlots one first l u).1 := by
  induction l with
  | nil => exact fun _ at' => nomatch at'
  | cons y l ih =>
    intro first u i x here at' place
    cases i with
    | zero =>
      obtain rfl : y = x := Option.some.inj at'
      obtain rfl : slot = first := place
      refine ⟨u, here, refl u, rfl, runSlots_keeps refl trans goes l (goes u slot y here) fun t j z on low _ => ?_⟩
      exact others t j z on (by omega)
    | succ i =>
      have next := goes u first y here
      obtain ⟨t, on, before, out, after⟩ := ih next at' (by omega : slot = first + 1 + i)
      exact ⟨t, on, trans _ _ _ (others u first y here (by omega)) before, out, after⟩

end slots

/-! ### The actuators a frame names -/

section places

variable {s t : State} {a : Octet} {slot m n : Nat} {v : ValveEntry} {d : DriveEntry}

theorem Table.adjust_adjust {α : Type} (n : Nat) (f g : α → α) (t : Table α) :
    Table.adjust n f (Table.adjust n g t) = Table.adjust n (fun x => f (g x)) t := by
  unfold Table.adjust
  rw [List.map_map]
  refine List.map_congr_left fun x _ => ?_
  by_cases here : x.1 = n <;> simp [here]

theorem Table.adjust_of_kept {α : Type} {n : Nat} {f : α → α} (kept : ∀ x, f x = x) (t : Table α) :
    Table.adjust n f t = t := by
  unfold Table.adjust
  simp [kept]

theorem Table.first_keys {α β : Type} {key : α → β} {p : Nat → β → Bool} {t u : Table α}
    (same : Table.keys key t = Table.keys key u) :
    Table.first (fun n x => p n (key x)) t = Table.first (fun n x => p n (key x)) u := by
  have through : ∀ w : Table α, Table.first (fun n x => p n (key x)) w = Table.first p (Table.keys key w) := by
    intro w
    induction w with
    | nil => rfl
    | cons x w ih =>
      show (if p x.1 (key x.2) then some x.1 else _) = (if p x.1 (key x.2) then some x.1 else _)
      rw [ih]
      rfl
  rw [through, through, same]

theorem valveAt_of_sameKeys (same : SameKeys s t) : t.valveAt a slot = s.valveAt a slot :=
  Table.first_keys (p := fun _ (x : Octet × Nat) => x.1 == a && x.2 == slot) same.valves

theorem driveAt_of_sameKeys (same : SameKeys s t) : t.driveAt a slot = s.driveAt a slot :=
  Table.first_keys (p := fun _ (x : Octet × Nat) => x.1 == a && x.2 == slot) same.drives

/-- The valve of a node and slot in a canonical table (R148). -/
theorem valveAt_eq_some (canonical : s.tablesCanonical) :
    s.valveAt a slot = some n ↔ ∃ v, Table.entry s.valves n = some v ∧ v.node = a ∧ v.slot = slot := by
  obtain ⟨-, -, valves, -, -, -, -, -, places, -⟩ := canonical
  rw [State.valveAt, Table.first_eq_some_iff (key := (a, slot)) valves places fun v => by simp]
  simp only [Prod.mk.injEq]

/-- The drive of a node and channel in a canonical table (R148). -/
theorem driveAt_eq_some (canonical : s.tablesCanonical) :
    s.driveAt a slot = some n ↔ ∃ d, Table.entry s.drives n = some d ∧ d.node = a ∧ d.channel = slot := by
  obtain ⟨-, -, -, drives, -, -, -, -, -, places, -⟩ := canonical
  rw [State.driveAt, Table.first_eq_some_iff (key := (a, slot)) drives places fun d => by simp]
  simp only [Prod.mk.injEq]

/-- One valve answers one slot. -/
theorem valveAt_ne (canonical : s.tablesCanonical) {other : Nat} (at' : s.valveAt a slot = some n)
    (found : s.valveAt a other = some m) (ne : other ≠ slot) : n ≠ m := by
  rintro rfl
  obtain ⟨v, entry, -, here⟩ := (valveAt_eq_some canonical).1 at'
  obtain ⟨w, entry', -, there⟩ := (valveAt_eq_some canonical).1 found
  obtain rfl := Option.some.inj (entry.symm.trans entry')
  exact ne (there.symm.trans here)

/-- One drive answers one channel. -/
theorem driveAt_ne (canonical : s.tablesCanonical) {other : Nat} (at' : s.driveAt a slot = some n)
    (found : s.driveAt a other = some m) (ne : other ≠ slot) : n ≠ m := by
  rintro rfl
  obtain ⟨d, entry, -, here⟩ := (driveAt_eq_some canonical).1 at'
  obtain ⟨e, entry', -, there⟩ := (driveAt_eq_some canonical).1 found
  obtain rfl := Option.some.inj (entry.symm.trans entry')
  exact ne (there.symm.trans here)

end places

/-! ### A valve's entry settled (R149 to R152) -/

section valve

variable {s t : State} {a : Octet} {m n slot : Nat} {v : ValveEntry} {p q : Option Position} {k : Slot} {x : Position}

/-- What the entry of a valve is forwarded as (R150 to R152). -/
def State.forwards (s : State) (n : Nat) (v : ValveEntry) (p : Option Position) : Option Position :=
  if v.owner.isSome then some v.imagePosition
  else if s.locked v then some (s.lockedPosition n v)
  else p

/-- A valve's entry once `p` has been asked and `q` forwarded at a part time (R85, R149). -/
def ValveEntry.settled (p q : Option Position) (now : PartTime) (v : ValveEntry) : ValveEntry :=
  { v with
    requested := p.or v.requested
    commanded := q.or v.commanded
    changed := if q = none ∨ q = v.commanded then v.changed else some now }

/-- An offer leaves the valves, and so does a set override flag. -/
theorem valves_override {differs : Bool} {subject : Subject} {value : EventValue} :
    (s.override k differs subject value).valves = s.valves := by
  unfold State.override
  split
  · exact State.offer_valves ..
  · rfl

theorem drives_override {differs : Bool} {subject : Subject} {value : EventValue} :
    (s.override k differs subject value).drives = s.drives := by
  unfold State.override
  split
  · exact State.offer_drives ..
  · rfl

/-- A request that differs leaves the owner's override flag set (R150, R153). -/
theorem override_of_differs {subject : Subject} {value : EventValue} :
    ((s.override k true subject value).round k).override = true := by
  unfold State.override
  split
  next => rw [State.round_offer, State.round_updRound]
  next set => simpa using set

theorem valves_settleOwned : (s.settleOwned n k x p).valves = (s.commandValve n x).valves := by
  cases p with
  | none => rfl
  | some q => exact valves_override

theorem valves_settleLocked : (s.settleLocked n v x p).valves = (s.commandValve n x).valves := by
  cases p with
  | none => rfl
  | some q =>
    show (State.block n v x q _).valves = _
    unfold State.block
    split
    · exact State.offer_valves ..
    · rfl

/-- What settling leaves alone, locks and lifts are read from (R55, R97, R151). -/
theorem locked_of_settled (h : Settled s t) : t.locked v = s.locked v := by
  rw [h.fields]
  rfl

theorem lifting_of_settled (h : Settled s t) : t.lifting k n = s.lifting k n := by
  have routes : t.routes = s.routes := by rw [h.fields]
  unfold State.lifting State.liftItem State.routeOf
  rw [h.rounds k, routes]

theorem lockedPosition_of_settled (h : Settled s t) : t.lockedPosition n v = s.lockedPosition n v := by
  have sides : t.sideState = s.sideState := by
    rw [h.fields]
    rfl
  have lifts : (fun k => t.lifting k n) = fun k => s.lifting k n := funext fun _ => lifting_of_settled h
  unfold State.lockedPosition State.segregatedPosition State.liftToClaimed State.claimSlots
  rw [lifts, sides]

theorem forwards_of_settled (h : Settled s t) : t.forwards n v p = s.forwards n v p := by
  rw [State.forwards, locked_of_settled h, lockedPosition_of_settled h, State.forwards]

/-- The valves once an entry is stored and commanded (R85, R149). -/
theorem valves_stored_commanded : ((s.storeRequest n p).commandValve n x).valves
    = Table.adjust n (ValveEntry.settled p (some x) s.partTime) s.valves := by
  have written : ∀ w : ValveEntry, ValveEntry.command s.partTime x { w with requested := p.or w.requested }
      = w.settled p (some x) s.partTime := by
    intro w
    unfold ValveEntry.command ValveEntry.settled
    by_cases same : w.commanded = some x
    · simp [same]
    · simp [same, Ne.symm same]
  cases p with
  | none => exact congrArg (Table.adjust n · s.valves) (funext written)
  | some q =>
    exact (Table.adjust_adjust n _ _ s.valves).trans (congrArg (Table.adjust n · s.valves) (funext written))

/-- The entry that goes out for a valve, and the valves afterwards (R149 to R152). -/
theorem settleValve_at (entry : Table.entry s.valves n = some v) : (s.settleValve n p).2 = s.forwards n v p
    ∧ (s.settleValve n p).1.valves = Table.adjust n (ValveEntry.settled p (s.forwards n v p) s.partTime) s.valves := by
  have stored := Settled.storeRequest s n p
  unfold State.settleValve State.forwards
  rw [entry]
  dsimp only
  cases owner : v.owner with
  | some k => exact ⟨rfl, valves_settleOwned.trans valves_stored_commanded⟩
  | none =>
    rw [locked_of_settled stored, lockedPosition_of_settled stored]
    cases locked : s.locked v with
    | true => exact ⟨rfl, valves_settleLocked.trans valves_stored_commanded⟩
    | false =>
      cases p with
      | some x => exact ⟨rfl, valves_stored_commanded⟩
      | none =>
        refine ⟨rfl, (Table.adjust_of_kept (fun w => ?_) s.valves).symm⟩
        simp [ValveEntry.settled]

/-- Another valve's entry stands. -/
theorem entry_settleValve_ne (ne : m ≠ n) : Table.entry (s.settleValve n p).1.valves m = Table.entry s.valves m := by
  cases entry : Table.entry s.valves n with
  | none =>
    unfold State.settleValve
    rw [entry]
  | some v => rw [(settleValve_at entry).2, Table.entry_adjust_ne _ _ ne]

/-- The owner's override flag, when what is asked differs from what goes out (R150). -/
theorem override_settleValve (entry : Table.entry s.valves n = some v) (owner : v.owner = some k)
    (differs : some x ≠ (s.settleValve n (some x)).2) :
    ((s.settleValve n (some x)).1.round k).override = true := by
  unfold State.settleValve at differs ⊢
  rw [entry] at differs ⊢
  dsimp only at differs ⊢
  rw [owner] at differs ⊢
  have apart : (x != v.imagePosition) = true := bne_iff_ne.2 fun same => differs (congrArg some same)
  show ((State.override k (x != v.imagePosition) _ _ _).round k).override = true
  rw [apart]
  exact override_of_differs

end valve

/-! ### A valve cluster's frame settled (R148) -/

section cluster

variable {s t : State} {a : Octet} {m n slot i : Nat} {v : ValveEntry} {p q : Option Position} {k : Slot}
  {l : List (Option Position)}

/-- What a slot's entry does and goes out as; an untracked slot passes on what arrived (R148, R152). -/
def State.settleSlot (a : Octet) (slot : Nat) (p : Option Position) (s : State) : State × Option Position :=
  match s.valveAt a slot with
  | some n => s.settleValve n p
  | none => (s, p)

theorem settleValves_eq (l : List (Option Position)) : ∀ (slot : Nat) (s : State),
    s.settleValves a slot l = runSlots (State.settleSlot a) slot l s := by
  induction l with
  | nil => exact fun _ _ => rfl
  | cons p l ih =>
    intro slot s
    show ((State.settleValves a (slot + 1) l (s.settleSlot a slot p).1).1,
      (s.settleSlot a slot p).2 :: (State.settleValves a (slot + 1) l (s.settleSlot a slot p).1).2) = _
    rw [ih]
    rfl

theorem settled_settleSlot : Settled s (s.settleSlot a slot p).1 := by
  unfold State.settleSlot
  split
  · exact Settled.settleValve s _ p
  · exact .rfl'

theorem drives_settleValve : (s.settleValve n p).1.drives = s.drives := by
  have stored : (s.storeRequest n p).drives = s.drives := by cases p <;> rfl
  have owned : ∀ (t : State) (k : Slot) (x : Position), (t.settleOwned n k x p).drives = t.drives := fun t k x => by
    cases p with
    | none => rfl
    | some q => exact drives_override
  have blocked : ∀ (t : State) (v : ValveEntry) (x : Position), (t.settleLocked n v x p).drives = t.drives := fun t v x => by
    cases p with
    | none => rfl
    | some q =>
      show (State.block n v x q _).drives = _
      unfold State.block
      split
      · exact State.offer_drives ..
      · rfl
  unfold State.settleValve
  split
  · rfl
  · dsimp only
    split
    · exact (owned _ _ _).trans stored
    · split
      · exact (blocked _ _ _).trans stored
      · cases p <;> rfl

/-- Settling a cluster's frame leaves the drives. -/
theorem drives_settleValves {slot : Nat} : (s.settleValves a slot l).1.drives = s.drives := by
  rw [settleValves_eq]
  refine runSlots_keeps (s := s) (I := fun s t => t.drives = s.drives) (J := fun _ _ => True) (fun _ => rfl)
    (fun _ _ _ first second => second.trans first) (fun _ _ _ _ => trivial) l trivial fun t j p _ _ _ => ?_
  unfold State.settleSlot
  split
  · exact drives_settleValve
  · rfl

/-- A valve of another node keeps its entry (R148). -/
theorem settleValves_elsewhere (canonical : s.tablesCanonical) (entry : Table.entry s.valves n = some v)
    (elsewhere : v.node ≠ a) : Table.entry (s.settleValves a 0 l).1.valves n = some v := by
  rw [settleValves_eq, ← entry]
  refine runSlots_keeps (I := fun s t => Table.entry t.valves n = Table.entry s.valves n) (J := Settled)
    (fun _ => rfl) (fun _ _ _ first second => second.trans first) (fun t j p on => on.trans settled_settleSlot) l .rfl'
    fun t j p on _ _ => ?_
  unfold State.settleSlot
  split
  next m found =>
    refine entry_settleValve_ne ?_
    rintro rfl
    rw [valveAt_of_sameKeys (.ofSettled on)] at found
    obtain ⟨w, entry', node, -⟩ := (valveAt_eq_some canonical).1 found
    obtain rfl := Option.some.inj (entry.symm.trans entry')
    exact elsewhere node
  next => rfl

/-- A slot's entry of a settled frame: the state it meets, and what the others leave. -/
theorem settleValves_split (canonical : s.tablesCanonical) (asked : l[slot]? = some p) : ∃ t, Settled s t
    ∧ (∀ n, s.valveAt a slot = some n → Table.entry t.valves n = Table.entry s.valves n)
    ∧ (s.settleValves a 0 l).2[slot]? = some (t.settleSlot a slot p).2
    ∧ Settled (t.settleSlot a slot p).1 (s.settleValves a 0 l).1
    ∧ ∀ n, s.valveAt a slot = some n →
      Table.entry (s.settleValves a 0 l).1.valves n = Table.entry (t.settleSlot a slot p).1.valves n := by
  rw [settleValves_eq]
  obtain ⟨t, on, ⟨-, before⟩, out, rest, after⟩ := runSlots_split (one := State.settleSlot a) (slot := slot)
    (I := fun t u => Settled t u ∧ ∀ n, s.valveAt a slot = some n → Table.entry u.valves n = Table.entry t.valves n)
    (J := Settled) (fun _ => ⟨.rfl', fun _ _ => rfl⟩)
    (fun _ _ _ first second => ⟨first.1.trans second.1, fun n at' => (second.2 n at').trans (first.2 n at')⟩)
    (fun t j p on => on.trans settled_settleSlot)
    (fun t j p on ne => ⟨settled_settleSlot, fun n at' => by
      unfold State.settleSlot
      split
      next m found =>
        rw [valveAt_of_sameKeys (.ofSettled on)] at found
        exact entry_settleValve_ne (valveAt_ne canonical at' found ne)
      next => rfl⟩)
    l Settled.rfl' asked (Nat.zero_add slot).symm
  exact ⟨t, on, before, out, rest, after⟩

/-- An untracked slot passes on what arrived (R148). -/
theorem settleValves_untracked (canonical : s.tablesCanonical) (asked : l[slot]? = some p)
    (untracked : s.valveAt a slot = none) : (s.settleValves a 0 l).2[slot]? = some p := by
  obtain ⟨t, on, -, out, -⟩ := settleValves_split (a := a) canonical asked
  rw [out, State.settleSlot, valveAt_of_sameKeys (.ofSettled on), untracked]

/-- A tracked slot: what goes out, the valve's entry afterwards, and its owner's override flag (R149 to R152). -/
theorem settleValves_tracked (canonical : s.tablesCanonical) (asked : l[slot]? = some p)
    (tracked : s.valveAt a slot = some n) (entry : Table.entry s.valves n = some v) :
    (s.settleValves a 0 l).2[slot]? = some (s.forwards n v p)
    ∧ Table.entry (s.settleValves a 0 l).1.valves n = some (v.settled p (s.forwards n v p) s.partTime)
    ∧ ∀ k x, v.owner = some k → p = some x → p ≠ s.forwards n v p →
      ((s.settleValves a 0 l).1.round k).override = true := by
  obtain ⟨t, on, before, out, rest, after⟩ := settleValves_split (a := a) canonical asked
  have here : Table.entry t.valves n = some v := (before n tracked).trans entry
  have slots : t.settleSlot a slot p = t.settleValve n p := by
    rw [State.settleSlot, valveAt_of_sameKeys (.ofSettled on), tracked]
  obtain ⟨goes, valves⟩ := settleValve_at (p := p) here
  have time : t.partTime = s.partTime := by rw [on.fields]
  rw [forwards_of_settled on] at goes valves
  refine ⟨by rw [out, slots, goes], ?_, fun k x owner some differs => ?_⟩
  · rw [after n tracked, slots, valves, Table.entry_adjust_self, here, time]
    rfl
  · subst some
    refine rest.rises k ?_
    rw [slots]
    exact override_settleValve here owner (goes.symm ▸ differs)

end cluster

/-! ### The lift of a locked valve (R151) -/

section locked

variable {s : State} {n : Nat} {v : ValveEntry} {p : Option Position} {k : Slot} {x : Position}

theorem forwards_of_owner (owner : v.owner = some k) : s.forwards n v p = some (v.commanded.getD .close) := by
  rw [State.forwards, owner]
  rfl

theorem owner_of_locked (locked : s.locked v = true) : v.owner = none := by
  unfold State.locked at locked
  rw [Bool.and_eq_true, Option.isNone_iff_eq_none] at locked
  exact locked.1

theorem forwards_of_locked (locked : s.locked v = true) : s.forwards n v p = some (s.lockedPosition n v) := by
  rw [State.forwards, owner_of_locked locked, locked]
  rfl

theorem forwards_of_free (owner : v.owner = none) (free : s.locked v = false) : s.forwards n v p = p := by
  rw [State.forwards, owner, free]
  rfl

/-- In a list without repeats, one element with a value leaves one value. -/
theorem filterMap_of_only {α β : Type} {g : α → Option β} {l : List α} {k : α} {x : β} (apart : l.Nodup) (mem : k ∈ l)
    (value : g k = some x) (only : ∀ j ∈ l, g j ≠ none → j = k) : l.filterMap g = [x] := by
  obtain ⟨before, after, rfl⟩ := List.append_of_mem mem
  obtain ⟨-, right, crossed⟩ := List.nodup_append.1 apart
  have none_before : before.filterMap g = [] := List.filterMap_eq_nil_iff.2 fun j mem => by
    by_contra some
    exact crossed j mem k List.mem_cons_self (only j (List.mem_append_left _ mem) some)
  have none_after : after.filterMap g = [] := List.filterMap_eq_nil_iff.2 fun j mem => by
    by_contra some
    have same := only j (List.mem_append_right _ (List.mem_cons_of_mem _ mem)) some
    exact (List.nodup_cons.1 right).1 (same ▸ mem)
  rw [List.filterMap_append, none_before, List.filterMap_cons_some value, none_after]
  rfl

/-- Two elements with a value leave two values. -/
theorem filterMap_of_two {α β : Type} {g : α → Option β} {l : List α} {j k : α} (hj : j ∈ l) (hk : k ∈ l) (ne : j ≠ k)
    (first : g j ≠ none) (second : g k ≠ none) (x : β) : l.filterMap g ≠ [x] := by
  intro one
  obtain ⟨before, after, rfl⟩ := List.append_of_mem hj
  obtain ⟨y, value⟩ := Option.ne_none_iff_exists'.1 first
  rw [List.filterMap_append, List.filterMap_cons_some value] at one
  have lengths := congrArg List.length one
  simp only [List.length_append, List.length_cons, List.length_nil] at lengths
  have others : ∀ i ∈ before ++ after, g i = none := by
    intro i mem
    have nothing : (before.filterMap g ++ after.filterMap g) = [] := List.eq_nil_of_length_eq_zero (by
      rw [List.length_append]
      omega)
    exact List.filterMap_eq_nil_iff.1 (List.filterMap_append ▸ nothing) i mem
  refine second (others k ?_)
  simpa [ne.symm] using hk

theorem lockedPosition_of_none (none : ∀ k ∈ s.claimSlots v, s.lifting k n = none) :
    s.lockedPosition n v = .close := by
  have empty : (s.claimSlots v).dedup.filterMap (fun k => s.lifting k n) = [] :=
    List.filterMap_eq_nil_iff.2 fun k mem => none k (List.mem_dedup.1 mem)
  rw [State.lockedPosition, empty]

theorem lockedPosition_of_one (claims : k ∈ s.claimSlots v) (lifts : s.lifting k n = some x)
    (only : ∀ j ∈ s.claimSlots v, s.lifting j n ≠ none → j = k) :
    s.lockedPosition n v = s.segregatedPosition v x := by
  have one : (s.claimSlots v).dedup.filterMap (fun k => s.lifting k n) = [x] :=
    filterMap_of_only (List.nodup_dedup _) (List.mem_dedup.2 claims) lifts fun j mem => only j (List.mem_dedup.1 mem)
  rw [State.lockedPosition, one]

theorem lockedPosition_of_two {j : Slot} (hj : j ∈ s.claimSlots v) (hk : k ∈ s.claimSlots v) (ne : j ≠ k)
    (first : s.lifting j n ≠ none) (second : s.lifting k n ≠ none) : s.lockedPosition n v = .close := by
  unfold State.lockedPosition
  split
  next x one => exact absurd one (filterMap_of_two (List.mem_dedup.2 hj) (List.mem_dedup.2 hk) ne first second x)
  next => rfl

/-- R56 for the position a lift would be forwarded as, by the sides of the valve (log 35). -/
theorem segregatedPosition_eq : s.segregatedPosition v x = match s.sideState v.sideA, s.sideState v.sideB with
    | some .product, some (.claimed _) => if x = .liftB then .liftB else .close
    | some (.claimed _), some .product => if x = .liftA then .liftA else .close
    | _, _ => x := by
  unfold State.segregatedPosition State.liftToClaimed
  rcases s.sideState v.sideA with _ | (_ | _ | _ | _)
  all_goals rcases s.sideState v.sideB with _ | (_ | _ | _ | _)
  all_goals rfl

end locked

/-! ### The frame on port U (R145, R164) -/

section relayed

variable {s t : State} {octets : List Octet} {f : Frame}

/-- A good command frame that has been settled to `u` and sealed again, while the link is heard (R145, R164). -/
theorem linkHeard_sendF {u : State} (settled : Settled s.receivedU u) (heard : s.linkSilent = false)
    (l : List Octet) : (u.sendF l).linkHeard = { s with
      rxU := [], txF := s.txF ++ [l], valves := u.valves, drives := u.drives, rounds := u.rounds, events := u.events
      overflow := u.overflow, linkTimer := ⟨.running, 0, s.config.linkSilence.toNat⟩ } := by
  have still : (u.sendF l).linkSilent = false := by
    rw [settled.fields]
    exact heard
  rw [linkHeard_of_heard still, settled.fields]
  rfl

theorem decodeAll_length {α β : Type} {g : α → Option β} : ∀ {l : List α} {bs : List β},
    decodeAll g l = some bs → bs.length = l.length := by
  intro l
  induction l with
  | nil =>
    rintro bs decoded
    cases decoded
    rfl
  | cons x l ih =>
    intro bs decoded
    unfold decodeAll at decoded
    split at decoded
    next b cs first rest =>
      cases decoded
      exact congrArg (· + 1) (ih rest)
    next => cases decoded

theorem valveCommands_length {l : List Octet} {asked : List (Option Position)} (form : valveCommands l = some asked) :
    asked.length = 16 := by
  unfold valveCommands at form
  split at form
  next length => exact (decodeAll_length form).trans length
  next => cases form

theorem relayGood_cluster {asked : List (Option Position)} (command : f.kind = kindCmd)
    (cluster : s.kindAt f.dest = some .valveCluster) (form : valveCommands f.payload = some asked) :
    s.relayGood f octets = (s.settleValves f.dest 0 asked).1.sendF
      (Frame.seal { f with payload := (s.settleValves f.dest 0 asked).2.map positionOctet }) := by
  unfold State.relayGood State.relayCommand
  rw [if_pos command, cluster, form]
  rfl

end relayed

/-- Settles O12: the frame as a whole, and each slot by what tracks it. -/
theorem clusterFrameSettled : Obligations.ClusterFrameSettled := by
  intro s octets f asked canonical good other command cluster form heard allowed
  have settled := Settled.settleValves f.dest asked 0 s.receivedU
  have drives : (s.receivedU.settleValves f.dest 0 asked).1.drives = s.drives := drives_settleValves
  have executes := exec_frameArrivalU_good good other
  rw [relayGood_cluster (s := s.receivedU) command cluster form, linkHeard_sendF settled heard] at executes
  refine ⟨_, (s.receivedU.settleValves f.dest 0 asked).2, executes, rfl, ?_, ?_, fun k => ?_, fun n v entry elsewhere => ?_,
    fun slot p q ask sent => ⟨fun untracked => ?_, fun n v tracked entry => ?_⟩⟩
  · rw [settleValves_length, valveCommands_length form]
  · rw [drives]
  · exact settled.rounds k
  · exact settleValves_elsewhere (s := s.receivedU) canonical entry elsewhere
  · exact Option.some.inj (sent.symm.trans (settleValves_untracked (s := s.receivedU) canonical ask untracked))
  · obtain ⟨goes, after, flags⟩ := settleValves_tracked (s := s.receivedU) canonical ask tracked entry
    obtain rfl : q = s.forwards n v p := Option.some.inj (sent.symm.trans goes)
    refine ⟨fun k owner => ⟨forwards_of_owner owner, fun ⟨x, asks, differs⟩ => flags k x owner asks differs⟩,
      fun locked => ?_, forwards_of_free, after⟩
    rw [forwards_of_locked locked]
    refine ⟨fun none => ?_, fun k x claims lifts only => ?_, fun j k hj hk ne first second => ?_⟩
    · rw [lockedPosition_of_none none]
    · rw [lockedPosition_of_one claims lifts only]
      exact congrArg some segregatedPosition_eq
    · rw [lockedPosition_of_two hj hk ne first second]

/-! ### A drive node's frame settled (R153) -/

section drives

variable {s t : State} {a : Octet} {m n channel : Nat} {d : DriveEntry} {p q : Option Nat} {k : Slot} {x : Nat}
  {l : List (Option Nat)}

/-- What the entry of a drive is forwarded as (R153): the commanded value of an owned drive, else what is asked, each
clamped. -/
def DriveEntry.forwards (p : Option Nat) (d : DriveEntry) : Option Nat :=
  (if d.owner.isSome then d.commanded else p).map d.clamp

/-- A drive's entry once `p` has been asked and `q` forwarded (R149, R153). -/
def DriveEntry.settled (p q : Option Nat) (d : DriveEntry) : DriveEntry :=
  { d with requested := p.or d.requested, commanded := q.or d.commanded }

/-- Store a requested value (R149): KEEP leaves the stored one. -/
def State.storeValue (n : Nat) (p : Option Nat) (s : State) : State :=
  p.elim s fun x => s.updDrive n fun d => { d with requested := some x }

/-- Command a drive what goes out for it; KEEP commands nothing. -/
def State.forwardValue (n : Nat) (q : Option Nat) (s : State) : State := q.elim s (s.commandDrive n)

theorem drives_stored_forwarded :
    ((s.storeValue n p).forwardValue n q).drives = Table.adjust n (DriveEntry.settled p q) s.drives := by
  have kept : ∀ d : DriveEntry, DriveEntry.settled none none d = d := fun _ => rfl
  cases p with
  | none =>
    cases q with
    | none => exact (Table.adjust_of_kept kept s.drives).symm
    | some y => rfl
  | some x =>
    cases q with
    | none => rfl
    | some y =>
      exact Table.adjust_adjust n (fun d : DriveEntry => { d with commanded := some y })
        (fun d => { d with requested := some x }) s.drives

/-- The entry that goes out for a drive, and the drives afterwards (R149, R153). -/
theorem settleDrive_at (entry : Table.entry s.drives n = some d) : (s.settleDrive n p).2 = d.forwards p
    ∧ (s.settleDrive n p).1.drives = Table.adjust n (DriveEntry.settled p (d.forwards p)) s.drives := by
  rw [← drives_stored_forwarded]
  unfold State.settleDrive DriveEntry.forwards
  rw [entry]
  dsimp only
  cases owner : d.owner with
  | some k =>
    refine ⟨rfl, ?_⟩
    cases p with
    | none => cases d.commanded <;> rfl
    | some x => cases d.commanded <;> exact drives_override
  | none =>
    cases p with
    | none => exact ⟨rfl, rfl⟩
    | some x =>
      refine ⟨rfl, ?_⟩
      dsimp only
      split
      · rfl
      · exact State.offer_drives ..

/-- The owner's override flag, when what is asked differs from what goes out (R153, log 20). -/
theorem override_settleDrive (entry : Table.entry s.drives n = some d) (owner : d.owner = some k)
    (differs : some x ≠ d.forwards (some x)) : ((s.settleDrive n (some x)).1.round k).override = true := by
  unfold DriveEntry.forwards at differs
  unfold State.settleDrive
  rw [entry]
  rw [owner] at differs
  dsimp only
  rw [owner]
  have apart : (d.commanded.map d.clamp != some x) = true := bne_iff_ne.2 (Ne.symm differs)
  show ((State.override k (d.commanded.map d.clamp != some x) _ _ _).round k).override = true
  rw [apart]
  exact override_of_differs

theorem entry_settleDrive_ne (ne : m ≠ n) : Table.entry (s.settleDrive n p).1.drives m = Table.entry s.drives m := by
  cases entry : Table.entry s.drives n with
  | none =>
    unfold State.settleDrive
    rw [entry]
  | some d => rw [(settleDrive_at entry).2, Table.entry_adjust_ne _ _ ne]

theorem valves_settleDrive : (s.settleDrive n p).1.valves = s.valves := by
  unfold State.settleDrive
  split
  next => rfl
  next d _ =>
    cases owner : d.owner with
    | some k =>
      cases p with
      | none => cases d.commanded <;> rfl
      | some x => cases d.commanded <;> exact valves_override
    | none =>
      cases p with
      | none => rfl
      | some x =>
        dsimp only
        split
        · rfl
        · exact State.offer_valves ..

/-- What a channel's entry does and goes out as; an untracked channel passes on what arrived (R148). -/
def State.settleChannel (a : Octet) (channel : Nat) (p : Option Nat) (s : State) : State × Option Nat :=
  match s.driveAt a channel with
  | some n => s.settleDrive n p
  | none => (s, p)

theorem settleDrives_eq (l : List (Option Nat)) : ∀ (channel : Nat) (s : State),
    s.settleDrives a channel l = runSlots (State.settleChannel a) channel l s := by
  induction l with
  | nil => exact fun _ _ => rfl
  | cons p l ih =>
    intro channel s
    show ((State.settleDrives a (channel + 1) l (s.settleChannel a channel p).1).1,
      (s.settleChannel a channel p).2 :: (State.settleDrives a (channel + 1) l (s.settleChannel a channel p).1).2) = _
    rw [ih]
    rfl

theorem settled_settleChannel : Settled s (s.settleChannel a channel p).1 := by
  unfold State.settleChannel
  split
  · exact Settled.settleDrive s _ p
  · exact .rfl'

/-- Settling a drive node's frame leaves the valves. -/
theorem valves_settleDrives : (s.settleDrives a channel l).1.valves = s.valves := by
  rw [settleDrives_eq]
  refine runSlots_keeps (s := s) (I := fun s t => t.valves = s.valves) (J := fun _ _ => True) (fun _ => rfl)
    (fun _ _ _ first second => second.trans first) (fun _ _ _ _ => trivial) l trivial fun t j p _ _ _ => ?_
  unfold State.settleChannel
  split
  · exact valves_settleDrive
  · rfl

/-- A drive of another node keeps its entry (R148). -/
theorem settleDrives_elsewhere (canonical : s.tablesCanonical) (entry : Table.entry s.drives n = some d)
    (elsewhere : d.node ≠ a) : Table.entry (s.settleDrives a 0 l).1.drives n = some d := by
  rw [settleDrives_eq, ← entry]
  refine runSlots_keeps (I := fun s t => Table.entry t.drives n = Table.entry s.drives n) (J := Settled)
    (fun _ => rfl) (fun _ _ _ first second => second.trans first) (fun t j p on => on.trans settled_settleChannel) l .rfl'
    fun t j p on _ _ => ?_
  unfold State.settleChannel
  split
  next m found =>
    refine entry_settleDrive_ne ?_
    rintro rfl
    rw [driveAt_of_sameKeys (.ofSettled on)] at found
    obtain ⟨e, entry', node, -⟩ := (driveAt_eq_some canonical).1 found
    obtain rfl := Option.some.inj (entry.symm.trans entry')
    exact elsewhere node
  next => rfl

/-- A channel's entry of a settled frame: the state it meets, and what the others leave. -/
theorem settleDrives_split (canonical : s.tablesCanonical) (asked : l[channel]? = some p) : ∃ t, Settled s t
    ∧ (∀ n, s.driveAt a channel = some n → Table.entry t.drives n = Table.entry s.drives n)
    ∧ (s.settleDrives a 0 l).2[channel]? = some (t.settleChannel a channel p).2
    ∧ Settled (t.settleChannel a channel p).1 (s.settleDrives a 0 l).1
    ∧ ∀ n, s.driveAt a channel = some n →
      Table.entry (s.settleDrives a 0 l).1.drives n = Table.entry (t.settleChannel a channel p).1.drives n := by
  rw [settleDrives_eq]
  obtain ⟨t, on, ⟨-, before⟩, out, rest, after⟩ := runSlots_split (one := State.settleChannel a) (slot := channel)
    (I := fun t u => Settled t u ∧ ∀ n, s.driveAt a channel = some n → Table.entry u.drives n = Table.entry t.drives n)
    (J := Settled) (fun _ => ⟨.rfl', fun _ _ => rfl⟩)
    (fun _ _ _ first second => ⟨first.1.trans second.1, fun n at' => (second.2 n at').trans (first.2 n at')⟩)
    (fun t j p on => on.trans settled_settleChannel)
    (fun t j p on ne => ⟨settled_settleChannel, fun n at' => by
      unfold State.settleChannel
      split
      next m found =>
        rw [driveAt_of_sameKeys (.ofSettled on)] at found
        exact entry_settleDrive_ne (driveAt_ne canonical at' found ne)
      next => rfl⟩)
    l Settled.rfl' asked (Nat.zero_add channel).symm
  exact ⟨t, on, before, out, rest, after⟩

/-- An untracked channel passes on what arrived (R148). -/
theorem settleDrives_untracked (canonical : s.tablesCanonical) (asked : l[channel]? = some p)
    (untracked : s.driveAt a channel = none) : (s.settleDrives a 0 l).2[channel]? = some p := by
  obtain ⟨t, on, -, out, -⟩ := settleDrives_split (a := a) canonical asked
  rw [out, State.settleChannel, driveAt_of_sameKeys (.ofSettled on), untracked]

/-- A tracked channel: what goes out, the drive's entry afterwards, and its owner's override flag (R149, R153). -/
theorem settleDrives_tracked (canonical : s.tablesCanonical) (asked : l[channel]? = some p)
    (tracked : s.driveAt a channel = some n) (entry : Table.entry s.drives n = some d) :
    (s.settleDrives a 0 l).2[channel]? = some (d.forwards p)
    ∧ Table.entry (s.settleDrives a 0 l).1.drives n = some (d.settled p (d.forwards p))
    ∧ ∀ k x, d.owner = some k → p = some x → p ≠ d.forwards p →
      ((s.settleDrives a 0 l).1.round k).override = true := by
  obtain ⟨t, on, before, out, rest, after⟩ := settleDrives_split (a := a) canonical asked
  have here : Table.entry t.drives n = some d := (before n tracked).trans entry
  have channels : t.settleChannel a channel p = t.settleDrive n p := by
    rw [State.settleChannel, driveAt_of_sameKeys (.ofSettled on), tracked]
  obtain ⟨goes, drives⟩ := settleDrive_at (p := p) here
  refine ⟨by rw [out, channels, goes], ?_, fun k x owner some differs => ?_⟩
  · rw [after n tracked, channels, drives, Table.entry_adjust_self, here]
    rfl
  · subst some
    refine rest.rises k ?_
    rw [channels]
    exact override_settleDrive here owner differs

/-- A clamped value lies within the drive's bounds (R153). -/
theorem clamp_within (bounds : d.minimum ≤ d.maximum) : d.minimum ≤ d.clamp x ∧ d.clamp x ≤ d.maximum := by
  unfold DriveEntry.clamp
  omega

theorem wordsOf_length : ∀ l : List Octet, (wordsOf l).length = l.length / 2
  | [] => rfl
  | [_] => by simp [wordsOf]
  | _ :: _ :: l => by
    rw [wordsOf, List.length_cons, wordsOf_length l, List.length_cons, List.length_cons]
    omega

theorem driveCommands_length {payload : List Octet} {asked : List (Option Nat)}
    (form : driveCommands payload = some asked) : asked.length = 4 := by
  unfold driveCommands at form
  split at form
  next length =>
    cases form
    rw [List.length_map, wordsOf_length, length]
  next => cases form

theorem relayGood_drive {f : Frame} {octets : List Octet} {asked : List (Option Nat)} (command : f.kind = kindCmd)
    (drive : s.kindAt f.dest = some .drive) (form : driveCommands f.payload = some asked) :
    s.relayGood f octets = (s.settleDrives f.dest 0 asked).1.sendF
      (Frame.seal { f with payload := (s.settleDrives f.dest 0 asked).2.flatMap optOctets2 }) := by
  unfold State.relayGood State.relayCommand
  rw [if_pos command, drive, form]
  rfl

end drives

/-- Settles O13: the frame as a whole, and each channel by what tracks it. -/
theorem driveFrameSettled : Obligations.DriveFrameSettled := by
  intro s octets f asked canonical bounded good other command drive form heard
  have settled := Settled.settleDrives f.dest asked 0 s.receivedU
  have valves : (s.receivedU.settleDrives f.dest 0 asked).1.valves = s.valves := valves_settleDrives
  have executes := exec_frameArrivalU_good good other
  rw [relayGood_drive (s := s.receivedU) command drive form, linkHeard_sendF settled heard] at executes
  refine ⟨_, (s.receivedU.settleDrives f.dest 0 asked).2, executes, rfl, ?_, ?_, fun k => ?_,
    fun n d entry elsewhere => ?_, fun channel p q ask sent => ⟨fun untracked => ?_, fun n d tracked entry => ?_⟩⟩
  · rw [settleDrives_length, driveCommands_length form]
  · rw [valves]
  · exact settled.rounds k
  · exact settleDrives_elsewhere (s := s.receivedU) canonical entry elsewhere
  · exact Option.some.inj (sent.symm.trans (settleDrives_untracked (s := s.receivedU) canonical ask untracked))
  · obtain ⟨goes, after, flags⟩ := settleDrives_tracked (s := s.receivedU) canonical ask tracked entry
    obtain rfl : q = d.forwards p := Option.some.inj (sent.symm.trans goes)
    have bounds := bounded.2.2.1 _ (Table.mem_of_entry entry)
    refine ⟨fun x out => ?_, fun free => ?_, fun k owner => ⟨?_, fun ⟨x, asks, differs⟩ => flags k x owner asks differs⟩,
      after⟩
    · obtain ⟨y, -, rfl⟩ := Option.map_eq_some_iff.1 out
      exact clamp_within bounds
    · rw [DriveEntry.forwards, free]
      rfl
    · rw [DriveEntry.forwards, owner]
      rfl

end Sys2Proof.Machine

/-! ## Frames rebuilt (R155, R156) -/

namespace Sys2Proof.Machine

open Sys2Proof

/-! ### The valves of a rebuilt frame -/

section valves

variable {s t : State} {a : Octet} {n slot : Nat} {v : ValveEntry}

/-- A slot's entry of a rebuilt frame (R156). -/
def State.rebuildSlot (a : Octet) (slot : Nat) (_ : Unit) (s : State) : State × Option Position := s.rebuildValve a slot

theorem rebuildValves_eq (count : Nat) : ∀ (slot : Nat) (s : State),
    s.rebuildValves a count slot = runSlots (State.rebuildSlot a) slot (List.replicate count ()) s := by
  induction count with
  | zero => exact fun _ _ => rfl
  | succ count ih =>
    intro slot s
    show ((State.rebuildValves a count (slot + 1) (s.rebuildValve a slot).1).1,
      (s.rebuildValve a slot).2 :: (State.rebuildValves a count (slot + 1) (s.rebuildValve a slot).1).2) = _
    rw [ih]
    rfl

theorem rebuildValve_of_tracked (tracked : s.valveAt a slot = some n) (entry : Table.entry s.valves n = some v) :
    s.rebuildValve a slot = (s.commandValve n v.imagePosition, some v.imagePosition) := by
  rw [State.rebuildValve, tracked]
  dsimp only
  rw [entry]

theorem rebuildValve_of_untracked (untracked : s.valveAt a slot = none) : s.rebuildValve a slot = (s, none) := by
  rw [State.rebuildValve, untracked]

theorem entry_rebuildValve_ne (other : s.valveAt a slot ≠ some n) :
    Table.entry (s.rebuildValve a slot).1.valves n = Table.entry s.valves n := by
  unfold State.rebuildValve
  split
  next => rfl
  next m found =>
    split
    next => rfl
    next =>
      refine Table.entry_adjust_ne _ _ ?_
      rintro rfl
      exact other found

theorem settled_rebuildValve : Settled s (s.rebuildValve a slot).1 := by
  unfold State.rebuildValve
  split
  · exact .rfl'
  · split
    · exact .rfl'
    · exact Settled.commandValve s _ _

/-- Rebuilding a cluster's frame changes valves alone. -/
theorem rebuildValves_frame {count : Nat} :
    (s.rebuildValves a count slot).1 = { s with valves := (s.rebuildValves a count slot).1.valves } := by
  rw [rebuildValves_eq]
  refine runSlots_keeps (s := s) (I := fun s t => t = { s with valves := t.valves }) (J := fun _ _ => True)
    (fun _ => rfl) (fun _ _ _ first second => by rw [second, first]) (fun _ _ _ _ => trivial) _ trivial
    fun t j _ _ _ _ => ?_
  show (t.rebuildValve a j).1 = _
  unfold State.rebuildSlot State.rebuildValve
  split
  · rfl
  · split <;> rfl

/-- A slot's entry of a rebuilt frame: the state it meets, and what the others leave. -/
theorem rebuildValves_split (canonical : s.tablesCanonical) {count : Nat} (within : slot < count) : ∃ t, Settled s t
    ∧ (∀ n, s.valveAt a slot = some n → Table.entry t.valves n = Table.entry s.valves n)
    ∧ (s.rebuildValves a count 0).2[slot]? = some (t.rebuildValve a slot).2
    ∧ ∀ n, s.valveAt a slot = some n →
      Table.entry (s.rebuildValves a count 0).1.valves n = Table.entry (t.rebuildValve a slot).1.valves n := by
  rw [rebuildValves_eq]
  exact runSlots_split (one := State.rebuildSlot a) (slot := slot) (x := ())
    (I := fun t u => ∀ n, s.valveAt a slot = some n → Table.entry u.valves n = Table.entry t.valves n)
    (J := Settled) (fun _ _ _ => rfl)
    (fun _ _ _ first second n at' => (second n at').trans (first n at'))
    (fun t j _ on => on.trans settled_rebuildValve)
    (fun t j _ on ne n at' => entry_rebuildValve_ne fun found => by
      rw [valveAt_of_sameKeys (.ofSettled on)] at found
      exact valveAt_ne canonical at' found ne rfl)
    _ Settled.rfl' (by simp [within]) (Nat.zero_add slot).symm

/-- The entries of a rebuilt frame (R156). -/
theorem rebuildValves_out (canonical : s.tablesCanonical) (count : Nat) : (s.rebuildValves a count 0).2
    = (List.range count).map fun slot => ((s.valveAt a slot).bind (Table.entry s.valves)).map ValveEntry.imagePosition := by
  refine List.ext_getElem? fun slot => ?_
  have length : (s.rebuildValves a count 0).2.length = count := by
    rw [rebuildValves_eq, runSlots_length, List.length_replicate]
  by_cases within : slot < count
  · obtain ⟨t, on, before, out, -⟩ := rebuildValves_split (a := a) canonical within
    rw [out, List.getElem?_map, List.getElem?_range within, Option.map_some]
    have slots := valveAt_of_sameKeys (a := a) (slot := slot) (.ofSettled on)
    cases tracked : s.valveAt a slot with
    | none => rw [rebuildValve_of_untracked (slots.trans tracked), Option.bind_none, Option.map_none]
    | some n =>
      obtain ⟨v, entry, -⟩ := (valveAt_eq_some canonical).1 tracked
      rw [rebuildValve_of_tracked (slots.trans tracked) ((before n tracked).trans entry), Option.bind_some, entry,
        Option.map_some]
  · rw [List.getElem?_eq_none (by omega), List.getElem?_eq_none (by simp; omega)]

/-- The valves after a rebuilt frame: what is carried is commanded (R156). -/
theorem entry_rebuildValves (canonical : s.tablesCanonical) (count : Nat) :
    Table.entry (s.rebuildValves a count 0).1.valves n = (Table.entry s.valves n).map fun v =>
      if v.node = a ∧ v.slot < count then v.command s.partTime v.imagePosition else v := by
  cases entry : Table.entry s.valves n with
  | none =>
    have keys := congrArg (Table.entry · n) (Settled.rebuildValves a count 0 s).valves
    have mapped := (Table.entry_keys _ _ _).symm.trans (keys.trans (Table.entry_keys _ _ _))
    rw [entry] at mapped
    exact Option.map_eq_none_iff.1 mapped
  | some v =>
    rw [Option.map_some]
    split
    next here =>
      obtain ⟨node, within⟩ := here
      have tracked := (valveAt_eq_some canonical).2 ⟨v, entry, node, rfl⟩
      obtain ⟨t, on, before, -, after⟩ := rebuildValves_split (a := a) canonical within
      have time : t.partTime = s.partTime := by rw [on.fields]
      have entry' := (before n tracked).trans entry
      rw [after n tracked,
        rebuildValve_of_tracked ((valveAt_of_sameKeys (.ofSettled on)).trans tracked) entry', entry_commandValve, entry',
        Option.map_some, if_pos rfl, time]
    next elsewhere =>
      rw [rebuildValves_eq, ← entry]
      refine runSlots_keeps (I := fun s t => Table.entry t.valves n = Table.entry s.valves n) (J := Settled)
        (fun _ => rfl) (fun _ _ _ first second => second.trans first) (fun t j _ on => on.trans settled_rebuildValve) _
        .rfl' fun t j _ on _ high => ?_
      refine entry_rebuildValve_ne fun found => elsewhere ?_
      rw [valveAt_of_sameKeys (.ofSettled on)] at found
      obtain ⟨w, entry', node, slot⟩ := (valveAt_eq_some canonical).1 found
      obtain rfl := Option.some.inj (entry.symm.trans entry')
      exact ⟨node, by rw [List.length_replicate] at high; omega⟩

end valves

/-! ### The drives of a rebuilt frame -/

section drives

variable {s t : State} {a : Octet} {n channel : Nat} {d : DriveEntry}

/-- A channel's entry of a rebuilt frame (R156). -/
def State.rebuildChannel (a : Octet) (channel : Nat) (_ : Unit) (s : State) : State × Option Nat :=
  s.rebuildDrive a channel

theorem rebuildDrives_eq (count : Nat) : ∀ (channel : Nat) (s : State),
    s.rebuildDrives a count channel = runSlots (State.rebuildChannel a) channel (List.replicate count ()) s := by
  induction count with
  | zero => exact fun _ _ => rfl
  | succ count ih =>
    intro channel s
    show ((State.rebuildDrives a count (channel + 1) (s.rebuildDrive a channel).1).1,
      (s.rebuildDrive a channel).2 :: (State.rebuildDrives a count (channel + 1) (s.rebuildDrive a channel).1).2) = _
    rw [ih]
    rfl

/-- The clamped commanded value that a rebuilt frame carries, absent when there is none (R153, log 21). -/
def DriveEntry.clamped (d : DriveEntry) : Option Nat := d.commanded.map d.clamp

theorem rebuildDrive_of_tracked (tracked : s.driveAt a channel = some n) (entry : Table.entry s.drives n = some d) :
    s.rebuildDrive a channel = (s.forwardValue n d.clamped, d.clamped) := by
  rw [State.rebuildDrive, tracked]
  dsimp only
  rw [entry, Option.bind_some, DriveEntry.clamped]
  cases d.commanded <;> rfl

theorem rebuildDrive_of_untracked (untracked : s.driveAt a channel = none) : s.rebuildDrive a channel = (s, none) := by
  rw [State.rebuildDrive, untracked]

theorem entry_rebuildDrive_ne (other : s.driveAt a channel ≠ some n) :
    Table.entry (s.rebuildDrive a channel).1.drives n = Table.entry s.drives n := by
  unfold State.rebuildDrive
  split
  next => rfl
  next m found =>
    split
    next x _ =>
      refine Table.entry_adjust_ne (fun d : DriveEntry => { d with commanded := some x }) _ ?_
      rintro rfl
      exact other found
    next => rfl

theorem settled_rebuildDrive : Settled s (s.rebuildDrive a channel).1 := by
  unfold State.rebuildDrive
  split
  · exact .rfl'
  · split
    · exact Settled.commandDrive s _ _
    · exact .rfl'

/-- Rebuilding a drive node's frame changes drives alone. -/
theorem rebuildDrives_frame {count : Nat} :
    (s.rebuildDrives a count channel).1 = { s with drives := (s.rebuildDrives a count channel).1.drives } := by
  rw [rebuildDrives_eq]
  refine runSlots_keeps (s := s) (I := fun s t => t = { s with drives := t.drives }) (J := fun _ _ => True)
    (fun _ => rfl) (fun _ _ _ first second => by rw [second, first]) (fun _ _ _ _ => trivial) _ trivial
    fun t j _ _ _ _ => ?_
  unfold State.rebuildChannel State.rebuildDrive
  split
  · rfl
  · split <;> rfl

/-- A channel's entry of a rebuilt frame: the state it meets, and what the others leave. -/
theorem rebuildDrives_split (canonical : s.tablesCanonical) {count : Nat} (within : channel < count) : ∃ t, Settled s t
    ∧ (∀ n, s.driveAt a channel = some n → Table.entry t.drives n = Table.entry s.drives n)
    ∧ (s.rebuildDrives a count 0).2[channel]? = some (t.rebuildDrive a channel).2
    ∧ ∀ n, s.driveAt a channel = some n →
      Table.entry (s.rebuildDrives a count 0).1.drives n = Table.entry (t.rebuildDrive a channel).1.drives n := by
  rw [rebuildDrives_eq]
  exact runSlots_split (one := State.rebuildChannel a) (slot := channel) (x := ())
    (I := fun t u => ∀ n, s.driveAt a channel = some n → Table.entry u.drives n = Table.entry t.drives n)
    (J := Settled) (fun _ _ _ => rfl)
    (fun _ _ _ first second n at' => (second n at').trans (first n at'))
    (fun t j _ on => on.trans settled_rebuildDrive)
    (fun t j _ on ne n at' => entry_rebuildDrive_ne fun found => by
      rw [driveAt_of_sameKeys (.ofSettled on)] at found
      exact driveAt_ne canonical at' found ne rfl)
    _ Settled.rfl' (by simp [within]) (Nat.zero_add channel).symm

/-- The entries of a rebuilt frame (R156). -/
theorem rebuildDrives_out (canonical : s.tablesCanonical) (count : Nat) : (s.rebuildDrives a count 0).2
    = (List.range count).map fun channel =>
      ((s.driveAt a channel).bind (Table.entry s.drives)).bind DriveEntry.clamped := by
  refine List.ext_getElem? fun channel => ?_
  have length : (s.rebuildDrives a count 0).2.length = count := by
    rw [rebuildDrives_eq, runSlots_length, List.length_replicate]
  by_cases within : channel < count
  · obtain ⟨t, on, before, out, -⟩ := rebuildDrives_split (a := a) canonical within
    rw [out, List.getElem?_map, List.getElem?_range within, Option.map_some]
    have channels := driveAt_of_sameKeys (a := a) (slot := channel) (.ofSettled on)
    cases tracked : s.driveAt a channel with
    | none => rw [rebuildDrive_of_untracked (channels.trans tracked), Option.bind_none, Option.bind_none]
    | some n =>
      obtain ⟨d, entry, -⟩ := (driveAt_eq_some canonical).1 tracked
      rw [rebuildDrive_of_tracked (channels.trans tracked) ((before n tracked).trans entry), Option.bind_some, entry,
        Option.bind_some]
  · rw [List.getElem?_eq_none (by omega), List.getElem?_eq_none (by simp; omega)]

/-- The drives after a rebuilt frame: what is carried is commanded (R156, log 21). -/
theorem entry_rebuildDrives (canonical : s.tablesCanonical) (count : Nat) :
    Table.entry (s.rebuildDrives a count 0).1.drives n = (Table.entry s.drives n).map fun d =>
      if d.node = a ∧ d.channel < count then { d with commanded := d.clamped } else d := by
  cases entry : Table.entry s.drives n with
  | none =>
    have keys := congrArg (Table.entry · n) (Settled.rebuildDrives a count 0 s).drives
    have mapped := (Table.entry_keys _ _ _).symm.trans (keys.trans (Table.entry_keys _ _ _))
    rw [entry] at mapped
    exact Option.map_eq_none_iff.1 mapped
  | some d =>
    rw [Option.map_some]
    split
    next here =>
      obtain ⟨node, within⟩ := here
      have tracked := (driveAt_eq_some canonical).2 ⟨d, entry, node, rfl⟩
      obtain ⟨t, on, before, -, after⟩ := rebuildDrives_split (a := a) canonical within
      have entry' := (before n tracked).trans entry
      rw [after n tracked,
        rebuildDrive_of_tracked ((driveAt_of_sameKeys (.ofSettled on)).trans tracked) entry', DriveEntry.clamped]
      cases commanded : d.commanded with
      | none =>
        exact entry'.trans (congrArg some (by rw [Option.map_none, ← commanded]))
      | some x =>
        show Table.entry (t.commandDrive n (d.clamp x)).drives n = _
        rw [entry_commandDrive, entry', Option.map_some, if_pos rfl, Option.map_some]
    next elsewhere =>
      rw [rebuildDrives_eq, ← entry]
      refine runSlots_keeps (I := fun s t => Table.entry t.drives n = Table.entry s.drives n) (J := Settled)
        (fun _ => rfl) (fun _ _ _ first second => second.trans first) (fun t j _ on => on.trans settled_rebuildDrive) _
        .rfl' fun t j _ on _ high => ?_
      refine entry_rebuildDrive_ne fun found => elsewhere ?_
      rw [driveAt_of_sameKeys (.ofSettled on)] at found
      obtain ⟨e, entry', node, channel⟩ := (driveAt_eq_some canonical).1 found
      obtain rfl := Option.some.inj (entry.symm.trans entry')
      exact ⟨node, by rw [List.length_replicate] at high; omega⟩

end drives

/-! ### A frame rebuilt -/

section rebuilt

variable {s : State} {a : Octet} {cause : RebuildCause} {octets rest : List Octet} {dest : Octet} {f : Frame}

/-- The event of a rebuilt frame (R156, R190). -/
def State.rebuiltEvent (s : State) (a : Octet) (cause : RebuildCause) : Event :=
  { bareEvent .frameRebuilt s.partTime with
    subject := (s.nodeIndex a).map .node
    cause := some (.rebuilt cause)
    value := some (.number a.toNat) }

/-- What a frame that is dropped and rebuilt leaves, by the payload, the valves and the drives (R156). -/
def State.rebuiltAs (s : State) (a : Octet) (cause : RebuildCause) (payload : List Octet) (valves : Table ValveEntry)
    (drives : Table DriveEntry) : State :=
  { s with
    rxU := [], txF := s.txF ++ [Frame.seal ⟨a, 0, 0x01, payload⟩], valves := valves, drives := drives
    events := (s.offer (s.rebuiltEvent a cause)).events, overflow := (s.offer (s.rebuiltEvent a cause)).overflow }

/-- The rebuilt frame sent and FRAME_REBUILT offered, once the entries are written (R156). -/
theorem offer_rebuilt (payload : List Octet) (valves : Table ValveEntry) (drives : Table DriveEntry) :
    (State.sendF (Frame.seal ⟨a, 0, kindCmd, payload⟩) { s.receivedU with valves := valves, drives := drives }).offer
      (s.rebuiltEvent a cause) = s.rebuiltAs a cause payload valves drives := by
  obtain ⟨events, overflow⟩ := eventQueue_components (eventQueue_offer_congr (s := s)
    (t := State.sendF (Frame.seal ⟨a, 0, kindCmd, payload⟩) { s.receivedU with valves := valves, drives := drives })
    (s.rebuiltEvent a cause) rfl)
  rw [State.offer_eq, events, overflow]
  rfl

theorem rebuild_cluster (cluster : s.kindAt a = some .valveCluster) : s.receivedU.rebuild a cause
    = s.rebuiltAs a cause ((s.receivedU.rebuildValves a 16 0).2.map positionOctet)
      (s.receivedU.rebuildValves a 16 0).1.valves s.drives := by
  have frame := rebuildValves_frame (s := s.receivedU) (a := a) (slot := 0) (count := 16)
  unfold State.rebuild
  rw [show s.receivedU.kindAt a = some .valveCluster from cluster]
  dsimp only
  generalize s.receivedU.rebuildValves a 16 0 = built at frame ⊢
  rw [frame]
  exact offer_rebuilt _ _ _

theorem rebuild_drive (drive : s.kindAt a = some .drive) : s.receivedU.rebuild a cause
    = s.rebuiltAs a cause ((s.receivedU.rebuildDrives a 4 0).2.flatMap optOctets2) s.valves
      (s.receivedU.rebuildDrives a 4 0).1.drives := by
  have frame := rebuildDrives_frame (s := s.receivedU) (a := a) (channel := 0) (count := 4)
  unfold State.rebuild
  rw [show s.receivedU.kindAt a = some .drive from drive]
  dsimp only
  generalize s.receivedU.rebuildDrives a 4 0 = built at frame ⊢
  rw [frame]
  exact offer_rebuilt _ _ _

theorem dest_of_readFrame (good : readFrame (dest :: rest) = some f) : f.dest = dest := by
  obtain ⟨-, sealed⟩ := seal_of_readFrame good
  exact (List.cons.inj sealed).1.symm

/-- A command of wrong form to a guarded node is rebuilt (R156). -/
theorem relayGood_wrongForm (command : f.kind = kindCmd) (guarded : s.needsGuarding f.dest = true)
    (cluster : s.kindAt f.dest = some .valveCluster → valveCommands f.payload = none)
    (drive : s.kindAt f.dest = some .drive → driveCommands f.payload = none) :
    s.relayGood f octets = s.rebuild f.dest .badForm := by
  have wrong : s.wrongForm f octets = s.rebuild f.dest .badForm := if_pos guarded
  unfold State.relayGood State.relayCommand
  rw [if_pos command]
  obtain ⟨kind, -⟩ | ⟨kind, -⟩ := needsGuarding_iff.1 guarded
  · rw [kind, cluster kind]
    exact wrong
  · rw [kind, drive kind]
    exact wrong

/-- A frame that has a guarded node's frame rebuilt (R156): bad, or a good command of wrong form to another address while
the link is heard. -/
def State.bringsRebuilt (s : State) (dest : Octet) (rest : List Octet) (cause : RebuildCause) : Prop :=
  cause = .badCrc ∧ readFrame (dest :: rest) = none
    ∨ cause = .badForm ∧ s.linkSilent = false ∧ dest ≠ s.config.ownAddress
      ∧ ∃ f, readFrame (dest :: rest) = some f ∧ f.kind = kindCmd
        ∧ (s.kindAt dest = some .valveCluster → valveCommands f.payload = none)
        ∧ (s.kindAt dest = some .drive → driveCommands f.payload = none)

/-- The arrival of such a frame; a good one restarts the link silence timer (R145, R164). -/
theorem exec_rebuilt {payload : List Octet} {valves : Table ValveEntry} {drives : Table DriveEntry}
    (whole : s.rxU ++ octets = dest :: rest) (guarded : s.needsGuarding dest = true)
    (brings : s.bringsRebuilt dest rest cause)
    (built : s.receivedU.rebuild dest cause = s.rebuiltAs dest cause payload valves drives) :
    exec (.frameArrivalU octets) s = .next { s.rebuiltAs dest cause payload valves drives with
      linkTimer := if cause = .badCrc then s.linkTimer else ⟨.running, 0, s.config.linkSilence.toNat⟩ } := by
  obtain ⟨rfl, bad⟩ | ⟨rfl, heard, other, f, good, command, cluster, drive⟩ := brings
  · rw [exec_frameArrivalU_bad (by rw [whole]; exact bad), whole]
    show Host.Outcome.next (if s.receivedU.needsGuarding dest then s.receivedU.rebuild dest .badCrc else _) = _
    rw [show s.receivedU.needsGuarding dest = true from guarded, if_pos rfl, built]
    rfl
  · obtain rfl := dest_of_readFrame good
    rw [exec_frameArrivalU_good (by rw [whole]; exact good) other,
      relayGood_wrongForm (s := s.receivedU) command guarded cluster drive, built,
      linkHeard_of_heard (s := s.rebuiltAs f.dest .badForm payload valves drives) heard]
    rfl

end rebuilt

/-- Settles O15: the frame that brings it, and the rebuilt frame by the kind of the node. -/
theorem badFrameRebuilt : Obligations.BadFrameRebuilt := by
  intro s octets dest rest cause canonical whole guarded brings carries clamped
  obtain ⟨cluster, -⟩ | ⟨drive, -⟩ := needsGuarding_iff.1 guarded
  · have other : s.kindAt dest ≠ some .drive := by simp [cluster]
    have executes := exec_rebuilt whole guarded brings (rebuild_cluster cluster)
    have out := rebuildValves_out (s := s.receivedU) (a := dest) canonical 16
    have after := fun n => entry_rebuildValves (s := s.receivedU) (a := dest) (n := n) canonical 16
    generalize s.receivedU.rebuildValves dest 16 0 = built at executes out after
    refine ⟨_, _, executes, rfl, fun _ => ?_, fun drive => absurd drive other, rfl, fun n => ?_, fun n => ?_, rfl, rfl⟩
    · rw [out, List.map_map]
      refine List.map_congr_left fun slot _ => ?_
      show positionOctet (((s.valveAt dest slot).bind (Table.entry s.valves)).map ValveEntry.imagePosition) = _
      cases (s.valveAt dest slot).bind (Table.entry s.valves) <;> rfl
    · refine (after n).trans (congrArg (Option.map · _) (funext fun v => ?_))
      simp only [cluster, true_and]
      refine if_congr Iff.rfl ?_ rfl
      show ValveEntry.command s.partTime (carries v) v = _
      unfold ValveEntry.command
      split
      next same => rw [← same]
      next => rfl
    · simp only [other, false_and, if_false, Option.map_id']
      rfl
  · have other : s.kindAt dest ≠ some .valveCluster := by simp [drive]
    have executes := exec_rebuilt whole guarded brings (rebuild_drive drive)
    have out := rebuildDrives_out (s := s.receivedU) (a := dest) canonical 4
    have after := fun n => entry_rebuildDrives (s := s.receivedU) (a := dest) (n := n) canonical 4
    generalize s.receivedU.rebuildDrives dest 4 0 = built at executes out after
    refine ⟨_, _, executes, rfl, fun cluster => absurd cluster other, fun _ => ?_, rfl, fun n => ?_, fun n => ?_, rfl, rfl⟩
    · rw [out, List.flatMap_map]
      refine List.flatMap_congr fun channel _ => ?_
      show optOctets2 (((s.driveAt dest channel).bind (Table.entry s.drives)).bind DriveEntry.clamped) = _
      cases (s.driveAt dest channel).bind (Table.entry s.drives) <;> rfl
    · simp only [other, false_and, if_false, Option.map_id']
      rfl
    · refine (after n).trans (congrArg (Option.map · _) (funext fun d => ?_))
      simp only [drive, true_and]
      rfl

end Sys2Proof.Machine

/-! ## The return from HOLDING (R101) -/

namespace Sys2Proof.Machine

open Sys2Proof

/-! ### STEP_TIMING entered again -/

section timing

variable {s t x : State} {k : Slot} {step : RecipeStep}

/-- STEP_TIMING entered, before the lift sequence starts (R95). -/
def State.timing (k : Slot) (s : State) : State :=
  (s.updRound k fun r => { r.clearWindows with
    fill := r.fill.stop, wall := r.wall.runOn, resume := none, holdLimit := r.holdLimit.stop }).enter k .stepTiming

theorem round_timing : (s.timing k).round k = { s.round k with
    state := .stepTiming
    resume := none
    criteria := (s.round k).criteria.map fun c => { c with window := [] }
    fill := { (s.round k).fill with mode := .stopped }
    wall := (s.round k).wall.runOn
    holdLimit := { (s.round k).holdLimit with mode := .stopped } } := by
  rw [State.timing, State.round_enter, State.round_updRound]
  rfl

theorem timing_work {P : Slot → Prop} {Q : Prop} (p : P k) : Work P Q s (s.timing k) :=
  Work.enter (Work.upd .rfl' p fun _ => by exact ⟨rfl, rfl, rfl, rfl, rfl, fun _ => rfl⟩) p _

theorem timing_eq : s.timing k = { s with
    rounds := (s.timing k).rounds, events := (s.timing k).events, overflow := (s.timing k).overflow } := by
  unfold State.timing
  rw [enter_eq, State.offer_eq]
  rfl

theorem enterTiming_of_done (done : (s.round k).lift = .done) : (s.enterTiming k).1 = s.timing k := by
  have lift : ((s.timing k).round k).lift = .done := by rw [round_timing]; exact done
  unfold State.enterTiming
  dsimp only
  rw [← State.timing, lift]

theorem enterTiming_of_active {n p : Nat} {ph : LiftPhase} (active : (s.round k).lift = .active n p ph) :
    (s.enterTiming k).1 = (s.timing k).startLifted k n 1 := by
  have lift : ((s.timing k).round k).lift = .active n p ph := by rw [round_timing]; exact active
  unfold State.enterTiming
  dsimp only
  rw [← State.timing, lift]

/-- The record of a round in STEP_TIMING again, but for the lift sequence (R95, R98). -/
theorem round_enterTiming : (s.enterTiming k).1.round k = { (s.timing k).round k with
    lift := ((s.enterTiming k).1.round k).lift, liftTimer := ((s.enterTiming k).1.round k).liftTimer } := by
  cases lift : (s.round k).lift with
  | done => rw [enterTiming_of_done lift]
  | active n p ph => rw [enterTiming_of_active lift, round_startLifted]

theorem liftTimer_enterTiming {n p : Nat} {ph : LiftPhase} (active : (s.round k).lift = .active n p ph)
    (current : s.stepOf k = some step) :
    ((s.enterTiming k).1.round k).liftTimer = ⟨.running, 0, 100 * step.liftLength⟩ := by
  have current' : (s.timing k).stepOf k = some step :=
    (stepOf_of_quiet (timing_work (P := fun _ => True) trivial)).trans current
  rw [enterTiming_of_active active, round_startLifted, liftLength_eq current']

theorem timedAgain_enterTiming (clear : (s.round k).causes = ⟨false, []⟩) : s.timedAgain k (s.enterTiming k).1 := by
  obtain ⟨state, resume, -, holdAcc, done, active⟩ := enterTiming_record (s := s) (k := k)
  have record := round_enterTiming (s := s) (k := k)
  rw [round_timing] at record
  refine ⟨state, resume, by rw [record]; exact clear, by rw [record], holdAcc, by rw [record], by rw [record],
    by rw [record], done, fun n p ph lift => ⟨active n p ph lift, fun step => liftTimer_enterTiming lift,
      fun route b v named item entry => ?_⟩⟩
  have named' : (s.timing k).routeOf k = some route :=
    (routeOf_of_work (timing_work (P := fun _ => True) (Q := True) trivial)).trans named
  obtain ⟨-, -, -, commanded, -⟩ := startPhase_effect k b.valve b.lift (.active n 1 .lifted) ((s.timing k).liftLength k)
    (s.timing k)
  rw [enterTiming_of_active lift, startLifted_eq_startPhase named' item]
  exact commanded v (by rw [timing_eq]; exact entry)

/-- Where no lift sequence starts, no valve is commanded. -/
theorem actuators_enterTiming (done : (s.round k).lift = .done) :
    (s.enterTiming k).1.valves = s.valves ∧ (s.enterTiming k).1.drives = s.drives := by
  rw [enterTiming_of_done done, timing_eq]
  exact ⟨rfl, rfl⟩

/-- What STEP_TIMING entered again reads of the state before. -/
theorem State.timedAgain_congr (record : (t.round k) = { s.round k with
      state := (t.round k).state, resume := (t.round k).resume, causes := (t.round k).causes
      fill := (t.round k).fill, wall := (t.round k).wall, holdLimit := (t.round k).holdLimit
      wet := (t.round k).wet, supplyBegun := (t.round k).supplyBegun, linked := (t.round k).linked })
    (stepOf : t.stepOf k = s.stepOf k) (routeOf : t.routeOf k = s.routeOf k)
    (valves : ∀ n, (Table.entry s.valves n).isSome → (Table.entry t.valves n).isSome)
    (again : t.timedAgain k x) : s.timedAgain k x := by
  rw [State.timedAgain, record, stepOf, routeOf] at again
  obtain ⟨state, resume, causes, holdLimit, holdAcc, held, step, criteria, done, active⟩ := again
  refine ⟨state, resume, causes, holdLimit, holdAcc, held, step, criteria, done, fun n p ph lift => ?_⟩
  obtain ⟨lifted, timer, valve⟩ := active n p ph lift
  refine ⟨lifted, timer, fun route b v named item entry => ?_⟩
  obtain ⟨w, entry'⟩ := Option.isSome_iff_exists.1 (valves _ (Option.isSome_iff_exists.2 ⟨v, entry⟩))
  exact valve route b w named item entry'

end timing

/-! ### The supply actions, whether or not the supply has begun (R91) -/

section supply

variable {s t x : State} {k : Slot} {st : StationId} {l : StationLoad} {step : RecipeStep} {n : Nat}
  {onReturn : Bool}

theorem supply_drives : (s.supply k st step onReturn).drives = (s.fed k st step).drives := by
  cases begun : (s.round k).supplyBegun with
  | true => rw [supply_of_begun begun]; rfl
  | false => rw [supply_of_fresh begun, beginSupply_eq]; rfl

/-- No valve but a diverter is commanded when the header is asked for its target. -/
theorem entry_supply_ne (spared : ∀ h y, (s.round k).header = some h → (s.header h).load = some y → n ∉ y.diverters) :
    Table.entry (s.supply k st step onReturn).valves n
      = Table.entry (s.commandValves (s.supplyPositions k st step)).valves n := by
  cases begun : (s.round k).supplyBegun with
  | true =>
    rw [supply_of_begun begun, State.updRound_valves, State.updRound_valves, fed_eq]
  | false =>
    have header : ((s.fed k st step).wetted k st step).round k = { s.round k with
        wet := true, supplyBegun := true, linked := false, wall := Timer.start (seconds step.wallLimit) } := by
      rw [State.wetted, State.round_updRound, fed_eq]
      rfl
    rw [supply_of_fresh begun, State.updRound_valves, State.beginSupply]
    rw [← State.wetted, header]
    have fed : Table.entry ((s.fed k st step).wetted k st step).valves n
        = Table.entry (s.commandValves (s.supplyPositions k st step)).valves n := by
      rw [fed_eq]
      rfl
    split
    next h named =>
      refine (entry_requestTarget_ne fun y loaded => spared h y named ?_).trans fed
      rw [fed_eq] at loaded
      exact loaded
    next => exact fed

theorem supplied_supply (loaded : (s.station st).load = some l) :
    s.supplied k st l step (s.supply k st step onReturn) := by
  refine ⟨fun n serves spared v entry => ?_, fun n medium other spared v entry => ?_,
    fun n named notMedium spared v entry => ?_, fun d entry other => ?_, fun n d heater entry => ?_⟩
  · rw [entry_supply_ne spared, supplied_medium loaded (by rw [entry]; rfl) (mem_mediumValves serves), if_pos serves]
  · rw [entry_supply_ne spared, supplied_medium loaded (by rw [entry]; rfl) medium, if_neg other]
  · rw [entry_supply_ne spared, supplied_entry loaded (by rw [entry]; rfl) named notMedium]
  · rw [supply_drives, entry_drive_fed loaded, entry, Option.map_some, if_neg other, if_pos rfl]
  · rw [supply_drives, entry_drive_fed loaded, entry, Option.map_some, if_pos heater]

theorem round_supply_of_begun (begun : (s.round k).supplyBegun = true) : (s.supply k st step onReturn).round k
    = { s.round k with
      wall := (s.round k).wall.runOn
      fill := ⟨.running, if onReturn then (s.round k).fill.elapsed else 0, 1000 * step.fillLimit⟩ } := by
  have fed : (s.fed k st step).round k = s.round k := by
    rw [fed_eq]
    rfl
  rw [supply_of_begun begun, State.round_updRound, State.round_updRound, fed]

theorem supply_work {P : Slot → Prop} (p : P k) : Work P False s (s.supply k st step onReturn) :=
  Work.supply .rfl' p _ _ _

/-- What the supply actions read of the state before, and what they command in the state after. -/
theorem State.supplied_congr (header : (t.round k).header = (s.round k).header)
    (loads : ∀ h, (t.header h).load = (s.header h).load) (routeOf : t.routeOf k = s.routeOf k)
    (valves : t.valves = s.valves) (drives : t.drives = s.drives) (supplied : t.supplied k st l step x) :
    s.supplied k st l step x := by
  simp only [State.supplied, State.entryValveOf, header, loads, routeOf, valves, drives] at supplied
  exact supplied

end supply

/-! ### R101's table -/

section returning

variable {s t x y : State} {k : Slot} {st : StationId} {step : RecipeStep}

theorem returnFromHolding_setting (resume : (s.round k).resume = some .setting) : s.returnFromHolding k
    = (s.updRound k fun r =>
      { r with travel := r.travel.runOn, resume := none, holdLimit := r.holdLimit.stop }).enter k .setting := by
  rw [State.returnFromHolding, resume]

theorem returnFromHolding_ending (resume : (s.round k).resume = some .ending) : s.returnFromHolding k
    = (s.updRound k fun r => { r with
        drainHold := r.drainHold.runOn
        drainMax := r.drainMax.runOn
        resume := none
        holdLimit := r.holdLimit.stop }).enter k .ending := by
  rw [State.returnFromHolding, resume]

theorem early_of_not_completes (resume : (s.round k).resume = some .stepTiming) (early : ¬s.completesOnReturn k) :
    ¬(s.holdTime k ≤ (s.round k).holdAcc ∧ (s.round k).lift = .done) := fun late => early ⟨.inl resume, late⟩

theorem returnFromHolding_timing (resume : (s.round k).resume = some .stepTiming) (early : ¬s.completesOnReturn k) :
    s.returnFromHolding k = (s.enterTiming k).1 := by
  rw [State.returnFromHolding, resume]
  exact cascade_timing_of_incomplete (early_of_not_completes resume early)

/-- STEP_FILL entered again by a step that is not AIR. -/
theorem returnFromHolding_liquid (resume : (s.round k).resume = some .stepFill)
    (clear : (s.round k).causes = ⟨false, []⟩) (current : s.stepOf k = some step) (held : (s.round k).held = some st)
    (liquid : step.medium ≠ .air) : s.returnFromHolding k = (s.filling k).supply k st step true := by
  rw [State.returnFromHolding, resume]
  show s.cascade [.fill k true] = _
  rw [cascade_fill, enterFill_supply true clear current held, if_neg liquid, Cascade.nil]

/-- STEP_FILL entered again by an AIR step, before it passes to STEP_TIMING (R92). -/
def State.aired (k : Slot) (st : StationId) (step : RecipeStep) (s : State) : State :=
  ((s.filling k).supply k st step true).updRound k fun r => { r with fill := { r.fill with mode := .stopped, elapsed := 0 } }

theorem round_aired : ∃ wet linked wall, (s.aired k st step).round k = { s.round k with
    state := .stepFill
    resume := none
    holdLimit := { (s.round k).holdLimit with mode := .stopped }
    wet := wet
    supplyBegun := true
    linked := linked
    wall := wall
    fill := ⟨.stopped, 0, 1000 * step.fillLimit⟩ } := by
  have record : (s.aired k st step).round k = { ((s.filling k).supply k st step true).round k with
      fill := ⟨.stopped, 0, (((s.filling k).supply k st step true).round k).fill.limit⟩ } := State.round_updRound ..
  cases begun : (s.round k).supplyBegun with
  | true =>
    have begun' : ((s.filling k).round k).supplyBegun = true := by rw [round_filling]; exact begun
    rw [round_supply_of_begun begun', round_filling] at record
    refine ⟨(s.round k).wet, (s.round k).linked, (s.round k).wall.runOn, record.trans ?_⟩
    simp only [begun]
  | false =>
    have fresh : ((s.filling k).round k).supplyBegun = false := by rw [round_filling]; exact begun
    rw [round_supply_of_fresh fresh, round_filling] at record
    exact ⟨true, false, ⟨.running, 0, 1000 * step.wallLimit⟩, record⟩

theorem filling_own : Work (· = k) False s (s.filling k) := filling_work (P := (· = k)) .rfl' rfl

theorem aired_own : Work (· = k) False s (s.aired k st step) :=
  Work.upd (P := (· = k)) (filling_own.trans (supply_work rfl)) rfl fun _ => by
    exact ⟨rfl, rfl, rfl, rfl, rfl, False.elim⟩

theorem stepOf_aired : (s.aired k st step).stepOf k = s.stepOf k := by
  obtain ⟨_, _, _, record⟩ := round_aired (s := s) (k := k) (st := st) (step := step)
  exact stepOf_congr (by rw [aired_own.frame.1]) (by rw [record]) (by rw [record])

theorem returnFromHolding_air (resume : (s.round k).resume = some .stepFill)
    (clear : (s.round k).causes = ⟨false, []⟩) (current : s.stepOf k = some step) (held : (s.round k).held = some st)
    (air : step.medium = .air) (early : ¬s.completesOnReturn k) :
    s.returnFromHolding k = ((s.aired k st step).enterTiming k).1 := by
  have early' : ¬((s.aired k st step).holdTime k ≤ ((s.aired k st step).round k).holdAcc
      ∧ ((s.aired k st step).round k).lift = .done) := by
    obtain ⟨_, _, _, record⟩ := round_aired (s := s) (k := k) (st := st) (step := step)
    rw [State.holdTime, stepOf_aired, record]
    exact fun late => early ⟨.inr ⟨resume, step, current, air⟩, late⟩
  rw [State.returnFromHolding, resume]
  show s.cascade [.fill k true] = _
  rw [cascade_fill, enterFill_supply true clear current held, if_pos air]
  exact cascade_timing_of_incomplete early'

theorem supplied_filled {l : StationLoad} (loaded : (s.station st).load = some l) :
    s.supplied k st l step ((s.filling k).supply k st step true) := by
  refine State.supplied_congr (t := s.filling k) (by rw [round_filling]) (fun h => by rw [filling_eq]; rfl)
    (routeOf_of_work (filling_own (s := s) (k := k))) (by rw [filling_eq]) (by rw [filling_eq]) (supplied_supply ?_)
  rw [filling_eq]
  exact loaded

/-- R101's table, of a round whose last cause is gone. -/
theorem returned_returnFromHolding (clear : (s.round k).causes = ⟨false, []⟩) (early : ¬s.completesOnReturn k) :
    s.returned k (s.returnFromHolding k) := by
  refine ⟨fun resume => ?setting, fun resume => ?ending, fun resume => ?timing,
    fun st l step resume held loaded current => ⟨fun liquid => ?liquid, fun air => ?air⟩⟩
  case setting =>
    rw [returnFromHolding_setting resume, State.round_enter, State.round_updRound, ← clear]
    rfl
  case ending =>
    rw [returnFromHolding_ending resume, State.round_enter, State.round_updRound, ← clear]
    rfl
  case timing =>
    rw [returnFromHolding_timing resume early]
    refine ⟨timedAgain_enterTiming clear, ?_, ?_⟩
    · rw [round_enterTiming, round_timing]
    · rw [round_enterTiming, round_timing]
  case liquid =>
    rw [returnFromHolding_liquid resume clear current held liquid]
    refine ⟨supplied_filled loaded, fun begun => ?_, fun fresh => ?_⟩
    · rw [round_supply_of_begun (by rw [round_filling]; exact begun), round_filling, ← clear]
      rfl
    · have fresh' : ((s.filling k).round k).supplyBegun = false := by rw [round_filling]; exact fresh
      rw [station_supply_of_fresh fresh', round_supply_of_fresh fresh', round_filling, ← clear]
      exact ⟨rfl, rfl⟩
  case air =>
    rw [returnFromHolding_air resume clear current held air early]
    have own := aired_own (s := s) (k := k) (st := st) (step := step)
    obtain ⟨_, _, _, record⟩ := round_aired (s := s) (k := k) (st := st) (step := step)
    refine ⟨?_, ?_, ?_, fun done => ?_⟩
    · refine State.timedAgain_congr (t := s.aired k st step) ?_ stepOf_aired (routeOf_of_work own) (fun n full => ?_)
        (timedAgain_enterTiming (by rw [record]; exact clear))
      · rw [record]
      · have kept := congrArg Option.isSome (valve_untouched_of_frame own.frame n)
        rw [Option.isSome_map, Option.isSome_map] at kept
        exact kept.trans full
    · rw [round_enterTiming, round_timing, record]
    · rw [round_enterTiming, round_timing, record]
    · obtain ⟨valves, drives⟩ := actuators_enterTiming (s := s.aired k st step) (k := k) (by rw [record]; exact done)
      have supplied := supplied_filled (s := s) (k := k) (step := step) loaded
      unfold State.supplied at supplied ⊢
      rw [valves, drives, State.aired, State.updRound_valves, State.updRound_drives]
      exact supplied

/-- No step but an AIR step passes on when STEP_FILL is entered. -/
theorem enterFill_stops {onReturn : Bool} (liquid : ∀ step st, s.stepOf k = some step → (s.round k).held = some st →
    step.medium ≠ .air) : (s.enterFill k onReturn).2 = [] := by
  have kept : ((s.filling k).round k).held = (s.round k).held := by rw [round_filling]
  unfold State.enterFill
  split
  · dsimp only
    split
    next step st current held =>
      rw [if_neg (liquid step st (stepOf_filling.symm.trans current) (kept.symm.trans held))]
    next => rfl
  · rfl

/-- A return that completes no step is work on its own round. -/
theorem returnFromHolding_own (clear : (s.round k).causes = ⟨false, []⟩) (early : ¬s.completesOnReturn k) :
    Work (· = k) False s (s.returnFromHolding k) := by
  cases resume : (s.round k).resume with
  | none =>
    rw [State.returnFromHolding, resume]
  | some res =>
    cases res with
    | setting =>
      rw [returnFromHolding_setting resume]
      exact Work.enter (Work.upd (P := (· = k)) .rfl' rfl fun _ => by exact ⟨rfl, rfl, rfl, rfl, rfl, False.elim⟩) rfl _
    | ending =>
      rw [returnFromHolding_ending resume]
      exact Work.enter (Work.upd (P := (· = k)) .rfl' rfl fun _ => by exact ⟨rfl, rfl, rfl, rfl, rfl, False.elim⟩) rfl _
    | stepTiming =>
      rw [returnFromHolding_timing resume early]
      exact (Work.enterTiming (P := (· = k)) .rfl' rfl).1
    | stepFill =>
      by_cases air : ∃ step st, s.stepOf k = some step ∧ (s.round k).held = some st ∧ step.medium = .air
      · obtain ⟨step, st, current, held, air⟩ := air
        rw [returnFromHolding_air resume clear current held air early]
        exact aired_own.trans (Work.enterTiming (P := (· = k)) .rfl' rfl).1
      · have stops : (s.enterFill k true).2 = [] := enterFill_stops fun step st current held same =>
          air ⟨step, st, current, held, same⟩
        rw [State.returnFromHolding, resume]
        show Work _ _ s (s.cascade [.fill k true])
        rw [cascade_fill, stops, Cascade.nil]
        exact (Work.enterFill (P := (· = k)) .rfl' rfl true).1

/-- What R101's table reads of the state that a round returns from; its causes are gone. -/
theorem State.returned_congr {c : HoldCauses} (record : t.round k = { s.round k with causes := c })
    (loads : ∀ st, (t.station st).load = (s.station st).load) (headers : ∀ h, (t.header h).load = (s.header h).load)
    (valves : t.valves = s.valves) (drives : t.drives = s.drives) (stepOf : t.stepOf k = s.stepOf k)
    (routeOf : t.routeOf k = s.routeOf k) (returned : t.returned k x) : s.returned k x := by
  simp only [State.returned, State.timedAgain, State.supplied, State.entryValveOf, record, loads, headers, valves,
    drives, stepOf, routeOf] at returned
  exact returned

/-- What R101's table says of the state that a round has returned to. -/
theorem State.returned_of_same (record : y.round k = x.round k)
    (linked : ∀ st, (y.station st).linked = (x.station st).linked) (valves : y.valves = x.valves)
    (drives : y.drives = x.drives) (returned : s.returned k x) : s.returned k y := by
  simp only [State.returned, State.timedAgain, State.supplied, record, linked, valves, drives] at returned ⊢
  exact returned

end returning

/-! ### Causes lost (R101, R163, R165) -/

section lost

variable {s t u : State} {k j : Slot} {holds : HoldCauses → Bool} {f : HoldCauses → HoldCauses} {r : Round}

/-- The record of a round that has lost causes. -/
def Round.relieved (f : HoldCauses → HoldCauses) (r : Round) : Round := { r with causes := f r.causes }

/-- A round that only the causes now lost keep in HOLDING. -/
abbrev Round.heldFor (holds : HoldCauses → Bool) (f : HoldCauses → HoldCauses) (r : Round) : Prop :=
  holds r.causes = true ∧ r.state = .holding ∧ f r.causes = ⟨false, []⟩

theorem loseCause_eq (s : State) (k : Slot) : s.loseCause k holds f = if holds (s.round k).causes then
      if (s.round k).state = .holding ∧ (f (s.round k).causes).isEmpty then
        (s.updRound k (Round.relieved f)).returnFromHolding k
      else s.updRound k (Round.relieved f)
    else s := by
  have record : (s.updRound k (Round.relieved f)).round k = (s.round k).relieved f := State.round_updRound ..
  show (if holds (s.round k).causes then
      if ((s.updRound k (Round.relieved f)).round k).state = .holding
          ∧ ((s.updRound k (Round.relieved f)).round k).causes.isEmpty then
        (s.updRound k (Round.relieved f)).returnFromHolding k
      else s.updRound k (Round.relieved f)
    else s) = _
  rw [record]
  rfl

theorem loseCause_of_held (held : (s.round k).heldFor holds f) :
    s.loseCause k holds f = (s.updRound k (Round.relieved f)).returnFromHolding k := by
  obtain ⟨caused, holding, clear⟩ := held
  rw [loseCause_eq, if_pos caused, if_pos ⟨holding, HoldCauses.isEmpty_iff.2 clear⟩]

theorem updRound_id (s : State) (k : Slot) : s.updRound k id = s := by
  unfold State.updRound
  rw [id_eq]
  exact congrArg (fun rounds => { s with rounds := rounds }) (Vector.set_getElem_self ..)

variable (unheld : ∀ c, holds c = false → f c = c)

include unheld

theorem loseCause_of_spared (spared : ¬(s.round k).heldFor holds f) :
    s.loseCause k holds f = s.updRound k (Round.relieved f) := by
  cases caused : holds (s.round k).causes with
  | true =>
    rw [loseCause_eq, if_pos caused]
    exact if_neg fun ⟨holding, clear⟩ => spared ⟨caused, holding, HoldCauses.isEmpty_iff.1 clear⟩
  | false =>
    have same : (s.round k).relieved f = s.round k := by
      rw [Round.relieved, unheld _ caused]
    have still : s.updRound k (Round.relieved f) = s.updRound k id := by
      unfold State.updRound
      exact congrArg (fun r => { s with rounds := s.rounds.set k r }) same
    rw [still, updRound_id, loseCause_eq, caused]
    exact if_neg Bool.false_ne_true

/-- A loss that returns no round changes causes alone. -/
theorem loseCause_rounds (spared : ¬(s.round k).heldFor holds f) :
    s.loseCause k holds f = { s with rounds := (s.loseCause k holds f).rounds }
    ∧ (s.loseCause k holds f).round k = (s.round k).relieved f
    ∧ ∀ j, j ≠ k → (s.loseCause k holds f).round j = s.round j := by
  rw [loseCause_of_spared unheld spared]
  exact ⟨rfl, State.round_updRound .., fun j ne => State.round_updRound_ne _ _ ne⟩

omit unheld

/-- Every slot of a list treated, where what a treatment makes of a record is read from that record. -/
theorem foldl_slots {I : State → State → Prop} (refl : ∀ s, I s s) (trans : ∀ s t u, I s t → I t u → I s u)
    {C : Round → Prop} {g : Round → Round} {f : State → Slot → State} (each : ∀ t k, C (t.round k) →
      I t (f t k) ∧ (f t k).round k = g (t.round k) ∧ ∀ j, j ≠ k → (f t k).round j = t.round j) (l : List Slot) :
    ∀ s : State, l.Nodup → (∀ k ∈ l, C (s.round k)) → I s (l.foldl f s)
      ∧ (∀ k ∈ l, (l.foldl f s).round k = g (s.round k)) ∧ ∀ k, k ∉ l → (l.foldl f s).round k = s.round k := by
  induction l with
  | nil => exact fun s _ _ => ⟨refl s, nofun, fun _ _ => rfl⟩
  | cons j l ih =>
    intro s apart fits
    obtain ⟨absent, apart⟩ := List.nodup_cons.1 apart
    obtain ⟨first, treated, beside⟩ := each s j (fits j List.mem_cons_self)
    have kept : ∀ k ∈ l, (f s j).round k = s.round k := fun k mem => beside k fun same => absent (same ▸ mem)
    obtain ⟨rest, records, left⟩ := ih (f s j) apart fun k mem => by
      rw [kept k mem]
      exact fits k (List.mem_cons_of_mem _ mem)
    refine ⟨trans _ _ _ first rest, fun k mem => ?_, fun k notMem => ?_⟩
    · obtain rfl | mem := List.mem_cons.1 mem
      · exact (left _ absent).trans treated
      · rw [List.foldl_cons, records k mem, kept k mem]
    · obtain ⟨ne, notMem⟩ := not_or.1 (List.mem_cons.not.1 notMem)
      exact (left k notMem).trans (beside k ne)

include unheld

/-- Causes lost by rounds that none of them alone keeps in HOLDING. -/
theorem loseCauses_spared (l : List Slot) (s : State) (apart : l.Nodup)
    (spared : ∀ k ∈ l, ¬(s.round k).heldFor holds f) :
    let u := l.foldl (fun s k => s.loseCause k holds f) s
    u = { s with rounds := u.rounds } ∧ (∀ k ∈ l, u.round k = (s.round k).relieved f)
    ∧ ∀ k, k ∉ l → u.round k = s.round k :=
  foldl_slots (I := fun s t => t = { s with rounds := t.rounds }) (fun _ => rfl)
    (fun _ _ _ first second => second.trans (by rw [first])) (C := fun r => ¬r.heldFor holds f)
    (fun _ _ spared => loseCause_rounds unheld spared) l s apart spared

/-- What R101's table makes of a record in SETTING or ENDING. -/
def Round.calmReturn (r : Round) : Round :=
  match r.resume with
  | some .setting =>
    { r with state := .setting, resume := none, travel := r.travel.runOn, holdLimit := r.holdLimit.stop }
  | _ => { r with
      state := .ending, resume := none, drainHold := r.drainHold.runOn, drainMax := r.drainMax.runOn
      holdLimit := r.holdLimit.stop }

omit unheld in
theorem returnFromHolding_calm (calm : (s.round k).resume = some .setting ∨ (s.round k).resume = some .ending) :
    s.returnFromHolding k = { s with
      rounds := (s.returnFromHolding k).rounds
      events := (s.returnFromHolding k).events
      overflow := (s.returnFromHolding k).overflow }
    ∧ (s.returnFromHolding k).round k = (s.round k).calmReturn
    ∧ ∀ j, j ≠ k → (s.returnFromHolding k).round j = s.round j := by
  obtain resume | resume := calm
  · rw [returnFromHolding_setting resume]
    refine ⟨?_, ?_, fun j ne => ?_⟩
    · rw [enter_eq, State.offer_eq]
      rfl
    · rw [State.round_enter, State.round_updRound, Round.calmReturn, resume]
    · rw [State.round_enter_ne _ _ _ ne, State.round_updRound_ne _ _ ne]
  · rw [returnFromHolding_ending resume]
    refine ⟨?_, ?_, fun j ne => ?_⟩
    · rw [enter_eq, State.offer_eq]
      rfl
    · rw [State.round_enter, State.round_updRound, Round.calmReturn, resume]
    · rw [State.round_enter_ne _ _ _ ne, State.round_updRound_ne _ _ ne]

/-- What a loss makes of a record that returns to SETTING or ENDING, if at all. -/
def Round.calmed (holds : HoldCauses → Bool) (f : HoldCauses → HoldCauses) (r : Round) : Round :=
  if r.heldFor holds f then (r.relieved f).calmReturn else r.relieved f

theorem loseCause_calm (calm : (s.round k).heldFor holds f →
      (s.round k).resume = some .setting ∨ (s.round k).resume = some .ending) :
    s.loseCause k holds f = { s with
      rounds := (s.loseCause k holds f).rounds
      events := (s.loseCause k holds f).events
      overflow := (s.loseCause k holds f).overflow }
    ∧ (s.loseCause k holds f).round k = (s.round k).calmed holds f
    ∧ ∀ j, j ≠ k → (s.loseCause k holds f).round j = s.round j := by
  by_cases held : (s.round k).heldFor holds f
  · have record : (s.updRound k (Round.relieved f)).round k = (s.round k).relieved f := State.round_updRound ..
    obtain ⟨eq, own, others⟩ := returnFromHolding_calm (s := s.updRound k (Round.relieved f)) (k := k) (by
      rw [record]
      exact calm held)
    rw [record] at own
    rw [loseCause_of_held held]
    refine ⟨eq, own.trans (if_pos held).symm, fun j ne => ?_⟩
    rw [others j ne, State.round_updRound_ne _ _ ne]
  · obtain ⟨eq, own, others⟩ := loseCause_rounds unheld held
    refine ⟨?_, own.trans (if_neg held).symm, others⟩
    rw [eq]

/-- Causes lost by any number of rounds, of which those that return do so to SETTING and ENDING. -/
theorem loseCauses_calm (s : State) (calm : ∀ k, (s.round k).heldFor holds f →
      (s.round k).resume = some .setting ∨ (s.round k).resume = some .ending) :
    let u := allSlots.foldl (fun s k => s.loseCause k holds f) s
    u = { s with rounds := u.rounds, events := u.events, overflow := u.overflow }
    ∧ ∀ k, u.round k = (s.round k).calmed holds f := by
  obtain ⟨eq, records, -⟩ := foldl_slots
    (I := fun s t => t = { s with rounds := t.rounds, events := t.events, overflow := t.overflow }) (fun _ => rfl)
    (fun _ _ _ first second => second.trans (by rw [first])) (C := fun r => r.heldFor holds f →
      r.resume = some .setting ∨ r.resume = some .ending) (f := fun s k => s.loseCause k holds f)
    (fun _ _ calm => loseCause_calm unheld calm) allSlots s (by decide) fun k _ => calm k
  exact ⟨eq, fun k => records k (mem_allSlots k)⟩

omit unheld in
/-- A round's own loss of its last cause: R101's table, and no other round is concerned. -/
theorem loseCause_returns (held : (s.round k).heldFor holds f) (early : ¬s.completesOnReturn k) :
    s.returned k (s.loseCause k holds f) ∧ ∀ j, j ≠ k → (s.loseCause k holds f).round j = s.round j := by
  have lost := loseCause_of_held held
  have record : (s.updRound k (Round.relieved f)).round k = { s.round k with causes := ⟨false, []⟩ } := by
    rw [State.round_updRound, Round.relieved, held.2.2]
  have others : ∀ j, j ≠ k → (s.updRound k (Round.relieved f)).round j = s.round j :=
    fun j ne => State.round_updRound_ne _ _ ne
  have same : s.updRound k (Round.relieved f) = { s with rounds := (s.updRound k (Round.relieved f)).rounds } := rfl
  generalize s.updRound k (Round.relieved f) = v at lost record others same
  have stepOf : v.stepOf k = s.stepOf k := stepOf_congr (by rw [same]) (by rw [record]) (by rw [record])
  have routeOf : v.routeOf k = s.routeOf k := routeOf_congr (by rw [same]) (by rw [record])
  have clear : (v.round k).causes = ⟨false, []⟩ := by rw [record]
  have early' : ¬v.completesOnReturn k := by
    rw [State.completesOnReturn, State.holdTime, stepOf, record]
    exact early
  rw [lost]
  refine ⟨?_, fun j ne => (((returnFromHolding_own clear early').rounds j).1 ne).trans (others j ne)⟩
  refine State.returned_congr record (fun st => ?_) (fun h => ?_) ?_ ?_ stepOf routeOf
    (returned_returnFromHolding clear early')
  · exact (congrArg (fun x : State => (x.station st).load) same :)
  · exact (congrArg (fun x : State => (x.header h).load) same :)
  · rw [same]
  · rw [same]

/-- Causes lost where no round but one may return, cut at that round. -/
theorem loseCauses_cut (only : ∀ j, (s.round j).heldFor holds f → j = k) :
    let u := allSlots.foldl (fun s k => s.loseCause k holds f) s
    ∃ t : State, t = { s with rounds := t.rounds } ∧ t.round k = s.round k
      ∧ ((∀ j, j ≠ k → (t.loseCause k holds f).round j = t.round j) →
        u = { t.loseCause k holds f with rounds := u.rounds } ∧ u.round k = (t.loseCause k holds f).round k
        ∧ ∀ j, j ≠ k → u.round j = (s.round j).relieved f) := by
  obtain ⟨before, after, split⟩ := List.append_of_mem (mem_allSlots k)
  obtain ⟨left, right, crossed⟩ := List.nodup_append.1 (split ▸ (by decide : allSlots.Nodup))
  obtain ⟨absent, right⟩ := List.nodup_cons.1 right
  have absent' : k ∉ before := fun mem => crossed k mem k List.mem_cons_self rfl
  obtain ⟨eq, treated, kept⟩ := loseCauses_spared unheld before s left fun j mem held => absent' (only j held ▸ mem)
  rw [split, List.foldl_append, List.foldl_cons]
  generalize before.foldl (fun s k => s.loseCause k holds f) s = t at eq treated kept
  refine ⟨t, eq, kept k absent', fun others => ?_⟩
  have later : ∀ j ∈ after, j ≠ k ∧ j ∉ before := fun j mem =>
    ⟨fun same => absent (same ▸ mem), fun here => crossed j here j (List.mem_cons_of_mem _ mem) rfl⟩
  have spared : ∀ j ∈ after, (t.loseCause k holds f).round j = s.round j := fun j mem =>
    (others j (later j mem).1).trans (kept j (later j mem).2)
  obtain ⟨eq', treated', kept'⟩ := loseCauses_spared unheld after (t.loseCause k holds f) right fun j mem held =>
    (later j mem).1 (only j (spared j mem ▸ held))
  refine ⟨eq', kept' k absent, fun j ne => ?_⟩
  by_cases later : j ∈ after
  · rw [treated' j later, spared j later]
  · rw [kept' j later, others j ne]
    refine treated j ?_
    have mem := split ▸ mem_allSlots j
    simpa [later, ne] using mem

/-- Causes lost where one round alone returns, and completes no step: R101's table for it, and the others lose their
causes. -/
theorem loseCauses_single (held : (s.round k).heldFor holds f) (only : ∀ j, (s.round j).heldFor holds f → j = k)
    (early : ¬s.completesOnReturn k) :
    let u := allSlots.foldl (fun s k => s.loseCause k holds f) s
    (∀ j, j ≠ k → u.round j = (s.round j).relieved f) ∧ s.returned k u := by
  obtain ⟨t, eq, here, cut⟩ := loseCauses_cut unheld only
  have record : t.round k = { s.round k with causes := (s.round k).causes } := here
  have stepOf : t.stepOf k = s.stepOf k := stepOf_congr (by rw [eq]) (by rw [here]) (by rw [here])
  have routeOf : t.routeOf k = s.routeOf k := routeOf_congr (by rw [eq]) (by rw [here])
  have early' : ¬t.completesOnReturn k := by
    rw [State.completesOnReturn, State.holdTime, stepOf, here]
    exact early
  obtain ⟨table, others⟩ := loseCause_returns (here ▸ held) early'
  obtain ⟨eq', own, relieved⟩ := cut others
  refine ⟨relieved, State.returned_of_same own
    (fun st => (congrArg (fun x : State => (x.station st).linked) eq' :)) (congrArg State.valves eq' :)
    (congrArg State.drives eq' :) ?_⟩
  exact State.returned_congr record (fun st => (congrArg (fun x : State => (x.station st).load) eq :))
    (fun h => (congrArg (fun x : State => (x.header h).load) eq :)) (congrArg State.valves eq :)
    (congrArg State.drives eq :) stepOf routeOf table

end lost

end Sys2Proof.Machine

/-! ## LINK_BACK (R165) -/

namespace Sys2Proof.Machine

open Sys2Proof

section linkBack

variable {s : State} {a : Ask} {since : PartTime} {k : Slot}

/-- A read of the configuration taken and answered, the link heard again (R165, R182): the flag, the timer, the answer. -/
def State.linkOpened (a : Ask) (s : State) : State :=
  { s with
    rxU := [], bufferHeld := true, linkSilent := false, linkTimer := ⟨.running, 0, s.config.linkSilence.toNat⟩
    txU := s.txU
      ++ [.answer true a.source s.config.ownAddress a.tag ⟨.ok, none, none, configOctets s.config⟩] }

/-- LINK_SILENT taken from every round. -/
def State.linkReturned (a : Ask) (s : State) : State :=
  allSlots.foldl (fun s k => s.loseCause k (fun c => c.link) fun c => { c with link := false }) (s.linkOpened a)

theorem linkReturned_frame (a : Ask) (s : State) : sequencerFrame (s.linkOpened a) (s.linkReturned a) :=
  (loseCauses_work (s.linkOpened a) (fun c => c.link) fun c => { c with link := false }).frame

theorem takeRequest_readConfig (ready : s.loader = .ready) (free : s.bufferHeld = false) :
    State.takeRequest a readConfig { s with rxU := [] }
      = State.answer true a ⟨.ok, none, none, configOctets s.config⟩ s.opened := by
  unfold State.takeRequest
  rw [if_neg (not_not.2 ready), if_neg (by simp [free])]
  rfl

/-- A good frame that ends a link silence, carrying a read of the configuration (R165, R182). -/
theorem exec_configRead_linkBack (ready : s.loader = .ready) (free : s.bufferHeld = false)
    (silent : s.linkSilent = true) (expired : s.linkExpiry = some since) :
    exec (.configRead a) s = .next ((s.linkReturned a).offer { bareEvent .linkBack s.partTime with
      value := some (.number (s.partTime - since).toNat) }) := by
  obtain ⟨frame, -⟩ := linkReturned_frame a s
  have time : (s.linkReturned a).partTime = s.partTime := by rw [frame]; rfl
  have expiry : (s.linkReturned a).linkExpiry = some since := by rw [frame]; exact expired
  have heard : (State.answer true a ⟨.ok, none, none, configOctets s.config⟩ s.opened).linkHeard
      = (s.linkReturned a).offer { (s.linkReturned a).event .linkBack with value := some (.number
          ((s.linkReturned a).partTime - (s.linkReturned a).linkExpiry.getD (s.linkReturned a).partTime).toNat) } := by
    unfold State.linkHeard
    exact if_pos silent
  have arrives : s.requestArrives a readConfig
      = (State.answer true a ⟨.ok, none, none, configOctets s.config⟩ s.opened).linkHeard :=
    congrArg State.linkHeard (takeRequest_readConfig ready free)
  refine (congrArg Host.Outcome.next (arrives.trans heard)).trans ?_
  rw [State.event, time, expiry]
  rfl

theorem link_unheld (c : HoldCauses) (absent : c.link = false) : { c with link := false } = c := by
  rw [← absent]

/-- A round that LINK_SILENT alone keeps in HOLDING. -/
theorem heldFor_link_iff {r : Round} : r.heldFor (fun c => c.link) (fun c => { c with link := false })
    ↔ r.state = .holding ∧ r.causes = ⟨true, []⟩ := by
  rcases causes : r.causes with ⟨link, nodes⟩
  simp only [Round.heldFor, causes, HoldCauses.mk.injEq, true_and]
  tauto

theorem linkReturned_calm (calm : ∀ k, (s.round k).state = .holding → (s.round k).causes = ⟨true, []⟩ →
      (s.round k).resume = some .setting ∨ (s.round k).resume = some .ending) :
    s.linkReturned a = { s.linkOpened a with
      rounds := (s.linkReturned a).rounds
      events := (s.linkReturned a).events
      overflow := (s.linkReturned a).overflow }
    ∧ ∀ k, (s.linkReturned a).round k
      = (s.round k).calmed (fun c => c.link) fun c => { c with link := false } :=
  loseCauses_calm link_unheld (s.linkOpened a) fun k held => by
    obtain ⟨holding, causes⟩ := heldFor_link_iff.1 held
    exact calm k holding causes

theorem linkReturned_single (holding : (s.round k).state = .holding) (causes : (s.round k).causes = ⟨true, []⟩)
    (only : ∀ j, (s.round j).state = .holding ∧ (s.round j).causes = ⟨true, []⟩ → j = k)
    (early : ¬s.completesOnReturn k) :
    (∀ j, j ≠ k → (s.linkReturned a).round j = { s.round j with causes := { (s.round j).causes with link := false } })
    ∧ (s.linkOpened a).returned k (s.linkReturned a) :=
  loseCauses_single link_unheld (heldFor_link_iff.2 ⟨holding, causes⟩)
    (fun j held => only j (heldFor_link_iff.1 held)) early

/-- What a round makes of LINK_SILENT lost, where no return reaches further than SETTING or ENDING (R101). -/
theorem calmed_link {r : Round} (calm : r.state = .holding → r.causes = ⟨true, []⟩ →
      r.resume = some .setting ∨ r.resume = some .ending) :
    let x := r.calmed (fun c => c.link) fun c => { c with link := false }
    x.causes = { r.causes with link := false }
    ∧ (∀ res, r.state = .holding → r.causes = ⟨true, []⟩ → r.resume = some res →
      x.resume = none ∧ x.holdLimit.mode ≠ .running
      ∧ (res = .setting → x.state = .setting ∧ x.travel = r.travel.runOn)
      ∧ (res = .ending → x.state = .ending ∧ x.drainHold = r.drainHold.runOn))
    ∧ (¬(r.state = .holding ∧ r.causes = ⟨true, []⟩) → x.state = r.state) := by
  by_cases held : r.state = .holding ∧ r.causes = ⟨true, []⟩
  · have returns : r.calmed (fun c => c.link) (fun c => { c with link := false })
        = (r.relieved fun c => { c with link := false }).calmReturn := if_pos (heldFor_link_iff.2 held)
    obtain resume | resume := calm held.1 held.2
    · rw [returns, Round.calmReturn, Round.relieved, resume]
      refine ⟨rfl, fun res _ _ same => ⟨rfl, nofun, fun _ => ⟨rfl, rfl⟩, fun other => ?_⟩, fun free => absurd held free⟩
      subst other
      cases same
    · rw [returns, Round.calmReturn, Round.relieved, resume]
      refine ⟨rfl, fun res _ _ same => ⟨rfl, nofun, fun other => ?_, fun _ => ⟨rfl, rfl⟩⟩, fun free => absurd held free⟩
      subst other
      cases same
  · have stays : r.calmed (fun c => c.link) (fun c => { c with link := false })
        = r.relieved fun c => { c with link := false } := if_neg (heldFor_link_iff.not.2 held)
    rw [stays]
    exact ⟨rfl, fun _ holding causes => absurd ⟨holding, causes⟩ held, fun _ => rfl⟩

end linkBack

/-- Settles O18: the rounds that return to SETTING and ENDING, any number of them; and the return of one round. -/
theorem linkBack : Obligations.LinkBack := by
  intro s a since ready free silent expired answered alone
  have executes := exec_configRead_linkBack (a := a) ready free silent expired
  have frame := linkReturned_frame a s
  have timer : (s.linkReturned a).linkTimer = ⟨.running, 0, s.config.linkSilence.toNat⟩ := by rw [frame.1]; rfl
  have answers : (s.linkReturned a).txU = answered := by rw [frame.1]; rfl
  have flag : (s.linkReturned a).linkSilent = false := by rw [frame.1]; rfl
  refine ⟨fun calm => ?_, fun k here only early => ?_⟩
  · have calm' : ∀ k, (s.round k).state = .holding → (s.round k).causes = ⟨true, []⟩ →
        (s.round k).resume = some .setting ∨ (s.round k).resume = some .ending :=
      fun k holding causes => calm k ⟨holding, causes⟩
    obtain ⟨eq, records⟩ := linkReturned_calm (a := a) calm'
    generalize s.linkReturned a = u at executes frame timer answers flag eq records
    refine ⟨_, u, executes, ?_, ?_, ?_, rfl, ?_, fun k => ?_⟩
    · rw [State.offer_linkSilent, flag]
    · rw [State.offer_linkTimer, timer]
    · rw [State.offer_txU, answers]
    · refine (State.offer_eq ..).trans ?_
      simp only [State.offer_linkTimer, State.offer_txU, State.offer_rounds]
      rw [eq]
      rfl
    · rw [State.round_offer, records k]
      exact calmed_link (calm' k)
  · obtain ⟨others, table⟩ := linkReturned_single (a := a) here.1 here.2 only early
    generalize s.linkReturned a = u at executes frame timer answers flag others table
    refine ⟨_, u, executes, ?_, ?_, rfl, ?_, fun j ne => ?_, ?_⟩
    · rw [State.offer_linkTimer, timer]
    · rw [State.offer_txU, answers]
    · rw [State.offer_linkTimer, timer, State.offer_txU, answers]
      exact sequencerFrame_trans frame (Work.offer (P := fun _ => True) (Q := False) _).frame
    · rw [State.round_offer, others j ne]
    · exact State.returned_of_same (State.round_offer ..) (fun st => by rw [State.station_offer])
        (State.offer_valves ..) (State.offer_drives ..) table

end Sys2Proof.Machine

/-! ## The entries a tapped reply writes (R157 to R159) -/

namespace Sys2Proof.Machine

open Sys2Proof

section readings

variable {s : State} {f : Frame} {i : Nat} {e : NodeEntry} {r : Reading} {l : List (Nat × Quality × Nat)}

/-- What is tapped is the reading of a mapped node's reply (R146, R157). -/
theorem tapped_eq_some (taps : s.tapped f = some (i, e, r)) :
    Table.entry s.nodes i = some e ∧ readReply e.kind f.payload = some r := by
  unfold State.tapped State.nodeAt at taps
  split at taps
  · split at taps
    next m x index node =>
      obtain ⟨reading, read, same⟩ := Option.map_eq_some_iff.1 taps
      cases same
      rw [index] at node
      exact ⟨node, read⟩
    next => cases taps
  · cases taps

theorem nodup_of_noRepeat {l : List Nat} (distinct : noRepeat l = true) : l.Nodup := by
  induction l with
  | nil => exact List.nodup_nil
  | cons x l ih =>
    simp only [noRepeat, Bool.and_eq_true, Bool.not_eq_true', List.contains_eq_mem, decide_eq_false_iff_not] at distinct
    exact List.nodup_cons.2 ⟨distinct.1, ih distinct.2⟩

/-- A reply lists no channel twice (R157). -/
theorem nodup_of_readReply {kind : NodeKind} {payload : List Octet} (read : readReply kind payload = some (.points l)) :
    (l.map (·.1)).Nodup := by
  cases kind with
  | valveCluster => simp [readReply] at read
  | drive => simp [readReply] at read
  | instrument =>
    simp only [readReply, Option.map_eq_some_iff, Reading.points.injEq, exists_eq_right] at read
    unfold instrumentReplies at read
    split at read
    · split at read
      next fits =>
        cases read
        exact nodup_of_noRepeat fits.2.2
      next => cases read
    · cases read

end readings

section written

variable {s t : State} {a : Octet} {n first slot channel : Nat} {l : List Feedback} {samples : List (Nat × Quality × Nat)}
  {x : Feedback} {y : Nat × Quality × Nat}

/-! ### A cluster's slots -/

theorem entry_writeValve (canonical : s.tablesCanonical) (at' : s.valveAt a slot = some n) :
    Table.entry (s.writeValves a first [x]).valves n = (Table.entry s.valves n).map fun v =>
      if first = slot then { v with feedback := x } else v := by
  unfold State.writeValves State.writeValves
  dsimp only
  by_cases here : first = slot
  · subst here
    rw [at']
    dsimp only
    simp only [State.updValve_valves, Table.entry_adjust_self, if_true]
  · simp only [here, if_false, Option.map_id']
    split
    next m found => rw [State.updValve_valves, Table.entry_adjust_ne _ _ (valveAt_ne canonical at' found here)]
    next => rfl

/-- A slot before those still to be written stands. -/
theorem entry_writeValves_passed (canonical : s.tablesCanonical) (at' : s.valveAt a slot = some n)
    (passed : slot < first) : Table.entry (s.writeValves a first l).valves n = Table.entry s.valves n := by
  induction l generalizing s first with
  | nil => rfl
  | cons x l ih =>
    have same := SameKeys.writeValves a [x] first s
    refine (ih (same.canonical canonical) ((valveAt_of_sameKeys same).trans at') (Nat.lt_succ_of_lt passed)).trans ?_
    rw [entry_writeValve canonical at']
    simp [Nat.ne_of_gt passed]

/-- The feedback a cluster's reply leaves of a slot that it reaches (R159). -/
theorem feedback_writeValves (canonical : s.tablesCanonical) (at' : s.valveAt a slot = some n) (reach : first ≤ slot)
    (listed : l[slot - first]? = some x) : (Table.entry (s.writeValves a first l).valves n).map (·.feedback) = some x := by
  induction l generalizing s first with
  | nil => cases listed
  | cons y l ih =>
    have same := SameKeys.writeValves a [y] first s
    have canonical' := same.canonical canonical
    have at'' := (valveAt_of_sameKeys same).trans at'
    by_cases here : first = slot
    · subst here
      obtain rfl : y = x := by simpa using listed
      obtain ⟨v, entry, -⟩ := (valveAt_eq_some canonical).1 at'
      have passed := entry_writeValves_passed (l := l) canonical' at'' (Nat.lt_succ_self first)
      refine (congrArg (Option.map _) passed).trans ?_
      rw [entry_writeValve canonical at', entry]
      simp
    · have later : first + 1 ≤ slot := Nat.lt_of_le_of_ne reach here
      refine ih canonical' at'' later ?_
      rw [show slot - first = slot - (first + 1) + 1 by omega, List.getElem?_cons_succ] at listed
      exact listed

/-! ### An instrument head's channels -/

theorem pointAt_of_sameKeys (same : SameKeys s t) : t.pointAt a channel = s.pointAt a channel :=
  Table.first_keys (p := fun _ (x : Octet × Nat) => x.1 == a && x.2 == channel) same.points

theorem pointAt_eq_some (canonical : s.tablesCanonical) :
    s.pointAt a channel = some n ↔ ∃ p, Table.entry s.points n = some p ∧ p.node = a ∧ p.channel = channel := by
  obtain ⟨-, -, -, -, points, -, -, -, -, -, places⟩ := canonical
  rw [State.pointAt, Table.first_eq_some_iff (key := (a, channel)) points places fun p => by simp]
  simp only [Prod.mk.injEq]

theorem partTime_writePoints : (s.writePoints a samples).partTime = s.partTime :=
  (congrArg State.partTime (writeReading_frame s a (.points samples)) :)

theorem entry_writePoints_cons (canonical : s.tablesCanonical) (at' : s.pointAt a channel = some n) :
    Table.entry (s.writePoints a [y]).points n = (Table.entry s.points n).map fun p =>
      if y.1 = channel then p.write s.partTime y.2.1 y.2.2 else p := by
  unfold State.writePoints State.writePoints
  dsimp only
  by_cases here : y.1 = channel
  · rw [here, at']
    simp only [Table.entry_adjust_self, if_true]
  · simp only [here, if_false, Option.map_id']
    split
    next m found =>
      refine Table.entry_adjust_ne _ _ ?_
      rintro rfl
      obtain ⟨p, entry, -, there⟩ := (pointAt_eq_some canonical).1 at'
      obtain ⟨q, entry', -, other⟩ := (pointAt_eq_some canonical).1 found
      obtain rfl := Option.some.inj (entry.symm.trans entry')
      exact here (other.symm.trans there)
    next => rfl

/-- A channel that a reply does not list stands. -/
theorem entry_writePoints_unlisted (canonical : s.tablesCanonical) (at' : s.pointAt a channel = some n)
    (unlisted : channel ∉ samples.map (·.1)) : Table.entry (s.writePoints a samples).points n = Table.entry s.points n := by
  induction samples generalizing s with
  | nil => rfl
  | cons y samples ih =>
    obtain ⟨ne, unlisted⟩ := not_or.1 (List.mem_cons.not.1 unlisted)
    have same := SameKeys.writePoints a [y] s
    refine (ih (same.canonical canonical) ((pointAt_of_sameKeys same).trans at') unlisted).trans ?_
    rw [entry_writePoints_cons canonical at']
    simp [Ne.symm ne]

/-- The entry an instrument head's reply leaves of a channel that it lists (R159). -/
theorem entry_writePoints_listed (canonical : s.tablesCanonical) (at' : s.pointAt a channel = some n)
    (distinct : (samples.map (·.1)).Nodup) {q : Quality} {value : Nat} (listed : (channel, q, value) ∈ samples) :
    Table.entry (s.writePoints a samples).points n = (Table.entry s.points n).map (PointEntry.write s.partTime q value) := by
  induction samples generalizing s with
  | nil => cases listed
  | cons y samples ih =>
    obtain ⟨absent, distinct⟩ := List.nodup_cons.1 distinct
    have same := SameKeys.writePoints a [y] s
    have canonical' := same.canonical canonical
    have at'' := (pointAt_of_sameKeys same).trans at'
    obtain rfl | listed := List.mem_cons.1 listed
    · refine (entry_writePoints_unlisted canonical' at'' absent).trans ?_
      rw [entry_writePoints_cons canonical at']
      exact congrArg (Option.map · _) (funext fun p => if_pos rfl)
    · have ne : y.1 ≠ channel := fun here => absent (List.mem_map.2 ⟨_, listed, here.symm⟩)
      have rest := ih canonical' at'' distinct listed
      rw [entry_writePoints_cons canonical at', partTime_writePoints] at rest
      refine rest.trans ?_
      simp [ne]

end written

/-! ### The images after the node is heard -/

section imaged

variable {s : State} {i n slot : Nat} {e : NodeEntry} {r : Reading} {v : SentU}

theorem hearNode_frame (s : State) (i : Nat) (e : NodeEntry) : sequencerFrame
    { s with nodes := Table.adjust i (fun x => { x with
        lastReply := some s.partTime, silent := false, silence := Timer.start s.config.nodeSilence.toNat }) s.nodes }
    (s.hearNode i e) := (hearNode_work s i e).frame

/-- A reply's own writing goes no further than the images; the deliveries are work of the sequencer. -/
theorem deliver_imaged_frame : sequencerFrame (s.imaged i e r) ((s.imaged i e r).deliver e.address r) :=
  (deliver_work ..).frame

/-- The feedback of a cluster's slot after its reply (R159). -/
theorem feedback_imaged {l : List Feedback} {x : Feedback} (canonical : s.tablesCanonical)
    (at' : s.valveAt e.address slot = some n) (listed : l[slot]? = some x) :
    (Table.entry (s.imaged i e (.valves l)).valves n).map (·.feedback) = some x :=
  have heard := SameKeys.hearNode (s := s) i e
  feedback_writeValves (heard.canonical canonical) ((valveAt_of_sameKeys heard).trans at') (Nat.zero_le _) listed

/-- The status and the value of a drive after its node's reply (R159). -/
theorem image_imaged_drives {l : List (DriveStatus × Nat)} {st : DriveStatus} {value : Nat} {d : DriveEntry}
    (canonical : s.tablesCanonical) (at' : s.driveAt e.address slot = some n) (entry : Table.entry s.drives n = some d)
    (listed : l[slot]? = some (st, value)) :
    (Table.entry (s.imaged i e (.drives l)).drives n).map (fun x => (x.status, x.value))
      = some (st, some (min value d.kind.top)) := by
  have heard := SameKeys.hearNode (s := s) i e
  have canonical' := heard.canonical canonical
  obtain ⟨w, entry', node, channel⟩ := (driveAt_eq_some canonical').1 ((driveAt_of_sameKeys heard).trans at')
  have kept := drive_untouched_of_frame (hearNode_frame s i e) n
  rw [entry'] at kept
  have kind : w.kind = d.kind := by
    have same := Option.some.inj (kept.trans (congrArg (Option.map DriveEntry.untouched) entry))
    exact (congrArg DriveEntry.kind same :)
  have at'' : (s.hearNode i e).drivesAt e.address n w.channel := drivesAt_of_canonical canonical' entry' node
  have written := entry_writeDrives (l := l) at'' (Nat.zero_le _)
  rw [entry', Nat.sub_zero, channel, listed] at written
  refine (congrArg (Option.map _) written).trans ?_
  rw [← kind]
  rfl

/-- A point after the reply of its instrument head (R159). -/
theorem entry_imaged_points {l : List (Nat × Quality × Nat)} {q : Quality} {value : Nat} (canonical : s.tablesCanonical)
    (distinct : (l.map (·.1)).Nodup) (at' : s.pointAt e.address slot = some n) (listed : (slot, q, value) ∈ l) :
    Table.entry (s.imaged i e (.points l)).points n
      = (Table.entry s.points n).map (PointEntry.write s.partTime q value) := by
  have heard := SameKeys.hearNode (s := s) i e
  obtain ⟨frame, -⟩ := hearNode_frame s i e
  have written := entry_writePoints_listed (heard.canonical canonical) ((pointAt_of_sameKeys heard).trans at') distinct
    listed
  rw [show (s.hearNode i e).points = s.points by rw [frame],
    show (s.hearNode i e).partTime = s.partTime by rw [frame]] at written
  exact written

end imaged

end Sys2Proof.Machine

/-! ## A cluster's reply in SETTING (R88, R90, R158, R160) -/

namespace Sys2Proof.Machine

open Sys2Proof

section settings

variable {s t : State} {k : Slot} {a : Octet} {l : List Feedback} {n first : Nat} {j : StationId} {step : RecipeStep}
  {route : Route}

/-- A fold that one element alone moves. -/
theorem foldl_single {β : Type} {f : State → β → State} {l : List β} {x : β} (mem : x ∈ l) (apart : l.Nodup)
    (before : ∀ y, y ≠ x → f s y = s) (after : ∀ y, y ≠ x → f (f s x) y = f s x) : l.foldl f s = f s x := by
  obtain ⟨left, right, rfl⟩ := List.append_of_mem mem
  have still : ∀ (u : State) (l : List β), x ∉ l → (∀ y, y ≠ x → f u y = u) → l.foldl f u = u := by
    intro u l absent fixed
    induction l with
    | nil => rfl
    | cons y l ih =>
      obtain ⟨ne, absent⟩ := not_or.1 (List.mem_cons.not.1 absent)
      rw [List.foldl_cons, fixed y (Ne.symm ne), ih absent]
  obtain ⟨-, behind, crossed⟩ := List.nodup_append.1 apart
  rw [List.foldl_append, still s left (fun here => crossed x here x List.mem_cons_self rfl) before, List.foldl_cons,
    still _ right (List.nodup_cons.1 behind).1 after]

/-- A cluster's reply carries no point and shows no drive: it is delivered to the rounds in SETTING alone (R160). -/
theorem deliver_valves : s.deliver a (.valves l) = allSlots.foldl (fun s k => s.deliverSetting k) s := by
  have nothing : ∀ (s : State) n, s.carried a (.valves l) n = none := fun _ _ => rfl
  have faults : ∀ s : State, allSlots.foldl (fun s k => s.deliverFault a (.valves l) k) s = s := fun s =>
    List.foldl_fixed' (fun k => deliverFault_of_spared (r := .valves l) fun n _ shows => nomatch (shows : false = true)) _
  have fills : ∀ s : State, allSlots.foldl (fun s k => s.deliverFill a (.valves l) k) s = s := fun s =>
    List.foldl_fixed' (fun k => if_neg fun fills => by
      rw [Option.bind_eq_none_iff.2 fun n _ => nothing s n] at fills
      exact Bool.false_ne_true fills.2) _
  have windows : ∀ s : State, allSlots.foldl (fun s k => s.deliverWindows a (.valves l) k) s = s := fun s =>
    List.foldl_fixed' (fun k => by
      unfold State.deliverWindows
      simp only [takeSamples_of_nothing (nothing s)]
      split
      · exact updRound_id s k
      · rfl) _
  have conds : ∀ s : State, allHeaders.foldl (fun s h => s.deliverCond a (.valves l) h) s = s := fun s =>
    List.foldl_fixed' (fun h => by
      rw [State.deliverCond, Option.bind_eq_none_iff.2 fun n _ => nothing s n]) _
  have drains : ∀ s : State, allSlots.foldl (fun s k => s.deliverDrain a (.valves l) k) s = s := fun s =>
    List.foldl_fixed' (fun k => by
      have none : (s.headerLoadOf k).bind (fun x => s.carried a (.valves l) x.flow) = .none :=
        Option.bind_eq_none_iff.2 fun x _ => nothing s x.flow
      rw [State.deliverDrain, none]) _
  rw [deliver_eq, State.deliverBefore, faults, fills, windows, conds, drains]

/-! ### Settled or not -/

theorem shows_iff {x : Feedback} : s.shows n x = true ↔ (Table.entry s.valves n).map (·.feedback) = some x := by
  simp [State.shows, Option.any_eq_true, Option.map_eq_some_iff]

/-- No judged valve fails R88 where every one shows its position. -/
theorem unsettled_eq_none_iff (routed : s.routeOf k = some route) : s.unsettled k = none ↔ s.showsSettled route := by
  rw [State.unsettled, routed]
  simp only [Option.map_eq_none_iff, List.find?_eq_none, Route.judged, List.mem_append, List.mem_map, Bool.not_eq_true',
    Bool.not_eq_false, shows_iff, State.showsSettled]
  constructor
  · exact fun all => ⟨fun i mem => all _ (.inl ⟨i, mem, rfl⟩), fun b mem => all _ (.inr ⟨b, mem, rfl⟩)⟩
  · rintro ⟨setting, boundary⟩ x (⟨i, mem, rfl⟩ | ⟨b, mem, rfl⟩)
    · exact setting i mem
    · exact boundary b mem

theorem feedback_of_frame (frame : sequencerFrame s t) (n : Nat) :
    (Table.entry t.valves n).map (·.feedback) = (Table.entry s.valves n).map (·.feedback) := by
  have kept := congrArg (Option.map ValveEntry.feedback) (valve_untouched_of_frame frame n)
  rw [Option.map_map, Option.map_map] at kept
  exact kept

theorem showsSettled_of_frame (frame : sequencerFrame s t) : t.showsSettled route ↔ s.showsSettled route := by
  simp only [State.showsSettled, feedback_of_frame frame]

/-- The travel timer stops as SETTING is left (R88). -/
def State.arrived (k : Slot) (s : State) : State := s.updRound k fun r => { r with travel := r.travel.stop }

theorem round_arrived : (s.arrived k).round k = { s.round k with
    travel := { (s.round k).travel with mode := .stopped } } := State.round_updRound ..

theorem stepOf_arrived : (s.arrived k).stepOf k = s.stepOf k :=
  stepOf_congr rfl (by rw [round_arrived]) (by rw [round_arrived])

theorem routeOf_arrived : (s.arrived k).routeOf k = s.routeOf k := routeOf_congr rfl (by rw [round_arrived])

theorem requesting_own : Work (· = k) False s ((s.arrived k).requesting k j) :=
  Work.joinQueue (Work.enter (Work.resetStep (Work.upd (P := (· = k)) .rfl' rfl fun _ => by
    exact ⟨rfl, rfl, rfl, rfl, rfl, False.elim⟩) rfl) rfl _) rfl _

/-- A settled round whose first step names a GRANTED station waits behind its queue (R66, R90). -/
theorem deliverSetting_requesting (setting : (s.round k).state = .setting) (routed : s.routeOf k = some route)
    (settled : s.showsSettled route) (unlinked : (s.round k).linked = false) (current : s.stepOf k = some step)
    (choice : step.choice = some j) (granted : (s.station j).granted ≠ none) :
    s.deliverSetting k = (s.arrived k).requesting k j := by
  unfold State.deliverSetting
  rw [if_pos ⟨setting, (unsettled_eq_none_iff routed).2 settled⟩]
  exact cascade_begin_requesting (s := s.arrived k) (by rw [round_arrived]; exact unlinked)
    (stepOf_arrived.trans current) (routeOf_arrived.trans routed) choice granted

/-- A reply to a cluster finds one round in SETTING, and that one unsettled. -/
theorem deliver_valves_unsettled (others : ∀ m, m ≠ k → (s.round m).state ≠ .setting)
    (routed : s.routeOf k = some route) (unsettled : ¬s.showsSettled route) : s.deliver a (.valves l) = s := by
  rw [deliver_valves]
  refine List.foldl_fixed' (fun m => if_neg fun ⟨setting, settled⟩ => ?_) _
  by_cases own : m = k
  · subst own
    exact unsettled ((unsettled_eq_none_iff routed).1 settled)
  · exact others m own setting

/-- A reply to a cluster finds one round in SETTING, and that one settled. -/
theorem deliver_valves_settled (others : ∀ m, m ≠ k → (s.round m).state ≠ .setting)
    (setting : (s.round k).state = .setting) (routed : s.routeOf k = some route)
    (settled : s.showsSettled route) (unlinked : (s.round k).linked = false) (current : s.stepOf k = some step)
    (choice : step.choice = some j) (granted : (s.station j).granted ≠ none) :
    s.deliver a (.valves l) = (s.arrived k).requesting k j := by
  have own := deliverSetting_requesting setting routed settled unlinked current choice granted
  have later : ∀ m, m ≠ k → (s.deliverSetting k).deliverSetting m = s.deliverSetting k := fun m ne =>
    if_neg fun takes => by
      rw [own, (requesting_own.rounds m).1 ne] at takes
      exact others m ne takes.1
  rw [deliver_valves, foldl_single (mem_allSlots k) (by decide) (fun m ne => if_neg fun takes => others m ne takes.1)
    later, own]

/-! ### The lift progress placed (R90) -/

theorem placeLift_active {m : Nat} {b : BoundaryItem} {v : ValveEntry} (routed : s.routeOf k = some route)
    (pulses : step.pulses ≠ 0) (item : route.boundary[m]? = some b) (entry : Table.entry s.valves b.valve = some v)
    (kind : v.kind = .mixproof) (before : ∀ i c w, i < m → route.boundary[i]? = some c →
      Table.entry s.valves c.valve = some w → w.kind = .singleSeat) : s.placeLift k step = .active m 1 .lifted := by
  have found : route.boundary.findIdx? s.mixproofAt = some m := by
    obtain ⟨inside, rfl⟩ := List.getElem?_eq_some_iff.1 item
    refine List.findIdx?_eq_some_iff_getElem.2 ⟨inside, by simp [State.mixproofAt, entry, kind], fun i lt => ?_⟩
    rw [Bool.not_eq_true]
    exact mixproofAt_eq_false fun w full => before i _ w lt (List.getElem?_eq_getElem (by omega)) full
  have next : (s.routeOf k).bind (fun r => s.nextMixproof r.boundary 0) = some m := by
    rw [routed, Option.bind_some, nextMixproof_eq, found]
    rfl
  rw [State.placeLift, if_neg pulses, next]

theorem placeLift_done (routed : s.routeOf k = some route) (none : step.pulses = 0 ∨ ∀ b ∈ route.boundary, ∀ v,
    Table.entry s.valves b.valve = some v → v.kind = .singleSeat) : s.placeLift k step = .done := by
  unfold State.placeLift
  obtain idle | single := none
  · rw [if_pos idle]
  · have absent : route.boundary.findIdx? s.mixproofAt = .none :=
      List.findIdx?_eq_none_iff.2 fun b mem => mixproofAt_eq_false fun v full => single b mem v full
    split
    · rfl
    · rw [routed, Option.bind_some, nextMixproof_eq, absent, Option.map_none]

/-- The lift progress is placed by the route and the kinds of its valves. -/
theorem placeLift_congr (routes : t.routeOf k = s.routeOf k) (kinds : ∀ n, (Table.entry t.valves n).map (·.kind)
    = (Table.entry s.valves n).map (·.kind)) : t.placeLift k step = s.placeLift k step := by
  have mixproof : t.mixproofAt = s.mixproofAt := by
    funext b
    have read : ∀ u : State, u.mixproofAt b = ((Table.entry u.valves b.valve).map (·.kind)).any (· == .mixproof) := by
      intro u
      rw [State.mixproofAt, Option.any_map]
    rw [read, read, kinds]
  simp only [State.placeLift, routes, nextMixproof_eq, mixproof]

/-- A cluster's reply leaves the kinds of the valves. -/
theorem kind_writeValves : (Table.entry (s.writeValves a first l).valves n).map (·.kind)
    = (Table.entry s.valves n).map (·.kind) := by
  induction l generalizing s first with
  | nil => rfl
  | cons x l ih =>
    have one : (Table.entry (s.writeValves a first [x]).valves n).map (·.kind) = (Table.entry s.valves n).map (·.kind) := by
      unfold State.writeValves State.writeValves
      dsimp only
      split
      next m found =>
        rw [State.updValve_valves, Table.entry_adjust]
        split
        · rw [Option.map_map]
          rfl
        · rfl
      next => rfl
    exact (ih (s := s.writeValves a first [x])).trans one

end settings

end Sys2Proof.Machine

/-! ## An instrument head's reply in STEP_FILL (R92, R119, R158, R160) -/

namespace Sys2Proof.Machine

open Sys2Proof

section filling

variable {s t : State} {k : Slot} {a : Octet} {l : List (Nat × Quality × Nat)} {r : Reading} {e : NodeEntry}
  {step : RecipeStep}

/-- The reply completes a round's fill: its fill point's sample is GOOD and reaches the minimum (R92). -/
def State.fills (s : State) (a : Octet) (r : Reading) (k : Slot) : Bool :=
  ((s.fillPoint k).bind (s.carried a r)).any (PointEntry.reaches (s.fillMinimum k))

theorem fills_of_apart (apart : Apart k s t) : t.fills a r k = s.fills a r k := by
  have carried : t.carried a r = s.carried a r := funext fun _ => carried_of_frame apart.frame
  have routeOf : t.routeOf k = s.routeOf k := routeOf_congr (by rw [apart.frame.1]) (by rw [apart.record])
  have segments : t.segments = s.segments := by rw [apart.frame.1]
  simp only [State.fills, State.fillPoint, State.fillMinimum, routeOf, segments, carried, headerLoadOf_of_apart apart]

/-- A sample completes the fill where the reply leaves the fill point at or above the minimum (R92). -/
theorem fills_iff (carries : ∀ n p, t.carriesPoint e l n p ↔ s.carried e.address (.points l) n = some p) :
    s.fills e.address (.points l) k = true ↔ s.completesFill t e l k := by
  refine ⟨completesFill_of_reaches fun n p => (carries n p).2, ?_⟩
  rintro ⟨route, n, p, v, routed, point, carried, good, value, above⟩
  rw [State.fills, point, Option.bind_some, (carries n p).1 carried, State.fillMinimum, routed]
  simp [PointEntry.reaches, good, value, above]

/-! ### The deliveries around the fill -/

/-- Orders 1 and 2 of R160 leave a round in STEP_FILL alone. -/
theorem apart_before_fill (away : s.away k) (filling : (s.round k).state = .stepFill) :
    Apart k s (allSlots.foldl (fun s k => s.deliverFault a (.points l) k)
      (allSlots.foldl (fun s k => s.deliverSetting k) s)) := by
  have begun := apart_settings away (by rw [filling]; decide)
  exact begun.trans (apart_deliverFaults_points (begun.away away))

/-- Orders 4 and 5 of R160 leave a round that stays in STEP_FILL alone. -/
theorem apart_after_fill (away : s.away k) (filling : (s.round k).state = .stepFill) :
    Apart k s (allSlots.foldl (fun s k => s.deliverDrain a r k) (allHeaders.foldl (fun s h => s.deliverCond a r h)
      (allSlots.foldl (fun s k => s.deliverWindows a r k) s))) := by
  have windows := Apart.foldlSelf (f := fun s k => s.deliverWindows a r k) away (fun t j apart here =>
    apart_deliverWindows here fun _ => .inl (by rw [apart.record, filling]; decide)) allSlots
  have judged := windows.trans (.foldlSelf (f := fun s h => s.deliverCond a r h) (windows.away away)
    (fun _ h _ _ => apart_deliverCond h) allHeaders)
  exact judged.trans (.foldlSelf (judged.away away) (fun t j apart here =>
    apart_deliverDrain here fun _ => .inl (by rw [(judged.trans apart).record, filling]; decide)) allSlots)

/-- A reply that completes no fill of a round leaves it alone. -/
theorem apart_deliver_unfilled (away : s.away k) (filling : (s.round k).state = .stepFill)
    (short : s.fills a (.points l) k = false) : Apart k s (s.deliver a (.points l)) := by
  have before := apart_before_fill (a := a) (l := l) away filling
  have filled := before.trans (.foldlSelf (f := fun s k => s.deliverFill a (.points l) k) (before.away away)
    (fun t j apart here => by
      by_cases own : j = k
      · subst own
        have still : t.deliverFill a (.points l) j = t := if_neg fun takes => by
          have fills : t.fills a (.points l) j = true := takes.2
          rw [fills_of_apart (before.trans apart), short] at fills
          exact Bool.false_ne_true fills
        rw [still]
        exact .refl j t
      · exact apart_deliverFill here fun same => absurd same own) allSlots)
  have after := apart_after_fill (a := a) (r := .points l) (filled.away away) (by rw [filled.record]; exact filling)
  exact filled.trans after

/-- Order 4 of R160 for a round in STEP_TIMING, and what follows it. -/
theorem round_deliver_windows (away : s.away k) (timing : (s.round k).state = .stepTiming) :
    (allSlots.foldl (fun s k => s.deliverDrain a r k) (allHeaders.foldl (fun s h => s.deliverCond a r h)
      (allSlots.foldl (fun s k => s.deliverWindows a r k) s))).round k
      = { s.round k with criteria := s.takeSamples a r (s.criteriaOf k) (s.round k).criteria } := by
  obtain ⟨t, reached, rest⟩ := foldl_allSlots_split (f := fun s k => s.deliverWindows a r k) away
    fun t j here ne => apart_deliverWindows here fun own => absurd own ne
  have own : t.deliverWindows a r k = t.updRound k fun x =>
      { x with criteria := t.takeSamples a r (t.criteriaOf k) x.criteria } :=
    if_pos (by rw [reached.record]; exact timing)
  have record : (t.deliverWindows a r k).round k
      = { s.round k with criteria := s.takeSamples a r (s.criteriaOf k) (s.round k).criteria } := by
    rw [own, State.round_updRound, reached.record, criteriaOf_of_apart reached, takeSamples_of_frame reached.frame]
  have away' : (t.deliverWindows a r k).away k := by
    rw [own]
    exact reached.away away
  have sampled := rest away'
  have after := apart_after_windows (a := a) (r := r) (sampled.away away') (by
    rw [sampled.record, record]
    exact timing)
  exact (sampled.trans after).record.trans record

/-- The record with which STEP_TIMING is entered is read from the round's own record and step (R95). -/
theorem round_enterTiming_congr (record : t.round k = s.round k) (stepOf : t.stepOf k = s.stepOf k) :
    (t.enterTiming k).1.round k = (s.enterTiming k).1.round k := by
  have timing : (t.timing k).round k = (s.timing k).round k := by rw [round_timing, round_timing, record]
  cases lift : (s.round k).lift with
  | done => rw [enterTiming_of_done (by rw [record, lift]), enterTiming_of_done lift, timing]
  | active n p ph =>
    have stepOf' : (t.timing k).stepOf k = (s.timing k).stepOf k :=
      (stepOf_of_quiet (timing_work (P := fun _ => True) trivial)).trans
        (stepOf.trans (stepOf_of_quiet (timing_work (P := fun _ => True) trivial)).symm)
    rw [enterTiming_of_active (by rw [record, lift]), enterTiming_of_active lift, round_startLifted, round_startLifted,
      timing, State.liftLength, State.liftLength, stepOf']

/-- A completing sample brings STEP_TIMING, and is the first of each window that it feeds (R92, R119). -/
theorem round_deliver_filled (away : s.away k) (filling : (s.round k).state = .stepFill)
    (fills : s.fills a (.points l) k = true)
    (early : ¬(s.holdTime k ≤ (s.round k).holdAcc ∧ (s.round k).lift = .done)) :
    (s.deliver a (.points l)).round k = { (s.enterTiming k).1.round k with
      criteria := s.takeSamples a (.points l) (s.criteriaOf k)
        ((s.round k).criteria.map fun c => { c with window := [] }) } := by
  have before := apart_before_fill (a := a) (l := l) away filling
  obtain ⟨t, apart, rest⟩ := foldl_allSlots_split (f := fun s k => s.deliverFill a (.points l) k) (before.away away)
    fun t j here ne => apart_deliverFill here fun own => absurd own ne
  have reached := before.trans apart
  have stepOf : t.stepOf k = s.stepOf k :=
    stepOf_congr (by rw [reached.frame.1]) (by rw [reached.record]) (by rw [reached.record])
  have fills' : t.fills a (.points l) k = true := by rw [fills_of_apart reached, fills]
  have takes : t.deliverFill a (.points l) k = t.cascade [.timing k] :=
    if_pos ⟨by rw [reached.record]; exact filling, fills'⟩
  have enters : t.deliverFill a (.points l) k = (t.enterTiming k).1 := by
    rw [takes, cascade_timing_of_incomplete (by rw [State.holdTime, stepOf, reached.record]; exact early)]
  have work : Work (· = k) True t (t.deliverFill a (.points l) k) := by
    rw [enters]
    exact (Work.enterTiming (P := (· = k)) .rfl' rfl).1
  have record : (t.deliverFill a (.points l) k).round k = (s.enterTiming k).1.round k := by
    rw [enters, round_enterTiming_congr reached.record stepOf]
  have away' : (t.deliverFill a (.points l) k).away k := fun st mem =>
    reached.away away st (work.quiet.2 st ▸ mem)
  have filled := rest away'
  obtain ⟨w, whole⟩ : ∃ w, w = allSlots.foldl (fun s k => s.deliverFill a (.points l) k)
      (allSlots.foldl (fun s k => s.deliverFault a (.points l) k)
        (allSlots.foldl (fun s k => s.deliverSetting k) s)) := ⟨_, rfl⟩
  rw [← whole] at filled
  obtain ⟨state, -⟩ := enterTiming_record (s := s) (k := k)
  have recordW : w.round k = (s.enterTiming k).1.round k := filled.record.trans record
  have frame : sequencerFrame s w := sequencerFrame_trans reached.frame (sequencerFrame_trans work.frame filled.frame)
  have criteriaOf : w.criteriaOf k = s.criteriaOf k := by
    have same : w.stepOf k = s.stepOf k := by
      refine stepOf_congr (by rw [frame.1]) ?_ ?_
      · rw [recordW, round_enterTiming, round_timing]
      · rw [recordW, round_enterTiming, round_timing]
    rw [State.criteriaOf, same, State.criteriaOf]
  have sampled := round_deliver_windows (a := a) (r := .points l) (filled.away away') (by rw [recordW]; exact state)
  have cleared : ((s.enterTiming k).1.round k).criteria = (s.round k).criteria.map fun c => { c with window := [] } := by
    rw [round_enterTiming, round_timing]
  rw [criteriaOf, takeSamples_of_frame frame, recordW, cleared] at sampled
  rw [deliver_eq, State.deliverBefore, ← whole]
  exact sampled

end filling

end Sys2Proof.Machine

/-! ## A node that is heard again (R163) -/

namespace Sys2Proof.Machine

open Sys2Proof

section heard

variable {s t : State} {k : Slot} {i : Nat} {a : Octet} {e : NodeEntry} {c : HoldCauses} {r : Round}

/-- The NODE_BACK of a node that had replied before (R163). -/
def nodeBackEvent (i : Nat) (a : Octet) (time : PartTime) : Event :=
  { bareEvent .nodeBack time with subject := some (.node i), value := some (.number a.toNat) }

/-- The node table after a reply (R158, R163). -/
def State.heardNodes (i : Nat) (s : State) : Table NodeEntry :=
  Table.adjust i (fun e => { e with
    lastReply := some s.partTime, silent := false, silence := Timer.start s.config.nodeSilence.toNat }) s.nodes

/-- The node's entry written and NODE_BACK offered, unless this is the node's first reply. -/
def State.noted (i : Nat) (e : NodeEntry) (s : State) : State :=
  { if e.lastReply = none then s else s.offer (nodeBackEvent i e.address s.partTime) with
    rxF := [], nodes := s.heardNodes i }

/-- An event is offered alike whatever port F holds and whatever the node table says. -/
theorem offer_apart (l : List Octet) (nodes : Table NodeEntry) (x : Event) :
    ({ s with rxF := l, nodes := nodes } : State).offer x = { s.offer x with rxF := l, nodes := nodes } := by
  obtain ⟨events, overflow⟩ := State.offer_congr (s := s) (t := { s with rxF := l, nodes := nodes }) x rfl rfl rfl
  conv_rhs => rw [State.offer_eq]
  rw [State.offer_eq, events, overflow]

/-- A silent node's reply takes its NODE_SILENT from every round (R163). -/
theorem hearNode_of_silent (silent : e.silent = true) : State.hearNode i e { s with rxF := [] }
    = allSlots.foldl (fun s k =>
      s.loseCause k (fun c => c.nodes.contains e.address) (HoldCauses.removeNode e.address)) (s.noted i e) := by
  have noted : (if e.lastReply.isSome then
      ({ s with rxF := [], nodes := s.heardNodes i } : State).offer (nodeBackEvent i e.address s.partTime)
      else { s with rxF := [], nodes := s.heardNodes i }) = s.noted i e := by
    unfold State.noted
    cases e.lastReply with
    | none => rfl
    | some time => exact offer_apart ..
  rw [← noted]
  exact if_pos silent

theorem node_unheld (c : HoldCauses) (absent : c.nodes.contains a = false) : HoldCauses.removeNode a c = c := by
  have kept : c.nodes.filter (· != a) = c.nodes := List.filter_eq_self.2 fun x mem => by
    have other : x ≠ a := fun same => by simp [same ▸ mem] at absent
    simpa using other
  rw [HoldCauses.removeNode, kept]

/-- A round that NODE_SILENT for one node alone keeps in HOLDING. -/
theorem heldFor_node_iff : r.heldFor (fun c => c.nodes.contains a) (HoldCauses.removeNode a)
    ↔ r.state = .holding ∧ r.causes.link = false ∧ a ∈ r.causes.nodes ∧ ∀ x ∈ r.causes.nodes, x = a := by
  simp only [Round.heldFor, HoldCauses.removeNode, HoldCauses.mk.injEq, List.contains_iff_mem, List.filter_eq_nil_iff,
    bne_iff_ne, ne_eq, Decidable.not_not]
  tauto

theorem noted_eq : s.noted i e = { s with
    rxF := [], nodes := s.heardNodes i, events := (s.noted i e).events, overflow := (s.noted i e).overflow } := by
  unfold State.noted
  split
  · rfl
  · conv_lhs => rw [State.offer_eq]

/-- A silent node heard again, where no round is held for it alone (R163). -/
theorem heardAgain_spared (silent : e.silent = true) (spared : ∀ k, ¬((s.round k).state = .holding
      ∧ (s.round k).causes.link = false ∧ e.address ∈ (s.round k).causes.nodes
      ∧ ∀ x ∈ (s.round k).causes.nodes, x = e.address)) :
    let u := State.hearNode i e { s with rxF := [] }
    u = { s.noted i e with rounds := u.rounds }
    ∧ ∀ k, u.round k = (s.round k).relieved (HoldCauses.removeNode e.address) := by
  have record : (s.noted i e).round = s.round := by rw [noted_eq]; rfl
  obtain ⟨eq, records, -⟩ := loseCauses_spared (fun c => node_unheld (a := e.address) c) allSlots (s.noted i e)
    (by decide) fun k _ held => spared k (heldFor_node_iff.1 (record ▸ held))
  dsimp only
  rw [hearNode_of_silent silent]
  refine ⟨eq, fun k => ?_⟩
  rw [← record]
  exact records k (mem_allSlots k)

/-- A silent node heard again, where one round is held for it alone and completes no step on its return (R101, R163). -/
theorem heardAgain_single (silent : e.silent = true) (held : (s.round k).state = .holding
      ∧ (s.round k).causes.link = false ∧ e.address ∈ (s.round k).causes.nodes
      ∧ ∀ x ∈ (s.round k).causes.nodes, x = e.address)
    (only : ∀ j, (s.round j).state = .holding ∧ (s.round j).causes.link = false
      ∧ e.address ∈ (s.round j).causes.nodes ∧ (∀ x ∈ (s.round j).causes.nodes, x = e.address) → j = k)
    (early : ¬s.completesOnReturn k) :
    let u := State.hearNode i e { s with rxF := [] }
    sequencerFrame (s.noted i e) u
    ∧ (∀ j, j ≠ k → u.round j = (s.round j).relieved (HoldCauses.removeNode e.address)) ∧ s.returned k u := by
  have record : (s.noted i e).round = s.round := by rw [noted_eq]; rfl
  have stepOf : (s.noted i e).stepOf k = s.stepOf k := stepOf_congr (by rw [noted_eq]) (by rw [record]) (by rw [record])
  have routeOf : (s.noted i e).routeOf k = s.routeOf k := routeOf_congr (by rw [noted_eq]) (by rw [record])
  obtain ⟨others, table⟩ := loseCauses_single (s := s.noted i e) (k := k) (fun c => node_unheld (a := e.address) c)
    (heldFor_node_iff.2 (record ▸ held)) (fun j there => only j (heldFor_node_iff.1 (record ▸ there))) (by
      rw [State.completesOnReturn, State.holdTime, stepOf, record]
      exact early)
  have frame := (loseCauses_work (s.noted i e) (fun c => c.nodes.contains e.address)
    (HoldCauses.removeNode e.address)).frame
  dsimp only
  rw [hearNode_of_silent silent]
  refine ⟨frame, fun j ne => ?_, ?_⟩
  · rw [← record]
    exact others j ne
  · refine State.returned_congr (c := (s.round k).causes) (by rw [record]) (fun st => ?_) (fun h => ?_) ?_ ?_ stepOf routeOf
      table
    · exact (congrArg (fun x : State => (x.station st).load) noted_eq :)
    · exact (congrArg (fun x : State => (x.header h).load) noted_eq :)
    · rw [noted_eq]
    · rw [noted_eq]

end heard

/-! ### What a reply may change, and what a loud node's reply finds -/

section replied

variable {s w b d : State} {nodes : Table NodeEntry} {i : Nat} {e : NodeEntry} {r : Reading} {k : Slot}

/-- Heard, written and delivered: the parts of the state that a tapped reply may change (R158). -/
theorem frame_of_reply (heard : sequencerFrame { s with nodes := nodes } w)
    (written : b = { w with valves := b.valves, drives := b.drives, points := b.points }) (delivered : sequencerFrame b d) :
    d = { s with
      nodes := nodes, valves := d.valves, drives := d.drives, points := b.points, stations := d.stations
      headers := d.headers, rounds := d.rounds, events := d.events, overflow := d.overflow } := by
  obtain ⟨heard, -⟩ := heard
  obtain ⟨delivered, -⟩ := delivered
  refine delivered.trans ?_
  rw [written, heard]

theorem replied_eq : (s.imaged i e r).deliver e.address r = { s with
    nodes := s.heardNodes i
    valves := ((s.imaged i e r).deliver e.address r).valves
    drives := ((s.imaged i e r).deliver e.address r).drives
    points := (s.imaged i e r).points
    stations := ((s.imaged i e r).deliver e.address r).stations
    headers := ((s.imaged i e r).deliver e.address r).headers
    rounds := ((s.imaged i e r).deliver e.address r).rounds
    events := ((s.imaged i e r).deliver e.address r).events
    overflow := ((s.imaged i e r).deliver e.address r).overflow } :=
  frame_of_reply (hearNode_frame s i e) (writeReading_frame (s.hearNode i e) e.address r) deliver_imaged_frame

theorem round_imaged (loud : e.silent = false) : (s.imaged i e r).round = s.round := by
  rw [imaged_eq loud]
  rfl

theorem stepOf_imaged (loud : e.silent = false) : (s.imaged i e r).stepOf = s.stepOf := by
  rw [imaged_eq loud]
  rfl

theorem routeOf_imaged (loud : e.silent = false) : (s.imaged i e r).routeOf = s.routeOf := by
  rw [imaged_eq loud]
  rfl

theorem station_imaged (loud : e.silent = false) : (s.imaged i e r).station = s.station := by
  rw [imaged_eq loud]
  rfl

theorem kind_imaged_valves {l : List Feedback} {n : Nat} (loud : e.silent = false) :
    (Table.entry (s.imaged i e (.valves l)).valves n).map (·.kind) = (Table.entry s.valves n).map (·.kind) := by
  have heard : (s.hearNode i e).valves = s.valves := by rw [hearNode_of_loud loud]
  rw [← heard]
  exact kind_writeValves

end replied

end Sys2Proof.Machine

/-! ## A tapped reply (R146, R157 to R160, R163) -/

namespace Sys2Proof.Machine

open Sys2Proof

section setting

variable {s : State} {i : Nat} {e : NodeEntry} {k : Slot} {l : List Feedback} {route : Route} {step : RecipeStep}
  {j : StationId}

/-- The state a cluster's reply leaves where it settles the one round in SETTING (R88, R90). -/
theorem deliver_imaged_settled (loud : e.silent = false) (setting : (s.round k).state = .setting)
    (others : ∀ m, m ≠ k → (s.round m).state ≠ .setting) (unlinked : (s.round k).linked = false)
    (routed : s.routeOf k = some route) (current : s.stepOf k = some step)
    (settled : ((s.imaged i e (.valves l)).deliver e.address (.valves l)).showsSettled route)
    (choice : step.choice = some j) (granted : (s.station j).granted ≠ none) :
    (s.imaged i e (.valves l)).deliver e.address (.valves l) = ((s.imaged i e (.valves l)).arrived k).requesting k j := by
  have round := round_imaged (s := s) (i := i) (r := .valves l) loud
  refine deliver_valves_settled (route := route) (step := step) ?_ ?_ ?_ ?_ ?_ ?_ choice ?_
  · rwa [round]
  · rwa [round]
  · rwa [routeOf_imaged loud]
  · exact (showsSettled_of_frame deliver_imaged_frame).1 settled
  · rwa [round]
  · rwa [stepOf_imaged loud]
  · rwa [station_imaged loud]

/-- A cluster's reply changes no round where it does not settle the one round in SETTING. -/
theorem rounds_imaged_unsettled (loud : e.silent = false) (others : ∀ m, m ≠ k → (s.round m).state ≠ .setting)
    (routed : s.routeOf k = some route)
    (unsettled : ¬((s.imaged i e (.valves l)).deliver e.address (.valves l)).showsSettled route) :
    ((s.imaged i e (.valves l)).deliver e.address (.valves l)).rounds = s.rounds := by
  rw [showsSettled_of_frame deliver_imaged_frame] at unsettled
  rw [deliver_valves_unsettled (k := k) (route := route) ?_ ?_ unsettled, imaged_eq loud]
  · rwa [round_imaged loud]
  · rwa [routeOf_imaged loud]

theorem placeLift_arrived (loud : e.silent = false) :
    ((s.imaged i e (.valves l)).arrived k).placeLift k step = s.placeLift k step :=
  placeLift_congr (routeOf_arrived.trans (congrFun (routeOf_imaged loud) k)) fun _ => kind_imaged_valves loud

/-- The record of a settled round that waits for its first station (R66, R71, R90). -/
theorem round_settled (loud : e.silent = false) (current : s.stepOf k = some step) :
    (((s.imaged i e (.valves l)).arrived k).requesting k j).round k = { s.round k with
      state := .waitStation
      travel := { (s.round k).travel with mode := .stopped }
      holdAcc := 0, fill := ⟨.stopped, 0, 0⟩, wall := ⟨.stopped, 0, 0⟩, liftTimer := ⟨.stopped, 0, 0⟩
      supplyBegun := false, criteria := [], lift := s.placeLift k step
      effective := (s.round k).given, requestTime := some s.partTime
      ageing := match (s.round k).given with
        | .a => ⟨.stopped, 0, 0⟩
        | .b => ⟨.running, 0, 1000 * s.config.ageB.toNat⟩
        | .c => ⟨.running, 0, 1000 * s.config.ageC.toNat⟩ } := by
  have current' : ((s.imaged i e (.valves l)).arrived k).stepOf k = some step :=
    stepOf_arrived.trans ((congrFun (stepOf_imaged loud) k).trans current)
  have config : ((s.imaged i e (.valves l)).arrived k).config = s.config := by
    rw [imaged_eq loud]
    rfl
  have time : ((s.imaged i e (.valves l)).arrived k).partTime = s.partTime := by
    rw [imaged_eq loud]
    rfl
  have ageing : ∀ cls, ((s.imaged i e (.valves l)).arrived k).ageingFor cls = match cls with
      | .a => ⟨.stopped, 0, 0⟩
      | .b => ⟨.running, 0, 1000 * s.config.ageB.toNat⟩
      | .c => ⟨.running, 0, 1000 * s.config.ageC.toNat⟩ := by
    intro cls
    cases cls <;> simp only [State.ageingFor, State.ageLimit, config, seconds, Timer.start, Nat.mul_comm, Timer.off]
  rw [round_requesting current', placeLift_arrived loud, time, ageing, round_arrived, round_imaged loud]
  rfl

theorem events_settled (loud : e.silent = false) : (((s.imaged i e (.valves l)).arrived k).requesting k j).events
    = (s.offer (roundStateEvent k .waitStation none s.partTime)).events := by
  have same : ((s.imaged i e (.valves l)).arrived k).eventQueue = s.eventQueue := by
    rw [imaged_eq loud]
    rfl
  refine events_of_eventQueue (eventQueue_requesting.trans ?_)
  rw [partTime_of_eventQueue same]
  exact eventQueue_offer_congr _ same

end setting

section filling

variable {s t : State} {i : Nat} {e : NodeEntry} {k : Slot} {l : List (Nat × Quality × Nat)} {step : RecipeStep}

theorem carriesPoint_imaged (n : Nat) (p : PointEntry) :
    ((s.imaged i e (.points l)).deliver e.address (.points l)).carriesPoint e l n p
      ↔ (s.imaged i e (.points l)).carried e.address (.points l) n = some p := by
  rw [← carried_of_frame (deliver_imaged_frame (r := .points l)), carried_points]

theorem fills_imaged_iff (loud : e.silent = false) : (s.imaged i e (.points l)).fills e.address (.points l) k = true
    ↔ s.completesFill ((s.imaged i e (.points l)).deliver e.address (.points l)) e l k := by
  have fillPoint : (s.imaged i e (.points l)).fillPoint = s.fillPoint := by
    rw [imaged_eq loud]
    rfl
  rw [fills_iff carriesPoint_imaged, State.completesFill, State.completesFill, routeOf_imaged loud, fillPoint]

theorem away_imaged (loud : e.silent = false) (away : ∀ st, k ∉ (s.station st).queue) :
    (s.imaged i e (.points l)).away k := by
  rw [State.away, station_imaged loud]
  exact away

/-- An instrument head's reply that completes no fill of a round leaves the round (R92). -/
theorem round_imaged_unfilled (loud : e.silent = false) (filling : (s.round k).state = .stepFill)
    (away : ∀ st, k ∉ (s.station st).queue)
    (short : ¬s.completesFill ((s.imaged i e (.points l)).deliver e.address (.points l)) e l k) :
    ((s.imaged i e (.points l)).deliver e.address (.points l)).round k = s.round k := by
  have short' : (s.imaged i e (.points l)).fills e.address (.points l) k = false :=
    Bool.eq_false_iff.2 fun fills => short ((fills_imaged_iff loud).1 fills)
  have round := round_imaged (s := s) (i := i) (r := .points l) loud
  rw [(apart_deliver_unfilled (away_imaged loud away) (by rwa [round]) short').record, round]

/-- The record that a completing sample leaves (R92, R95, R98, R119). -/
theorem round_imaged_filled (loud : e.silent = false) (filling : (s.round k).state = .stepFill)
    (away : ∀ st, k ∉ (s.station st).queue)
    (fills : s.completesFill ((s.imaged i e (.points l)).deliver e.address (.points l)) e l k)
    (current : s.stepOf k = some step)
    (early : ¬(1000 * step.holdTime ≤ (s.round k).holdAcc ∧ (s.round k).lift = .done)) :
    ((s.imaged i e (.points l)).deliver e.address (.points l)).round k = { (s.enterTiming k).1.round k with
      criteria := (s.imaged i e (.points l)).takeSamples e.address (.points l) step.criteria
        ((s.round k).criteria.map fun c => { c with window := [] }) } := by
  have round := round_imaged (s := s) (i := i) (r := .points l) loud
  have current' : (s.imaged i e (.points l)).stepOf k = some step := by rwa [stepOf_imaged loud]
  have early' : ¬((s.imaged i e (.points l)).holdTime k ≤ ((s.imaged i e (.points l)).round k).holdAcc
      ∧ ((s.imaged i e (.points l)).round k).lift = .done) := by
    have holdTime : (s.imaged i e (.points l)).holdTime k = 1000 * step.holdTime := by
      rw [State.holdTime, current']
      exact Nat.mul_comm ..
    rw [holdTime, round]
    exact early
  rw [round_deliver_filled (away_imaged loud away) (by rwa [round]) ((fills_imaged_iff loud).2 fills) early',
    round_enterTiming_congr (congrFun round k) (congrFun (stepOf_imaged loud) k), criteriaOf_of_stepOf current', round]

end filling

/-- Settles O16: the frame, the node, the images by kind, a silent node, SETTING and STEP_FILL. -/
theorem replyTapped : Obligations.ReplyTapped := by
  intro s octets f i e r canonical read taps
  obtain ⟨entry, reading⟩ := tapped_eq_some taps
  have canonical' : State.tablesCanonical { s with rxF := [] } := canonical
  have executes := exec_frameArrivalF_tapped read taps
  have replied := replied_eq (s := { s with rxF := [] }) (i := i) (e := e) (r := r)
  have delivered := deliver_imaged_frame (s := { s with rxF := [] }) (i := i) (e := e) (r := r)
  obtain ⟨d, deliveries⟩ : ∃ d, d = State.deliver e.address r (State.imaged i e r { s with rxF := [] }) := ⟨_, rfl⟩
  rw [← deliveries] at executes replied delivered
  refine ⟨_, executes, ?frame, ?node, fun l slot fb n kind listed at' => ?valve,
    fun l channel st value n x kind listed at' full => ?drive,
    fun l channel q value n p kind listed at' full => ?point, fun silent => ?silent,
    fun l k route step kind loud setting _ others unlinked routed current => ?setting,
    fun l k kind loud filling away => ?filling⟩
  case frame =>
    have sent : d.sendU (.relayed (s.rxF ++ octets)) = { d with txU := d.txU ++ [.relayed (s.rxF ++ octets)] } := rfl
    have port : d.txU = s.txU := by rw [replied]
    rw [sent, port]
    rw [replied]
  case node =>
    have nodes : d.nodes = State.heardNodes i { s with rxF := [] } := by rw [replied]
    show Table.entry d.nodes i = _
    rw [nodes, State.heardNodes, Table.entry_adjust_self]
    exact congrArg (Option.map _) entry
  case valve =>
    subst kind
    exact (feedback_of_frame delivered n).trans (feedback_imaged canonical' at' listed)
  case drive =>
    subst kind
    have kept := congrArg (Option.map fun x : DriveEntry => (x.status, x.value)) (drive_untouched_of_frame delivered n)
    rw [Option.map_map, Option.map_map] at kept
    exact kept.trans (image_imaged_drives canonical' at' full listed)
  case point =>
    subst kind
    have points : d.points = (State.imaged i e (.points l) { s with rxF := [] }).points := by rw [replied]
    show Table.entry d.points n = _
    rw [points, entry_imaged_points canonical' (nodup_of_readReply reading) at' listed]
    exact congrArg (Option.map _) full
  case silent =>
    have nodes : d.nodes = s.heardNodes i := by
      rw [replied]
      rfl
    have noted : s.noted i e = { (if e.lastReply = none then s else s.offer (nodeBackEvent i e.address s.partTime)) with
        rxF := [], nodes := d.nodes } := by
      rw [nodes]
      rfl
    refine ⟨State.hearNode i e { s with rxF := [] }, by rw [deliveries]; rfl, fun spared => ?_,
      fun k held only early => ?_⟩
    · obtain ⟨eq, records⟩ := heardAgain_spared (i := i) silent spared
      rw [noted] at eq
      exact ⟨eq, records⟩
    · obtain ⟨frame, others, table⟩ := heardAgain_single (i := i) silent held only early
      rw [noted] at frame
      exact ⟨frame, others, table⟩
  case setting =>
    subst kind
    have still := rounds_imaged_unsettled (s := { s with rxF := [] }) (i := i) (l := l) (route := route) loud others routed
    rw [← deliveries] at still
    refine ⟨still, fun j settled choice granted => ?_⟩
    have whole := deliver_imaged_settled (s := { s with rxF := [] }) (i := i) (l := l) (route := route) loud setting
      others unlinked routed current (by rw [← deliveries]; exact settled) choice granted
    have record := round_settled (s := { s with rxF := [] }) (i := i) (l := l) (j := j) loud current
    have queued := events_settled (s := { s with rxF := [] }) (i := i) (l := l) (j := j) (k := k) loud
    have beside := fun m ne => ((requesting_own (s := State.imaged i e (.valves l) { s with rxF := [] }) (k := k)
      (j := j)).rounds m).1 ne
    have waits := station_requesting (s := (State.imaged i e (.valves l) { s with rxF := [] }).arrived k) (k := k) (j := j)
    have station := station_imaged (s := { s with rxF := [] }) (i := i) (r := .valves l) loud
    have round := round_imaged (s := { s with rxF := [] }) (i := i) (r := .valves l) loud
    rw [← deliveries] at whole
    rw [← whole] at record queued beside waits
    refine ⟨fun m ne => (beside m ne).trans (congrFun round m), ?_, ?_,
      fun n b v pulses item full kind before => ?_, fun none => ?_, queued.trans ?_⟩
    · refine (congrArg Station.queue waits).trans ?_
      exact congrArg (fun x => (x j).queue ++ [k]) station
    · rw [round_sendU, record]
      rfl
    · rw [round_sendU, record]
      exact placeLift_active (s := { s with rxF := [] }) routed pulses item full kind before
    · rw [round_sendU, record]
      exact placeLift_done (s := { s with rxF := [] }) routed none
    · exact events_of_eventQueue (eventQueue_offer_congr _ rfl)
  case filling =>
    subst kind
    have still := round_imaged_unfilled (s := { s with rxF := [] }) (i := i) (l := l) loud filling away
    rw [← deliveries] at still
    refine ⟨still, fun step fills current early => ?_⟩
    have record := round_imaged_filled (s := { s with rxF := [] }) (i := i) (l := l) loud filling away
      (by rw [← deliveries]; exact fills) current early
    rw [← deliveries] at record
    obtain ⟨state, -, fill, holdAcc, done, active⟩ := enterTiming_record (s := { s with rxF := [] }) (k := k)
    have entered := round_enterTiming (s := { s with rxF := [] }) (k := k)
    rw [round_timing] at entered
    have carries := carriesPoint_imaged (s := { s with rxF := [] }) (i := i) (e := e) (l := l)
    rw [← deliveries] at carries
    rw [round_sendU, record]
    refine ⟨state, ?_, fill, ?_, holdAcc, done, fun n p ph lift => ⟨active n p ph lift,
      liftTimer_enterTiming (s := { s with rxF := [] }) lift current⟩, fun n c x listed criterion => ?_⟩
    · rw [entered]
      rfl
    · rw [entered]
      rfl
    · have cleared : ((s.round k).criteria.map fun c => { c with window := [] })[n]? = some { x with window := [] } := by
        rw [List.getElem?_map, criterion, Option.map_some]
      have sampled := takeSamples_getElem? (s := State.imaged i e (.points l) { s with rxF := [] }) (a := e.address)
        (r := .points l) listed cleared
      refine ⟨fun m p resolved carried => sampled.trans ?_, fun nothing => sampled.trans ?_⟩
      · rw [takeSample_of_carried (x := { x with window := [] }) resolved ((carries m p).1 carried), appendResult,
          List.drop_nil, List.nil_append]
      · rw [takeSample_of_not_carried (x := { x with window := [] }) fun m resolved =>
          Option.eq_none_iff_forall_not_mem.2 fun p found => nothing m p resolved ((carries m p).2 found)]

end Sys2Proof.Machine

/-! ## The proof scan: the search (R169) -/

namespace Sys2Proof.Machine

open Sys2Proof

/-! ### The element of least rank in a list whose ranks rise -/

section rising

variable {α : Type} {rank : α → Nat} {p : α → Bool} {l : List α} {x y : α}

/-- The element of least rank among those that satisfy a condition cuts the list: before it none satisfies it. -/
theorem exists_cut_of_least (rises : l.Pairwise fun a b => rank a < rank b) (mem : x ∈ l)
    (least : ∀ y ∈ l, p y = true → rank x ≤ rank y) : ∃ before after, l = before ++ x :: after
      ∧ (∀ y ∈ before, p y = false ∧ rank y < rank x) ∧ ∀ y ∈ after, rank x < rank y := by
  obtain ⟨before, after, rfl⟩ := List.append_of_mem mem
  obtain ⟨-, tail, across⟩ := List.pairwise_append.1 rises
  refine ⟨before, after, rfl, fun y early => ?_, (List.pairwise_cons.1 tail).1⟩
  have lower : rank y < rank x := across y early x List.mem_cons_self
  refine ⟨Bool.eq_false_iff.2 fun holds => ?_, lower⟩
  exact absurd (least y (List.mem_append_left _ early) holds) (Nat.not_le.2 lower)

theorem find?_of_least (rises : l.Pairwise fun a b => rank a < rank b) (mem : x ∈ l) (holds : p x = true)
    (least : ∀ y ∈ l, p y = true → rank x ≤ rank y) : l.find? p = some x := by
  obtain ⟨before, after, cut, passed, -⟩ := exists_cut_of_least rises mem least
  exact List.find?_eq_some_iff_append.2 ⟨holds, before, after, cut, fun y early => by simp [(passed y early).1]⟩

/-- What stands before the first that satisfies the condition is what ranks lower. -/
theorem mem_takeWhile_of_least (rises : l.Pairwise fun a b => rank a < rank b) (mem : x ∈ l) (holds : p x = true)
    (least : ∀ y ∈ l, p y = true → rank x ≤ rank y) :
    y ∈ l.takeWhile (fun y => !p y) ↔ y ∈ l ∧ rank y < rank x := by
  obtain ⟨before, after, rfl, passed, behind⟩ := exists_cut_of_least rises mem least
  rw [List.takeWhile_append_of_pos fun y early => by simp [(passed y early).1],
    List.takeWhile_cons_of_neg (by simp [holds]), List.append_nil, List.mem_append, List.mem_cons]
  constructor
  · exact fun early => ⟨.inl early, (passed y early).2⟩
  · rintro ⟨early | rfl | late, lower⟩
    · exact early
    · exact absurd lower (Nat.lt_irrefl _)
    · exact absurd (behind y late) (Nat.lt_asymm lower)

end rising

/-! ### The order of the search -/

section order

variable {s : State} {start n : Nat}

/-- The index at which the search starts: behind the pointer, or 0 when there is none. -/
def State.scanStart (s : State) : Nat :=
  match s.scanPointer with
  | some n => n + 1
  | none => 0

/-- How many indexes a search looks at before it comes to one, wrapping after 511. -/
def scanRank (start n : Nat) : Nat := (n + 512 - start) % 512

theorem scanRank_of_le (behind : start ≤ n) (range : n < 512) : scanRank start n = n - start := by
  unfold scanRank
  omega

theorem scanRank_of_lt (before : n < start) : scanRank start n = n + 512 - start := by
  unfold scanRank
  omega

theorem scanStart_le (pointer : ∀ n, s.scanPointer = some n → n < 512) : s.scanStart ≤ 512 := by
  unfold State.scanStart
  split
  next n named => exact pointer n named
  next => exact Nat.zero_le _

theorem scanOrder_eq : s.scanOrder
    = (s.valves.filter fun x => s.scanStart ≤ x.1) ++ s.valves.filter fun x => x.1 < s.scanStart := rfl

theorem mem_scanOrder {x : Nat × ValveEntry} : x ∈ s.scanOrder ↔ x ∈ s.valves := by
  rw [scanOrder_eq, List.mem_append, List.mem_filter, List.mem_filter, ← and_or_left, decide_eq_true_eq,
    decide_eq_true_eq]
  exact and_iff_left (Nat.lt_or_ge _ _).symm

/-- The indexes of a canonical table rise. -/
theorem Table.pairwise_of_wf {α : Type} {t : Table α} (wf : Table.wf t = true) : t.Pairwise fun x y => x.1 < y.1 := by
  induction t with
  | nil => exact .nil
  | cons x t ih =>
    obtain ⟨above, tail⟩ := (Table.wf_cons x.1 x.2 t).1 wf
    exact .cons above (ih tail)

/-- The search looks at the valves in rising rank. -/
theorem scanOrder_rises (fits : tableFits 512 s.valves) (range : s.scanStart ≤ 512) :
    s.scanOrder.Pairwise fun x y => scanRank s.scanStart x.1 < scanRank s.scanStart y.1 := by
  have rising := Table.pairwise_of_wf fits.1
  have part : ∀ p : Nat × ValveEntry → Bool, (∀ x ∈ s.valves, ∀ y ∈ s.valves, p x = true → p y = true →
      x.1 < y.1 → scanRank s.scanStart x.1 < scanRank s.scanStart y.1) →
      (s.valves.filter p).Pairwise fun x y => scanRank s.scanStart x.1 < scanRank s.scanStart y.1 := by
    intro p kept
    refine (rising.filter p).imp_of_mem fun hx hy lt => ?_
    obtain ⟨mx, px⟩ := List.mem_filter.1 hx
    obtain ⟨my, py⟩ := List.mem_filter.1 hy
    exact kept _ mx _ my px py lt
  rw [scanOrder_eq]
  refine List.pairwise_append.2 ⟨part _ fun x mx y my hx hy lt => ?behind, part _ fun x mx y my hx hy lt => ?before,
    fun x mx y my => ?across⟩
  case behind =>
    rw [decide_eq_true_eq] at hx hy
    rw [scanRank_of_le hx (fits.2 x mx), scanRank_of_le hy (fits.2 y my)]
    omega
  case before =>
    rw [decide_eq_true_eq] at hx hy
    rw [scanRank_of_lt hx, scanRank_of_lt hy]
    omega
  case across =>
    obtain ⟨mx, hx⟩ := List.mem_filter.1 mx
    obtain ⟨-, hy⟩ := List.mem_filter.1 my
    rw [decide_eq_true_eq] at hx hy
    have := fits.2 x mx
    rw [scanRank_of_le hx this, scanRank_of_lt hy]
    omega

end order

/-! ### Miss counts -/

section misses

variable {s : State} {f g : Nat → ValveEntry → Nat} {l : List Nat}

/-- Every valve's miss count is set anew, by its index and its entry. -/
def State.recount (count : Nat → ValveEntry → Nat) (s : State) : State :=
  { s with valves := Table.each (fun n v => { v with misses := count n v }) s.valves }

theorem recount_congr (same : ∀ x ∈ s.valves, f x.1 x.2 = g x.1 x.2) : s.recount f = s.recount g := by
  refine congrArg (fun valves => { s with valves := valves }) (List.map_congr_left fun x mem => ?_)
  dsimp only
  rw [same x mem]

theorem recount_recount :
    (s.recount f).recount g = s.recount fun n v => g n { v with misses := f n v } := by
  unfold State.recount Table.each
  rw [List.map_map]
  rfl

theorem setMisses_eq_recount (n count : Nat) (s : State) :
    s.setMisses n count = s.recount fun m v => if m = n then count else v.misses := by
  unfold State.setMisses State.updValve State.recount
  rw [Table.adjust_eq_each]
  congr 2
  funext m v
  by_cases here : m = n <;> simp [here]

theorem foldl_setMisses (l : List Nat) (s : State) :
    l.foldl (fun s n => s.setMisses n 0) s = s.recount fun m v => if m ∈ l then 0 else v.misses := by
  induction l generalizing s with
  | nil =>
    unfold State.recount Table.each
    simp
  | cons n l ih =>
    rw [List.foldl_cons, ih, setMisses_eq_recount, recount_recount]
    refine recount_congr fun x _ => ?_
    by_cases here : x.1 = n <;> simp [here]

theorem clearPassed_eq (s : State) :
    s.clearPassed = s.recount fun m v => if m ∈ s.passedOver then 0 else v.misses := foldl_setMisses _ s

end misses

/-! ### What the search finds -/

section search

variable {s : State} {n : Nat} {v : ValveEntry} {waits : Bool}

/-- A valve is the first that qualifies after the pointer (R169). -/
structure State.Finds (s : State) (n : Nat) (v : ValveEntry) : Prop where
  fits : tableFits 512 s.valves
  pointer : ∀ m, s.scanPointer = some m → m < 512
  listed : (n, v) ∈ s.valves
  qualifies : s.qualifies v = true
  least : ∀ x ∈ s.valves, s.qualifies x.2 = true → scanRank s.scanStart n ≤ scanRank s.scanStart x.1

theorem scanChoice_of_finds (finds : s.Finds n v) : s.scanChoice = some (n, v) :=
  find?_of_least (scanOrder_rises finds.fits (scanStart_le finds.pointer)) (mem_scanOrder.2 finds.listed)
    finds.qualifies fun x mem => finds.least x (mem_scanOrder.1 mem)

/-- The search passes over the valves that it comes to before the one it finds. -/
theorem mem_passedOver_of_finds (finds : s.Finds n v) {x : Nat × ValveEntry} (listed : x ∈ s.valves) :
    x.1 ∈ s.passedOver ↔ scanRank s.scanStart x.1 < scanRank s.scanStart n := by
  have passed : ∀ y, y ∈ s.scanOrder.takeWhile (fun x => !s.qualifies x.2)
      ↔ y ∈ s.scanOrder ∧ scanRank s.scanStart y.1 < scanRank s.scanStart n := fun y =>
    mem_takeWhile_of_least (p := fun x => s.qualifies x.2) (x := (n, v))
      (scanOrder_rises finds.fits (scanStart_le finds.pointer)) (mem_scanOrder.2 finds.listed)
      finds.qualifies fun x mem => finds.least x (mem_scanOrder.1 mem)
  rw [State.passedOver, List.mem_map]
  constructor
  · rintro ⟨y, mem, same⟩
    rw [← same]
    exact ((passed y).1 mem).2
  · exact fun lower => ⟨x, (passed x).2 ⟨mem_scanOrder.2 listed, lower⟩, rfl⟩

theorem scanChoice_of_none (none : ∀ x ∈ s.valves, s.qualifies x.2 = false) : s.scanChoice = .none :=
  List.find?_eq_none.2 fun x mem => by simp [none x (mem_scanOrder.1 mem)]

theorem mem_passedOver_of_none (none : ∀ x ∈ s.valves, s.qualifies x.2 = false) {x : Nat × ValveEntry}
    (listed : x ∈ s.valves) : x.1 ∈ s.passedOver := by
  have all : s.scanOrder.takeWhile (fun x => !s.qualifies x.2) = s.scanOrder :=
    List.takeWhile_eq_self_iff.2 fun x mem => by simp [none x (mem_scanOrder.1 mem)]
  rw [State.passedOver, all]
  exact List.mem_map_of_mem (mem_scanOrder.2 listed)

/-- The timer is restarted, and no valve qualifies. -/
def State.searchedInVain (s : State) : State :=
  { s with
    visitTimer := ⟨.running, 0, s.config.visitPeriod.toNat⟩
    valves := s.valves.map fun (x : Nat × ValveEntry) => (x.1, { x.2 with misses := 0 }) }

/-- The timer is restarted and a valve reached: the pointer names it, and the miss counts of those passed over are 0. -/
def State.reached (n : Nat) (s : State) : State :=
  { s with
    visitTimer := ⟨.running, 0, s.config.visitPeriod.toNat⟩
    scanPointer := some n
    valves := Table.each (fun m v =>
      { v with misses := if scanRank s.scanStart m < scanRank s.scanStart n then 0 else v.misses }) s.valves }

/-- A valve is reached, and a miss count written to it. -/
def State.visited (n count : Nat) (s : State) : State :=
  { s with
    visitTimer := ⟨.running, 0, s.config.visitPeriod.toNat⟩
    scanPointer := some n
    valves := s.valves.map fun (x : Nat × ValveEntry) => (x.1, { x.2 with misses :=
      if x.1 = n then count
      else if (scanRank s.scanStart x.1 < scanRank s.scanStart n) then 0 else x.2.misses }) }

theorem setMisses_reached (n count : Nat) (s : State) : (s.reached n).setMisses n count = s.visited n count := by
  rw [setMisses_eq_recount]
  unfold State.recount State.reached State.visited Table.each
  rw [List.map_map]
  rfl

theorem scanWith_of_none (none : ∀ x ∈ s.valves, s.qualifies x.2 = false) :
    s.scanWith waits = s.searchedInVain := by
  set r : State := { s with visitTimer := Timer.start s.config.visitPeriod.toNat } with restarted
  have choice : r.scanChoice = .none := scanChoice_of_none (s := r) none
  have cleared : r.clearPassed = s.searchedInVain := by
    rw [clearPassed_eq, recount_congr (g := fun _ _ => 0)
      fun x mem => if_pos (mem_passedOver_of_none (s := r) none mem)]
    rfl
  rw [← cleared, State.scanWith, ← restarted, choice]

/-- The scan visits the valve that its search finds. -/
theorem scanWith_of_finds (finds : s.Finds n v) : s.scanWith waits = State.visit waits n v (s.reached n) := by
  set r : State := { s with visitTimer := Timer.start s.config.visitPeriod.toNat } with restarted
  have finds' : r.Finds n v := ⟨finds.fits, finds.pointer, finds.listed, finds.qualifies, finds.least⟩
  have cleared : { r.clearPassed with scanPointer := some n } = s.reached n := by
    rw [clearPassed_eq, recount_congr
      (g := fun m v => if scanRank s.scanStart m < scanRank s.scanStart n then 0 else v.misses)
      fun x mem => if_congr (mem_passedOver_of_finds finds' mem) rfl rfl]
    rfl
  rw [← cleared, State.scanWith]
  dsimp only
  rw [← restarted, scanChoice_of_finds finds']

end search

end Sys2Proof.Machine

/-! ## The proof scan: the visit (R169 to R173) -/

namespace Sys2Proof.Machine

open Sys2Proof

/-! ### A visited valve -/

section visit

variable {s : State} {n : Nat} {v : ValveEntry} {waits : Bool} {want : Feedback}

theorem stillMoving_iff : s.stillMoving v = true
    ↔ v.changed = none ∨ ∃ t, v.changed = some t ∧ (s.partTime - t).toNat < s.allowance v := by
  unfold State.stillMoving
  cases v.changed <;> simp

/-- A valve with no expectation, one that still moves, and one that shows its expectation lose their misses. -/
theorem visit_of_cleared (cleared : expected v = none ∨ s.stillMoving v = true ∨ expected v = some v.feedback) :
    State.visit waits n v s = s.setMisses n 0 := by
  unfold State.visit
  cases expects : expected v with
  | none => rfl
  | some want =>
    refine if_pos ?_
    obtain absent | moving | shown := cleared
    · simp [absent] at expects
    · simp [moving]
    · simp [Option.some.inj (expects.symm.trans shown)]

/-- A valve compared that shows another position misses: once it is counted, the second time it is judged. -/
theorem visit_of_miss (expects : expected v = some want) (settled : s.stillMoving v = false)
    (other : want ≠ v.feedback) : State.visit waits n v s
      = if v.misses = 0 then s.setMisses n 1 else (s.setMisses n 0).judgeValve waits n v want := by
  unfold State.visit
  rw [expects]
  exact if_neg (by simp [settled, other.symm])

end visit

/-! ### The judgement (R174) -/

section judgement

variable {s : State} {n : Nat} {v : ValveEntry} {waits : Bool} {want : Feedback} {k : Slot} {product claimed : Nat}

/-- The valve stands between PRODUCT and a segment that a wet round claims (R174, line 1). -/
def State.breaches (s : State) (v : ValveEntry) (k : Slot) (product claimed : Nat) : Prop :=
  v.joins product claimed ∧ s.segState product = .product ∧ s.segState claimed = .claimed k ∧ (s.round k).wet = true

theorem wetClaim_eq_some : s.wetClaim (some claimed) = some k
    ↔ s.segState claimed = .claimed k ∧ (s.round k).wet = true := by
  unfold State.wetClaim State.sideState
  dsimp only
  cases s.segState claimed <;> simp [claimSlot, Option.filter_eq_some_iff]

/-- Line 1 of R174 finds the one way in which a valve breaches. -/
theorem breachAt_eq_some : s.breachAt v = some (k, product, claimed) ↔ s.breaches v k product claimed := by
  constructor
  · intro found
    unfold State.breachAt at found
    split at found
    next na nb a b =>
      split at found
      next j milk wet =>
        cases found
        exact ⟨.inl ⟨a, b⟩, milk, wetClaim_eq_some.1 wet⟩
      next j milk wet _ =>
        cases found
        exact ⟨.inr ⟨b, a⟩, milk, wetClaim_eq_some.1 wet⟩
      next => cases found
    next => cases found
  · rintro ⟨⟨a, b⟩ | ⟨b, a⟩, milk, claim, wet⟩
    · have wetSide := wetClaim_eq_some.2 ⟨claim, wet⟩
      simp [State.breachAt, a, b, milk, wetSide]
    · have wetSide := wetClaim_eq_some.2 ⟨claim, wet⟩
      simp [State.breachAt, a, b, milk, claim, wetSide]

theorem breachAt_eq_none (apart : ∀ j product claimed, ¬s.breaches v j product claimed) : s.breachAt v = none :=
  Option.eq_none_iff_forall_ne_some.2 fun x found => apart x.1 x.2.1 x.2.2 (breachAt_eq_some.1 found)

theorem scanOwner_eq_some : s.scanOwner v = some k ↔ v.owner = some k
    ∧ ((s.round k).state = .stepFill ∨ (s.round k).state = .stepTiming ∨ (s.round k).state = .ending) := by
  simp [State.scanOwner, Option.filter_eq_some_iff]

theorem scanOwner_eq_none (idle : ∀ k, v.owner = some k → (s.round k).state ≠ .stepFill
    ∧ (s.round k).state ≠ .stepTiming ∧ (s.round k).state ≠ .ending) : s.scanOwner v = none := by
  refine Option.eq_none_iff_forall_ne_some.2 fun k found => ?_
  obtain ⟨owned, busy⟩ := scanOwner_eq_some.1 found
  obtain ⟨filling, timing, ending⟩ := idle k owned
  exact busy.elim filling (·.elim timing ending)

/-- SEGREGATION_BREACH of a judged valve (R175). -/
def breachEvent (k : Slot) (n product claimed : Nat) (shown : Feedback) (time : PartTime) : Event :=
  { bareEvent .segregationBreach time with
    slot := some k
    subject := some (.valve n)
    second := some (.segment product)
    cause := some (.feedback shown)
    value := some (.number claimed) }

theorem judgeValve_of_breach (breach : s.breachAt v = some (k, product, claimed)) : s.judgeValve waits n v want
    = (s.offer (breachEvent k n product claimed v.feedback s.partTime)).handOver waits
      [.marking product, .breach k n] := by
  rw [State.judgeValve, breach]
  rfl

theorem judgeValve_of_owner (apart : s.breachAt v = none) (owner : s.scanOwner v = some k) :
    s.judgeValve waits n v want = s.handOver waits [.mismatch k n] := by
  rw [State.judgeValve, apart]
  dsimp only
  rw [owner]

theorem judgeValve_of_neither (apart : s.breachAt v = none) (owner : s.scanOwner v = none) :
    s.judgeValve waits n v want = s.offer { bareEvent .proofMismatch s.partTime with
      slot := s.mismatchSlot v, subject := some (.valve n), cause := some (.feedback v.feedback)
      value := some (.feedback want) } := by
  rw [State.judgeValve, apart]
  dsimp only
  rw [owner]
  rfl

end judgement

/-! ### What the passing of part time keeps of the scan (log 4) -/

section pass

variable {s : State} (m : Nat) {n : Nat} {v : ValveEntry} {k : Slot}

theorem sideState_pass : (s.pass m).sideState = s.sideState := by
  funext side
  cases side with
  | none => rfl
  | some segment => exact congrArg some (segState_pass m segment)

theorem wet_pass : ((s.pass m).round k).wet = (s.round k).wet := by
  rw [State.round_pass]
  rfl

theorem qualifies_pass : (s.pass m).qualifies = s.qualifies := by
  funext v
  rw [State.qualifies, State.locked, sideState_pass, State.qualifies, State.locked]

theorem travelLimit_pass : (s.pass m).travelLimit = s.travelLimit := by
  funext k
  rw [State.travelLimit, routeOf_pass, State.travelLimit]

theorem claimSlots_pass : (s.pass m).claimSlots v = s.claimSlots v := by
  rw [State.claimSlots, sideState_pass, State.claimSlots]

theorem allowance_pass : (s.pass m).allowance v = s.allowance v := by
  rw [State.allowance, travelLimit_pass, claimSlots_pass, State.pass_config, State.allowance]

theorem mismatchSlot_pass : (s.pass m).mismatchSlot v = s.mismatchSlot v := by
  rw [State.mismatchSlot, State.lowestClaim, claimSlots_pass, State.mismatchSlot, State.lowestClaim]

theorem breachAt_pass : (s.pass m).breachAt v = s.breachAt v := by
  have segments : (s.pass m).segState = s.segState := funext (segState_pass m)
  have claims : (s.pass m).wetClaim = s.wetClaim := by
    funext side
    unfold State.wetClaim
    rw [sideState_pass]
    simp only [wet_pass]
  rw [State.breachAt, segments, claims, State.breachAt]

theorem scanOwner_pass : (s.pass m).scanOwner v = s.scanOwner v := by
  unfold State.scanOwner
  simp only [state_pass]

theorem scanStart_pass : (s.pass m).scanStart = s.scanStart := by
  rw [State.scanStart, State.pass_scanPointer, State.scanStart]

theorem finds_pass (finds : s.Finds n v) : (s.pass m).Finds n v := by
  obtain ⟨fits, pointer, listed, qualifies, least⟩ := finds
  refine ⟨?_, ?_, ?_, ?_, ?_⟩
  · rwa [State.pass_valves]
  · rwa [State.pass_scanPointer]
  · rwa [State.pass_valves]
  · rwa [qualifies_pass]
  · rwa [State.pass_valves, qualifies_pass, scanStart_pass]

theorem visited_pass (count : Nat) : (s.pass m).visited n count = { s.pass m with
    visitTimer := ⟨.running, 0, s.config.visitPeriod.toNat⟩
    scanPointer := some n
    valves := s.valves.map fun (x : Nat × ValveEntry) => (x.1, { x.2 with misses :=
      if x.1 = n then count
      else if (scanRank s.scanStart x.1 < scanRank s.scanStart n) then 0 else x.2.misses }) } := by
  unfold State.visited
  dsimp only
  rw [scanStart_pass, State.pass_config, State.pass_valves]

theorem searchedInVain_pass : (s.pass m).searchedInVain = { s.pass m with
    visitTimer := ⟨.running, 0, s.config.visitPeriod.toNat⟩
    valves := s.valves.map fun (x : Nat × ValveEntry) => (x.1, { x.2 with misses := 0 }) } := by
  simp only [State.searchedInVain, State.pass_config, State.pass_valves]

end pass

/-! ### What a visit leaves for its judgement to read -/

section visited

variable {s : State} {n count : Nat} {v : ValveEntry}

theorem visited_partTime : (s.visited n count).partTime = s.partTime := rfl

theorem visited_segments : (s.visited n count).segments = s.segments := rfl

theorem visited_claimQueue : (s.visited n count).claimQueue = s.claimQueue := rfl

theorem visited_handed : (s.visited n count).handed = s.handed := rfl

theorem visited_freeCount : (s.visited n count).freeCount = s.freeCount := rfl

theorem round_visited (k : Slot) : (s.visited n count).round k = s.round k := rfl

theorem station_visited (st : StationId) : (s.visited n count).station st = s.station st := rfl

theorem breachAt_visited : (s.visited n count).breachAt v = s.breachAt v := rfl

theorem scanOwner_visited : (s.visited n count).scanOwner v = s.scanOwner v := rfl

theorem mismatchSlot_visited : (s.visited n count).mismatchSlot v = s.mismatchSlot v := rfl

end visited

/-! ### The expiry of the visit timer -/

section expiry

variable {s : State} {n : Nat} {v : ValveEntry} {want : Feedback}

/-- What is on its way arrives before the visit (log 42). -/
theorem exec_visitTimerExpiry_takeHanded (s : State) :
    exec .visitTimerExpiry s = exec .visitTimerExpiry s.takeHanded := by
  show Host.Outcome.next (s.takeHanded.expire s.visitTimer State.scan)
    = .next (s.takeHanded.takeHanded.expire s.takeHanded.visitTimer State.scan)
  rw [takeHanded_takeHanded, takeHanded_visitTimer]

/-- The part time that the timer lacks passes, and the scan searches. -/
theorem exec_visitTimerExpiry (quiet : s.handed = []) (running : s.visitTimer.mode = .running) :
    exec .visitTimerExpiry s = .next (s.pass (s.visitTimer.limit - s.visitTimer.elapsed)).scan := by
  show Host.Outcome.next (s.takeHanded.expire s.visitTimer State.scan) = _
  rw [takeHanded_of_nil quiet, expire_of_running _ running]

theorem stillMoving_pass (m : Nat) : (s.pass m).stillMoving v = true
    ↔ v.changed = none ∨ ∃ t, v.changed = some t ∧ ((s.pass m).partTime - t).toNat < s.allowance v := by
  rw [stillMoving_iff, allowance_pass]

theorem scan_cleared (finds : s.Finds n v)
    (cleared : expected v = none ∨ s.stillMoving v = true ∨ expected v = some v.feedback) :
    s.scan = s.visited n 0 := by
  rw [State.scan, scanWith_of_finds finds, visit_of_cleared (s := s.reached n) cleared, setMisses_reached]

theorem scan_missed (finds : s.Finds n v) (expects : expected v = some want) (settled : s.stillMoving v = false)
    (other : want ≠ v.feedback) : s.scan = if v.misses = 0 then s.visited n 1
      else (s.visited n 0).judgeValve (Config.handoverWaits s.freeCount) n v want := by
  rw [State.scan, scanWith_of_finds finds, visit_of_miss (s := s.reached n) expects settled other,
    setMisses_reached, setMisses_reached]

end expiry

/-- Settles O49: by what the search finds, and by what the visit sees of the valve found. -/
theorem proofScanVisit : Obligations.ProofScanVisit := by
  refine ⟨exec_visitTimerExpiry_takeHanded, ?_⟩
  intro s quiet running canonical pointer p timer start rank
  refine ⟨fun none => ?vain, ?found⟩
  case vain =>
    have none' : ∀ x ∈ p.valves, p.qualifies x.2 = false := by rwa [State.pass_valves, qualifies_pass]
    rw [exec_visitTimerExpiry quiet running, State.scan, scanWith_of_none none', searchedInVain_pass]
  case found =>
    intro n v listed qualifies least visited passes miss
    obtain ⟨-, -, fits, -⟩ := canonical
    have finds : p.Finds n v := finds_pass _ ⟨fits, pointer, listed, qualifies, least⟩
    have reached : ∀ count, p.visited n count = visited count := fun count => visited_pass _ count
    have moving : p.stillMoving v = true
        ↔ v.changed = none ∨ ∃ t, v.changed = some t ∧ (p.partTime - t).toNat < s.allowance v := stillMoving_pass _
    have missed : ∀ want, miss → expected v = some want → p.scan = if v.misses = 0 then p.visited n 1
        else (p.visited n 0).judgeValve (Config.handoverWaits p.freeCount) n v want := by
      intro want ⟨compared, other⟩ expects
      refine scan_missed finds expects (Bool.eq_false_iff.2 fun still => ?_) fun same => other (same ▸ expects)
      exact compared (.inr (moving.1 still))
    rw [exec_visitTimerExpiry quiet running]
    refine ⟨fun cleared => ?cleared, fun misses first => ?first, fun want misses second expects apart idle => ?second⟩
    case cleared =>
      rw [← reached, scan_cleared finds]
      rw [moving]
      exact or_assoc.1 cleared
    case first =>
      obtain ⟨want, expects⟩ := Option.ne_none_iff_exists'.1 fun absent => misses.1 (.inl absent)
      rw [missed want misses expects, if_pos first, reached]
    case second =>
      rw [missed want misses expects, if_neg second, judgeValve_of_neither, mismatchSlot_visited, mismatchSlot_pass,
        reached]
      · rw [breachAt_visited, breachAt_pass, apart]
      · rw [scanOwner_visited, scanOwner_pass, scanOwner_eq_none idle]

end Sys2Proof.Machine

/-! ## The proof scan: what it hands over (R61, R109, R175, R176, R179) -/

namespace Sys2Proof.Machine

open Sys2Proof

/-! ### A breach marking, by the state it finds -/

section marking

variable {s : State} {n : Nat}

theorem markBreach_of_free (free : s.segState n = .free) : s.markBreach n = s.setSegState n (.suspect .breach) := by
  rw [State.markBreach, free]

theorem markBreach_of_other (notFree : s.segState n ≠ .free) (notProduct : s.segState n ≠ .product) :
    s.markBreach n = s := by
  unfold State.markBreach
  split
  next product => exact absurd product notProduct
  next free => exact absurd free notFree
  next => rfl

/-- With no round waiting for its claim, the walk behind a marking finds nothing. -/
theorem markBreach_of_product (product : s.segState n = .product) (empty : s.claimQueue = []) :
    s.markBreach n = s.setSegState n (.suspect .breach) := by
  rw [State.markBreach, product]
  exact walk_of_nil empty

end marking

/-! ### Arrival -/

section arrival

variable {s : State} {k : Slot} {m n : Nat} {l : List Handover} {waits : Bool}

theorem takeHanded_of_eq (handed : s.handed = l) : s.takeHanded = l.foldl State.arrive { s with handed := [] } := by
  rw [State.takeHanded, handed]

theorem takeHanded_marking (handed : s.handed = [.marking m]) :
    s.takeHanded = State.markBreach m { s with handed := [] } := takeHanded_of_eq handed

theorem takeHanded_breach_ignored (handed : s.handed = [.breach k n])
    (ignores : (s.round k).takes .segregationBreach = false) : s.takeHanded = { s with handed := [] } :=
  (takeHanded_of_eq handed).trans (cascade_fault_ignored (s := { s with handed := [] }) ignores)

theorem takeHanded_mismatch_ignored (handed : s.handed = [.mismatch k n])
    (ignores : (s.round k).takes .scanMismatch = false) : s.takeHanded = { s with handed := [] } :=
  (takeHanded_of_eq handed).trans (cascade_fault_ignored (s := { s with handed := [] }) ignores)

/-- What is handed over has arrived when the visit ends, or is on its way (log 42). -/
theorem handOver_cases : (s.handOver waits l).handed = []
    ∨ s.handOver waits l = { s with handed := s.handed ++ l, freeCount := s.freeCount + 1 } := by
  cases waits
  · exact .inl (takeHanded_handed _)
  · exact .inr rfl

/-- The model's counter of free values moves on (log 42). -/
def State.counted (s : State) : State := { s with freeCount := s.freeCount + 1 }

/-- With nothing else on its way, what is handed over meets the state that the visit leaves. -/
theorem takeHanded_handOver_of_quiet (quiet : s.handed = []) :
    (s.handOver waits l).takeHanded = l.foldl State.arrive s.counted := by
  have handed : s.handed ++ l = l := by rw [quiet, List.nil_append]
  rw [takeHanded_handOver, takeHanded_of_eq handed]
  exact congrArg (fun h => l.foldl State.arrive { s with handed := h, freeCount := s.freeCount + 1 }) quiet.symm

end arrival

/-! ### The judgements that hand over -/

section judged

variable {s : State} {k : Slot} {n product claimed : Nat} {v : ValveEntry} {want : Feedback} {waits : Bool}

/-- A breach is judged (R175): the event is offered, and the segment found PRODUCT is SUSPECT. -/
def State.breached (k : Slot) (n product claimed : Nat) (shown : Feedback) (s : State) : State :=
  { s.offer (breachEvent k n product claimed shown s.partTime) with
    freeCount := s.freeCount + 1
    segments := s.segments.map fun (x : Nat × SegmentEntry) =>
      if x.1 = product then (x.1, { x.2 with state := .suspect .breach }) else x }

theorem breached_eq (shown : Feedback) : s.breached k n product claimed shown
    = (s.offer (breachEvent k n product claimed shown s.partTime)).counted.setSegState product (.suspect .breach) := by
  rw [State.setSegState, State.counted, State.offer_segments, State.offer_freeCount]
  rfl

theorem counted_partTime : s.counted.partTime = s.partTime := rfl

theorem round_counted (j : Slot) : s.counted.round j = s.round j := rfl

theorem station_counted (st : StationId) : s.counted.station st = s.station st := rfl

theorem breached_partTime (shown : Feedback) : (s.breached k n product claimed shown).partTime = s.partTime :=
  State.offer_partTime ..

theorem round_breached (shown : Feedback) (j : Slot) :
    (s.breached k n product claimed shown).round j = s.round j := State.round_offer ..

theorem station_breached (shown : Feedback) (st : StationId) :
    (s.breached k n product claimed shown).station st = s.station st := State.station_offer ..

/-- A breach handed over: the marking finds the segment PRODUCT, and the report finds the round after it. -/
theorem judgeValve_breach (quiet : s.handed = []) (empty : s.claimQueue = [])
    (breach : s.breaches v k product claimed) :
    ((s.judgeValve waits n v want).handed = []
      ∨ s.judgeValve waits n v want = { s.breached k n product claimed v.feedback with
        segments := s.segments, handed := [.marking product, .breach k n] })
    ∧ (s.judgeValve waits n v want).takeHanded
      = (s.breached k n product claimed v.feedback).cascade [.fault k .segregationBreach (some (.valve n))] := by
  rw [judgeValve_of_breach (breachAt_eq_some.2 breach), breached_eq]
  obtain ⟨-, milk, -⟩ := breach
  obtain ⟨t, offered⟩ : ∃ t, t = s.offer (breachEvent k n product claimed v.feedback s.partTime) := ⟨_, rfl⟩
  have handed : t.handed = [] := by rw [offered, State.offer_handed, quiet]
  have waiting : t.claimQueue = [] := by rw [offered, State.offer_claimQueue, empty]
  have found : t.segState product = .product := by
    rw [offered, State.segState, State.offer_segments, ← State.segState, milk]
  have segments : t.segments = s.segments := by rw [offered, State.offer_segments]
  rw [← offered, ← segments]
  refine ⟨handOver_cases.imp_right fun onWay => ?_, ?_⟩
  · rw [onWay, handed]
    rfl
  · rw [takeHanded_handOver_of_quiet handed]
    exact congrArg (State.cascade [.fault k .segregationBreach (some (.valve n))])
      (markBreach_of_product (s := t.counted) found waiting)

/-- A scan mismatch handed over (R176). -/
theorem judgeValve_mismatch (quiet : s.handed = []) (apart : s.breachAt v = none) (owner : s.scanOwner v = some k) :
    ((s.judgeValve waits n v want).handed = []
      ∨ s.judgeValve waits n v want = { s.counted with handed := [.mismatch k n] })
    ∧ (s.judgeValve waits n v want).takeHanded
      = s.counted.cascade [.fault k .scanMismatch (some (.valve n))] := by
  rw [judgeValve_of_owner apart owner]
  refine ⟨handOver_cases.imp_right fun onWay => ?_, takeHanded_handOver_of_quiet quiet⟩
  rw [onWay, quiet]
  rfl

end judged

/-! ### A report that the round takes -/

section reports

variable {s b : State} {k : Slot} {cause : FaultCause} {n : Nat}

theorem takes_pass (m : Nat) : ((s.pass m).round k).takes cause = (s.round k).takes cause := by
  rw [State.round_pass]
  cases cause <;> rfl

theorem takes_scanMismatch {x : Round} : x.takes .scanMismatch = true
    ↔ x.state = .stepFill ∨ x.state = .stepTiming ∨ x.state = .ending := by
  simp [Round.takes, or_assoc]

/-- A round FAULTED by the scan, from the state `b` that the visit leaves to `u`; `s` stands before the visit, and `p`
after the part time that passed. -/
def FaultedByScan (s p b u : State) (k : Slot) (n : Nat) (cause : FaultCause) : Prop :=
  sequencerFrame b u
  ∧ (u.round k).faultedWith ⟨cause, some (.valve n), (s.round k).step, p.partTime⟩
  ∧ ∃ w : State, sequencerFrame b w
    ∧ ((∀ st, (s.round k).held = some st → (s.station st).queue = []) →
      w.events = b.events ∧ w.overflow = b.overflow ∧ ∀ j, j ≠ k → u.round j = p.round j)
    ∧ let x := (w.offer { bareEvent .fault p.partTime with
        slot := some k, subject := some (.valve n), cause := some (.fault cause)
        value := some (.number (s.round k).step) }).offer (roundStateEvent k .faulted none p.partTime)
      u.events = x.events ∧ u.overflow = x.overflow

/-- The report of a cause that the round takes, in a state with the records and stations of before the visit. -/
theorem faultedByScan_of_takes (m : Nat) (time : b.partTime = (s.pass m).partTime)
    (rounds : ∀ j, b.round j = (s.pass m).round j) (stations : ∀ st, b.station st = s.station st)
    (takes : (s.round k).takes cause = true) :
    FaultedByScan s (s.pass m) b (b.cascade [.fault k cause (some (.valve n))]) k n cause := by
  obtain ⟨w, frame, record, -, -, -, released, quiet, events⟩ :=
    faults_of_takes (s := b) (k := k) (cause := cause) (subject := some (.valve n)) (by rw [rounds, takes_pass, takes])
  rw [rounds, step_pass, time] at record events
  refine ⟨frame, record, w, released, fun empty => ?_, eventQueue_components events⟩
  obtain ⟨same, others⟩ := quiet (by simpa only [rounds, held_pass, stations] using empty)
  exact ⟨events_of_eventQueue same, overflow_of_eventQueue same, fun j ne => (others j ne).trans (rounds j)⟩

end reports

/-! ### The second mismatch, after the part time that passed (log 4) -/

section second

variable {s : State} {k : Slot} {n product claimed : Nat} {v : ValveEntry} {want : Feedback} {waits : Bool}

/-- A breach: the round takes the report, or the marking is all that comes of it. -/
theorem judgeValve_visited_breach (m : Nat) (quiet : s.handed = []) (empty : s.claimQueue = [])
    (breach : s.breaches v k product claimed) :
    let b := ((s.pass m).visited n 0).breached k n product claimed v.feedback
    let u := ((s.pass m).visited n 0).judgeValve waits n v want
    (u.handed = [] ∨ u = { b with segments := s.segments, handed := [.marking product, .breach k n] })
    ∧ ((s.round k).takes .segregationBreach = false → u.takeHanded = b)
    ∧ ((s.round k).takes .segregationBreach = true →
      FaultedByScan s (s.pass m) b u.takeHanded k n .segregationBreach) := by
  have breach' : ((s.pass m).visited n 0).breaches v k product claimed :=
    breachAt_eq_some.1 (by rw [breachAt_visited, breachAt_pass, breachAt_eq_some.2 breach])
  obtain ⟨outcome, arrived⟩ := judgeValve_breach (want := want) (waits := waits)
    (by rw [visited_handed, State.pass_handed, quiet]) (by rw [visited_claimQueue, State.pass_claimQueue, empty]) breach'
  rw [visited_segments, State.pass_segments] at outcome
  refine ⟨outcome, fun ignores => ?ignored, fun takes => ?taken⟩
  case ignored =>
    rw [arrived, cascade_fault_ignored]
    rw [round_breached, round_visited, takes_pass, ignores]
  case taken =>
    rw [arrived]
    exact faultedByScan_of_takes m (by rw [breached_partTime, visited_partTime])
      (fun j => by rw [round_breached, round_visited])
      (fun st => by rw [station_breached, station_visited, State.station_pass]) takes

/-- No breach, and an owner in a state of line 2 of R174: its round takes the report. -/
theorem judgeValve_visited_mismatch (m : Nat) (quiet : s.handed = []) (apart : s.breachAt v = none)
    (owner : s.scanOwner v = some k) :
    let b := ((s.pass m).visited n 0).counted
    let u := ((s.pass m).visited n 0).judgeValve waits n v want
    (u.handed = [] ∨ u = { b with handed := [.mismatch k n] })
    ∧ FaultedByScan s (s.pass m) b u.takeHanded k n .scanMismatch := by
  obtain ⟨outcome, arrived⟩ := judgeValve_mismatch (s := (s.pass m).visited n 0) (k := k) (v := v) (n := n)
    (want := want) (waits := waits) (by rw [visited_handed, State.pass_handed, quiet])
    (by rw [breachAt_visited, breachAt_pass, apart]) (by rw [scanOwner_visited, scanOwner_pass, owner])
  refine ⟨outcome, ?_⟩
  rw [arrived]
  exact faultedByScan_of_takes m (by rw [counted_partTime, visited_partTime])
    (fun j => by rw [round_counted, round_visited])
    (fun st => by rw [station_counted, station_visited, State.station_pass])
    (takes_scanMismatch.2 (scanOwner_eq_some.1 owner).2)

end second

/-- Settles O50: what has been handed over arrives by the state it finds, and the second mismatch hands over a marking
with its report, or a report alone. -/
theorem scanJudgement : Obligations.ScanJudgement := by
  refine ⟨fun m s handed => ⟨fun free => ?free, fun notFree notProduct => ?other⟩,
    fun k n s => ⟨takeHanded_breach_ignored, takeHanded_mismatch_ignored⟩, ?judgement⟩
  case free => exact (takeHanded_marking handed).trans (markBreach_of_free (s := { s with handed := [] }) free)
  case other =>
    exact (takeHanded_marking handed).trans (markBreach_of_other (s := { s with handed := [] }) notFree notProduct)
  case judgement =>
    intro n v want time s running canonical pointer quiet listed qualifies empty p start rank least expects other
      changed late second visited breaches faulted
    obtain ⟨-, -, fits, -⟩ := canonical
    have finds : p.Finds n v := finds_pass _ ⟨fits, pointer, listed, qualifies, least⟩
    have settled : p.stillMoving v = false := by
      rw [Bool.eq_false_iff, Ne, stillMoving_pass, changed]
      rintro (absent | ⟨t, same, early⟩)
      · cases absent
      · cases same
        exact absurd early (Nat.not_lt.2 late)
    have reached : p.visited n 0 = visited := visited_pass _ 0
    have scans : exec .visitTimerExpiry s
        = .next ((p.visited n 0).judgeValve (Config.handoverWaits p.freeCount) n v want) := by
      rw [exec_visitTimerExpiry quiet running, scan_missed finds expects settled other, if_neg second]
    have count : (p.visited n 0).freeCount = s.freeCount := by rw [visited_freeCount, State.pass_freeCount]
    have segments : (p.visited n 0).segments = s.segments := by rw [visited_segments, State.pass_segments]
    refine ⟨?breach, ?mismatch⟩
    case breach =>
      intro k product claimed breach b
      obtain ⟨outcome, ignored, taken⟩ := judgeValve_visited_breach (n := n) (want := want)
        (waits := Config.handoverWaits p.freeCount) (s.visitTimer.limit - s.visitTimer.elapsed) quiet empty breach
      have left : (p.visited n 0).breached k n product claimed v.feedback = b := by
        rw [State.breached, count, segments, reached]
        rfl
      rw [left] at outcome ignored taken
      exact ⟨_, scans, outcome, ignored, fun takes _ => taken takes⟩
    case mismatch =>
      intro k apart owner absent busy b
      obtain ⟨outcome, taken⟩ := judgeValve_visited_mismatch (n := n) (want := want)
        (waits := Config.handoverWaits p.freeCount) (s.visitTimer.limit - s.visitTimer.elapsed) quiet
        (breachAt_eq_none apart) (scanOwner_eq_some.2 ⟨owner, busy⟩)
      have left : (p.visited n 0).counted = b := by rw [State.counted, count, reached]
      rw [left] at outcome taken
      exact ⟨_, scans, outcome, taken⟩

end Sys2Proof.Machine

/-! ## The event queue (R192, R193) -/

namespace Sys2Proof.Machine

open Sys2Proof

section offers

variable {s : State} {e x : Event} {before after kept l : List Event}

/-- Where no record is maskable there is none to remove. -/
theorem dropNewestMaskable_eq_none (unmaskable : ∀ y ∈ l, y.kind.maskable = false) : dropNewestMaskable l = none := by
  induction l with
  | nil => rfl
  | cons y l ih =>
    obtain ⟨head, tail⟩ := List.forall_mem_cons.1 unmaskable
    unfold dropNewestMaskable
    rw [ih tail, head]
    rfl

/-- The maskable record behind which none is maskable is the one removed. -/
theorem dropNewestMaskable_append (maskable : x.kind.maskable = true)
    (newest : ∀ y ∈ after, y.kind.maskable = false) :
    dropNewestMaskable (before ++ x :: after) = some (before ++ after) := by
  induction before with
  | nil =>
    rw [List.nil_append, dropNewestMaskable, dropNewestMaskable_eq_none newest]
    exact if_pos maskable
  | cons y before ih => rw [List.cons_append, dropNewestMaskable, ih, List.cons_append]

/-- One record is removed. -/
theorem length_of_dropNewestMaskable (dropped : dropNewestMaskable l = some kept) : kept.length + 1 = l.length := by
  induction l generalizing kept with
  | nil => cases dropped
  | cons y l ih =>
    unfold dropNewestMaskable at dropped
    split at dropped
    next rest found =>
      obtain rfl := Option.some.inj dropped
      exact congrArg (· + 1) (ih found)
    next =>
      split at dropped
      · exact Option.some.inj dropped ▸ rfl
      · cases dropped

theorem enqueue_of_room (room : s.events.length < 64) : s.enqueue e = { s with events := s.events ++ [e] } :=
  if_pos room

theorem enqueue_of_full (full : 64 ≤ s.events.length) : s.enqueue e =
    if e.kind.maskable then { s with overflow := true }
    else match dropNewestMaskable s.events with
      | some kept => { s with events := kept ++ [e], overflow := true }
      | none => { s with overflow := true } := if_neg (Nat.not_lt.2 full)

theorem offer_of_masked (masked : s.masked e.kind = true) : s.offer e = s := if_pos masked

theorem offer_of_unmasked (unmasked : s.masked e.kind = false) : s.offer e = s.enqueue e := by
  unfold State.offer
  rw [unmasked]
  exact if_neg Bool.false_ne_true

theorem maskable_eq_false (k : EventKind) :
    k.maskable = false ↔ k = .fault ∨ k = .segregationBreach ∨ k = .imageBad ∨ k = .restarted := by
  cases k <;> decide

/-- A queue within its capacity is within it after an offer (R193). -/
theorem length_events_offer (bound : s.events.length ≤ 64) : (s.offer e).events.length ≤ 64 := by
  unfold State.offer
  split
  · exact bound
  · by_cases room : s.events.length < 64
    · rw [enqueue_of_room room, List.length_append]
      exact room
    · rw [enqueue_of_full (Nat.not_lt.1 room)]
      split
      · exact bound
      · split
        next kept dropped =>
          rw [List.length_append, List.length_singleton, length_of_dropNewestMaskable dropped]
          exact bound
        next => exact bound

end offers

/-- Settles O57: by the mask, the room in the queue, and the newest maskable record. -/
theorem eventQueueOffer : Obligations.EventQueueOffer := by
  refine fun s e => ⟨offer_of_masked, fun unmasked => ?_, maskable_eq_false⟩
  rw [offer_of_unmasked unmasked]
  refine ⟨enqueue_of_room, fun full maskable => ?drops, fun before x after full unmaskable split maskable newest =>
    ?replaces, fun full unmaskable none => ?keeps⟩ <;> rw [enqueue_of_full full]
  case drops => exact if_pos maskable
  case replaces =>
    rw [unmaskable, split, dropNewestMaskable_append maskable newest]
    rfl
  case keeps =>
    rw [unmaskable, dropNewestMaskable_eq_none none]
    rfl

end Sys2Proof.Machine

/-! ## Requests that are not performed, and the end of an answer (R181, R182) -/

namespace Sys2Proof.Machine

open Sys2Proof

/-- Settles O6: the forms of R208, one by one, in `parseRequest_requestOctets`. -/
theorem requestsReadBack : Obligations.RequestsReadBack := fun tag _ wf => parseRequest_requestOctets wf tag

/-- Settles O21: whatever a request asks, its arrival is turned away before it is performed. -/
theorem busyAndLoading : Obligations.BusyAndLoading := by
  intro i a r s carries heard
  refine ⟨fun loading => ?_, fun ready held => ?_⟩ <;> obtain arrives | arrives := exec_of_request carries s
  · rw [arrives, requestArrives_loading loading heard]
  · rw [arrives, requestArrives_loading loading heard]
  · rw [arrives, requestArrives_busy ready held heard]
  · rw [arrives, requestArrives_busy ready held heard]

/-- The relayed frames before the first answer leave with it (R147). -/
theorem dropAnswer_answer (before : List (List Octet)) (after : List SentU) (frees : Bool) (dest source tag : Octet)
    (reply : Reply) :
    dropAnswer (before.map .relayed ++ .answer frees dest source tag reply :: after) = (after, frees) := by
  induction before with
  | nil => rfl
  | cons octets before ih => exact ih

/-- With no answer on the port every frame leaves (log 7). -/
theorem dropAnswer_relayed (before : List (List Octet)) : dropAnswer (before.map .relayed) = ([], true) := by
  induction before with
  | nil => rfl
  | cons octets before ih => exact ih

/-- Settles O20: what is dropped from the port says whether the buffer is freed. -/
theorem answerSent : Obligations.AnswerSent := by
  refine fun s before after => ⟨fun frees dest source tag reply sent => ?_, fun sent => ?_⟩
  · show Host.Outcome.next s.answerLeaves = _
    rw [State.answerLeaves, sent, dropAnswer_answer]
  · show Host.Outcome.next s.answerLeaves = _
    rw [State.answerLeaves, sent, dropAnswer_relayed]
    rfl

end Sys2Proof.Machine

/-! ## A recipe in two parts (R186) -/

namespace Sys2Proof.Machine

open Sys2Proof

section recipeParts

variable {s : State} {a : Ask} {index : Word16} {count : Octet} {steps : List StepFields} {k : Slot} {r : Reply}

theorem recipeInUse_eq_false {n : Nat} (unnamed : ∀ k, s.active k = true → (s.round k).recipe ≠ n) :
    s.recipeInUse n = false :=
  List.any_eq_false.2 fun k _ => by
    rw [Bool.and_eq_true, beq_iff_eq]
    exact fun ⟨active, named⟩ => unnamed k active named

theorem refuseFirst_badIndex (out : 24 ≤ index.toNat) :
    s.refuseFirst index count steps = some ⟨.badIndex, none, none, []⟩ := if_pos out

theorem refuseFirst_inUse (range : index.toNat < 24) (active : s.active k = true)
    (named : (s.round k).recipe = index.toNat) :
    s.refuseFirst index count steps = some ⟨.inUse, none, none, []⟩ := by
  unfold State.refuseFirst
  rw [inUseWhen_true (recipeInUse_of_slot active named)]
  exact if_neg (Nat.not_le.2 range)

/-- A first part of a recipe that no active round names is judged by its checks alone. -/
theorem refuseFirst_of_unnamed (range : index.toNat < 24)
    (unnamed : ∀ k, s.active k = true → (s.round k).recipe ≠ index.toNat) :
    s.refuseFirst index count steps = (firstFailure (firstPartChecks count steps)).map ContentFailure.reply := by
  unfold State.refuseFirst
  rw [recipeInUse_eq_false unnamed]
  exact if_neg (Nat.not_le.2 range)

theorem firstPartChecks_pass (low : 7 ≤ count.toNat) (high : count.toNat ≤ 12)
    (checks : firstFailure (stepsContentChecks 0 steps) = none) : firstFailure (firstPartChecks count steps) = none :=
  firstFailure_cons_eq_none.2 ⟨demand_eq_none.2 (within_iff.2 ⟨low, high⟩), checks⟩

/-- The step count is judged before the steps. -/
theorem firstPartChecks_range (out : ¬(7 ≤ count.toNat ∧ count.toNat ≤ 12)) :
    firstFailure (firstPartChecks count steps) = some ⟨.range, 0⟩ := by
  have fails : within 7 12 count.toNat = false := Bool.eq_false_iff.2 (out ∘ within_iff.1)
  unfold firstPartChecks
  rw [fails]
  rfl

theorem exec_recipeFirstPart (six : steps.length = 6) :
    exec (.recipeFirstPart a index count steps) s = .next (s.requestArrives a (stageFirst index count steps)) :=
  exec_of_wf_request (r := .recipeFirstPart index count steps) rfl (beq_iff_eq.2 six) s

/-- A first part that is refused leaves the staging record as it is. -/
theorem exec_recipeFirstPart_refused (listens : s.listens) (six : steps.length = 6)
    (refused : s.refuseFirst index count steps = some r) :
    exec (.recipeFirstPart a index count steps) s = .next (s.opened.closing a r) := by
  have act : stageFirst index count steps s.opened = (s.opened, r) := by
    unfold stageFirst
    rw [show s.opened.refuseFirst index count steps = some r from refused]
  rw [exec_recipeFirstPart six, requestArrives_refused listens act]

theorem exec_recipeFirstPart_taken (listens : s.listens) (six : steps.length = 6)
    (taken : s.refuseFirst index count steps = none) : exec (.recipeFirstPart a index count steps) s
      = .next ({ s.opened with staging := some ⟨index.toNat, count.toNat, steps⟩ }.closing a ⟨.ok, none, none, []⟩) := by
  have act : stageFirst index count steps s.opened
      = ({ s.opened with staging := some ⟨index.toNat, count.toNat, steps⟩ }, Reply.ok) := by
    unfold stageFirst
    rw [show s.opened.refuseFirst index count steps = none from taken]
  have arrives := requestArrives_taken listens a (stageFirst index count steps) (by rw [act]; exact listens.2.2)
  rw [exec_recipeFirstPart six, arrives, act]
  rfl

/-- The staging record that a second part completes names its index, and has as many steps still to come. -/
theorem stagedFor_eq_some {n carried : Nat} {x : Staging} : s.stagedFor n carried = some x
    ↔ s.staging = some x ∧ x.index = n ∧ x.count - 6 = carried := by
  simp [State.stagedFor, Option.filter_eq_some_iff]

theorem stagedFor_eq_none {n carried : Nat}
    (other : ∀ x, s.staging = some x → x.index = n → x.count - 6 ≠ carried) : s.stagedFor n carried = none :=
  Option.eq_none_iff_forall_ne_some.2 fun x found =>
    have ⟨staged, named, counted⟩ := stagedFor_eq_some.1 found
    other x staged named counted

theorem completeRecipe_unstaged (range : index.toNat < 24) (unstaged : s.stagedFor index.toNat steps.length = none) :
    completeRecipe index steps s = (s, ⟨.wrongState, none, none, []⟩) := by
  unfold completeRecipe
  rw [unstaged]
  exact if_neg (Nat.not_le.2 range)

/-- The assembled recipe is judged as one write (R2), and the staging record is cleared either way. -/
theorem completeRecipe_staged {x : Staging} (range : index.toNat < 24)
    (staged : s.stagedFor index.toNat steps.length = some x) : completeRecipe index steps s =
      match s.refuseWrite (.full index (.recipe (x.steps ++ steps))) with
      | some r => ({ s with staging := none }, r)
      | none => (State.applyWrite (.full index (.recipe (x.steps ++ steps))) { s with staging := none }, Reply.ok) := by
  unfold completeRecipe
  rw [staged]
  exact if_neg (Nat.not_le.2 range)

end recipeParts

/-- Settles O26: the judgement of a first part in its order, and of a second by the staging record that it completes. -/
theorem recipeParts : Obligations.RecipeParts := by
  intro a index count steps s listens
  refine ⟨fun six range unnamed => ⟨fun low high checks => ?staged, fun out => ?count⟩,
    fun six out => exec_recipeFirstPart_refused listens six (refuseFirst_badIndex out),
    fun k six range active named => exec_recipeFirstPart_refused listens six (refuseFirst_inUse range active named),
    fun other => ?form, fun range none => ?unstaged, fun x range held named counted => ?second⟩
  case staged =>
    refine exec_recipeFirstPart_taken listens six ?_
    rw [refuseFirst_of_unnamed range unnamed, firstPartChecks_pass low high checks]
    rfl
  case count =>
    refine exec_recipeFirstPart_refused listens six ?_
    rw [refuseFirst_of_unnamed range unnamed, firstPartChecks_range out]
    rfl
  case form =>
    have bad : exec (.recipeFirstPart a index count steps) s = .next (s.requestArrives a badRequest) :=
      congrArg (fun act => Host.Outcome.next (s.requestArrives a act)) (if_neg other)
    rw [bad, requestArrives_refused (act := badRequest) listens rfl]
    rfl
  case unstaged =>
    exact congrArg Host.Outcome.next (requestArrives_refused listens
      (completeRecipe_unstaged (s := s.opened) range (stagedFor_eq_none none)))
  case second =>
    have act := completeRecipe_staged (s := s.opened) range (stagedFor_eq_some.2 ⟨held, named, counted⟩)
    rw [refuseWrite_opened] at act
    refine ⟨fun taken => ?_, fun r refused => ?_⟩
    · rw [taken] at act
      have arrives := requestArrives_taken listens a (completeRecipe index steps)
        (by rw [act]; exact (linkSilent_applyWrite _ _).trans listens.2.2)
      rw [act] at arrives
      exact congrArg Host.Outcome.next arrives
    · rw [refused] at act
      have arrives := requestArrives_taken listens a (completeRecipe index steps) (by rw [act]; exact listens.2.2)
      rw [act] at arrives
      exact congrArg Host.Outcome.next arrives

end Sys2Proof.Machine

/-! ## TABLE_READ (R185, R186) -/

namespace Sys2Proof.Machine

open Sys2Proof

section tableRead

variable {s : State} {a : Ask} {index : Word16} {t : TableId} {code : Octet} {part : Option Octet}

theorem tableCode_eq_recipe : tableCode t = tableCode .recipe ↔ t = .recipe := by cases t <;> decide

/-- A code that names no table is not the recipe table's. -/
theorem ne_recipe_of_tableOfCode (unknown : tableOfCode code = none) : code ≠ tableCode .recipe := by
  rintro rfl
  cases unknown

/-- The part octet belongs to the recipe table alone (R208). -/
theorem exec_tableRead (form : part.isSome = true ↔ code = tableCode .recipe) :
    exec (.tableRead a code index part) s = .next (s.requestArrives a (readTable code index part)) :=
  congrArg (fun act => Host.Outcome.next (s.requestArrives a act))
    (if_pos (Bool.eq_iff_iff.2 (form.trans beq_iff_eq.symm)))

/-- TABLE_READ changes nothing: its reply alone says what it read. -/
theorem exec_tableRead_of_reply {r : Reply} (listens : s.listens)
    (form : part.isSome = true ↔ code = tableCode .recipe) (reads : readTable code index part s.opened = (s.opened, r)) :
    exec (.tableRead a code index part) s = .next (s.opened.closing a r) := by
  rw [exec_tableRead form, requestArrives_refused listens reads]

theorem readTable_badTable (unknown : tableOfCode code = none) :
    readTable code index part s = (s, ⟨.badTable, none, none, []⟩) := by
  unfold readTable
  rw [unknown]
  rfl

theorem readTable_badIndex (out : t.size ≤ index.toNat) :
    readTable (tableCode t) index part s = (s, ⟨.badIndex, none, none, []⟩) := by
  unfold readTable
  rw [tableOfCode_tableCode]
  exact if_pos out

theorem readTable_badPart (range : index.toNat < t.size) (bad : s.loadedOctets t index.toNat part = none) :
    readTable (tableCode t) index part s = (s, ⟨.badRequest, none, none, []⟩) := by
  unfold readTable
  rw [tableOfCode_tableCode]
  dsimp only
  rw [if_neg (Nat.not_le.2 range), bad]
  rfl

theorem readTable_of_loaded {loaded : Option (List Octet)} (range : index.toNat < t.size)
    (loads : s.loadedOctets t index.toNat part = some loaded) :
    readTable (tableCode t) index part s = (s, ⟨.ok, none, none, s.entryOctets t index.toNat loaded⟩) := by
  unfold readTable
  rw [tableOfCode_tableCode]
  dsimp only
  rw [if_neg (Nat.not_le.2 range), loads]
  rfl

/-- The port and the buffer are no part of an entry. -/
theorem entryOctets_opened (n : Nat) (loaded : Option (List Octet)) :
    s.opened.entryOctets t n loaded = s.entryOctets t n loaded := by cases t <;> rfl

theorem loadedOctets_opened (n : Nat) : s.opened.loadedOctets t n part = s.loadedOctets t n part := by cases t <;> rfl

theorem loadedOctets_of_ne (other : t ≠ .recipe) (n : Nat) :
    s.loadedOctets t n part = some ((s.contentAt t n).map contentOctets) := by
  cases t with
  | recipe => exact absurd rfl other
  | _ => rfl

theorem loadedOctets_recipe {n : Nat} {p : Octet} {octets : List Octet}
    (reads : recipePart p ((Table.entry s.recipes n).getD []) = some octets) :
    s.loadedOctets .recipe n (some p) = some ((Table.entry s.recipes n).map fun _ => octets) := by
  unfold State.loadedOctets
  dsimp only [Option.getD_some]
  rw [reads]

theorem recipePart_eq_none {p : Octet} (notFirst : p ≠ 0x01) (notSecond : p ≠ 0x02) (steps : List RecipeStep) :
    recipePart p steps = none := (if_neg notFirst).trans (if_neg notSecond)

end tableRead

/-- Settles O27: the reply is the entry's octets, whose loaded fields a recipe reads in parts. -/
theorem tableRead : Obligations.TableRead := by
  intro a index t s listens range
  dsimp only
  have answered : ∀ {part loaded}, (part.isSome = true ↔ tableCode t = tableCode .recipe) →
      s.loadedOctets t index.toNat part = some loaded → exec (.tableRead a (tableCode t) index part) s
        = .next (s.opened.closing a ⟨.ok, none, none, s.entryOctets t index.toNat loaded⟩) := by
    intro part loaded form loads
    rw [← entryOctets_opened]
    exact exec_tableRead_of_reply listens form (readTable_of_loaded range ((loadedOctets_opened _).trans loads))
  have whole : t ≠ .recipe → ((none : Option Octet).isSome = true ↔ tableCode t = tableCode .recipe) := fun other =>
    iff_of_false Bool.false_ne_true (other ∘ tableCode_eq_recipe.1)
  have parted : ∀ p : Octet, t = .recipe → ((some p).isSome = true ↔ tableCode t = tableCode .recipe) :=
    fun p recipe => iff_of_true rfl (tableCode_eq_recipe.2 recipe)
  refine ⟨fun other => ?table, fun recipe steps full => ?full, fun recipe empty => ?empty,
    fun recipe p notFirst notSecond => ?part, fun other out beyond => ?index, fun code unknown => ?code⟩
  case table => exact answered (whole other) (loadedOctets_of_ne other _)
  case full =>
    subst recipe
    constructor
    · have loads := loadedOctets_recipe (s := s) (n := index.toNat) (p := 0x01) rfl
      rw [full] at loads
      exact answered (parted 0x01 rfl) loads
    · have loads := loadedOctets_recipe (s := s) (n := index.toNat) (p := 0x02) rfl
      rw [full] at loads
      exact answered (parted 0x02 rfl) loads
  case empty =>
    subst recipe
    have loads := fun {p octets} => loadedOctets_recipe (s := s) (n := index.toNat) (p := p) (octets := octets)
    simp only [empty, Option.map_none] at loads
    exact ⟨answered (parted 0x01 rfl) (loads rfl), answered (parted 0x02 rfl) (loads rfl)⟩
  case part =>
    subst recipe
    refine exec_tableRead_of_reply listens (parted p rfl) (readTable_badPart range ?_)
    unfold State.loadedOctets
    dsimp only [Option.getD_some]
    rw [recipePart_eq_none notFirst notSecond]
  case index => exact exec_tableRead_of_reply listens (whole other) (readTable_badIndex beyond)
  case code =>
    exact exec_tableRead_of_reply listens
      (iff_of_false Bool.false_ne_true (ne_recipe_of_tableOfCode unknown)) (readTable_badTable unknown)

end Sys2Proof.Machine

/-! ## EVENT_FETCH (R195, R196) -/

namespace Sys2Proof.Machine

open Sys2Proof

section eventFetch

variable {s : State} {a : Ask} {count : Octet}

theorem fetchTake_of_within (asks : within 1 8 count.toNat = true) : fetchTake count s =
    ({ s with
      events := s.events.drop count.toNat
      overflow := false
      lastFetch := some ⟨s.events.take count.toNat, s.overflow⟩ },
      ⟨.ok, none, none,
        fetchOctets s.overflow (s.events.length - count.toNat) (s.events.take count.toNat)⟩) := by
  rw [← List.length_drop]
  exact if_pos asks

theorem fetchRepeat_of_within (asks : within 1 8 count.toNat = true) : fetchRepeat count s =
    (s, ⟨.ok, none, none, fetchOctets ((s.lastFetch.map Fetch.overflow).getD false) s.events.length
      ((s.lastFetch.map Fetch.records).getD [])⟩) := by
  unfold fetchRepeat
  rw [if_pos asks]
  cases s.lastFetch <;> rfl

/-- A count outside 1 to 8 performs nothing in either mode. -/
theorem fetch_of_not_within (out : within 1 8 count.toNat = false) :
    fetchTake count s = (s, ⟨.badRequest, none, none, []⟩)
      ∧ fetchRepeat count s = (s, ⟨.badRequest, none, none, []⟩) := by
  unfold fetchTake fetchRepeat
  rw [out]
  exact ⟨rfl, rfl⟩

end eventFetch

/-- Settles O40: by the count; a fetch that is repeated is read from the state as it stands. -/
theorem eventFetch : Obligations.EventFetch := by
  intro a count s listens
  dsimp only
  refine ⟨fun low high => ?asked, fun out i carries => ?badRequest⟩
  case asked =>
    have asks : within 1 8 count.toNat = true := within_iff.2 ⟨low, high⟩
    have repeats := requestArrives_refused (a := a) listens (fetchRepeat_of_within (s := s.opened) asks)
    refine ⟨?take, fun x last => ?last, fun never => ?never⟩
    case take =>
      have act := fetchTake_of_within (s := s.opened) asks
      have arrives := requestArrives_taken listens a (fetchTake count) (by rw [act]; exact listens.2.2)
      rw [act] at arrives
      exact congrArg Host.Outcome.next arrives
    case last =>
      rw [show s.opened.lastFetch = some x from last] at repeats
      exact congrArg Host.Outcome.next repeats
    case never =>
      rw [show s.opened.lastFetch = none from never] at repeats
      exact congrArg Host.Outcome.next repeats
  case badRequest =>
    have refused : within 1 8 count.toNat = false := by
      rw [Bool.eq_false_iff, Ne, within_iff]
      omega
    obtain ⟨take, again⟩ := fetch_of_not_within (s := s.opened) refused
    obtain rfl | rfl := carries
    · exact congrArg Host.Outcome.next (requestArrives_refused listens take)
    · exact congrArg Host.Outcome.next (requestArrives_refused listens again)

end Sys2Proof.Machine

/-! ## ROUND_READ (R81, R127, R188) -/

namespace Sys2Proof.Machine

open Sys2Proof

section roundRead

variable {s : State} {k : Slot}

theorem optOctet_eq (o : Option Nat) : optOctet o = (o.map octet).getD 0xFF := by cases o <;> rfl

/-- The results that pass are those that are true. -/
theorem countP_id_eq_count (w : List Bool) : w.countP id = w.count true :=
  List.countP_congr fun b _ => by simp

/-- The criterion states of R127, each with its position from `n + 1` on. -/
theorem criterionStates_eq (n : Nat) (cs : List Criterion) (xs : List CriterionState) :
    criterionStates (n + 1) cs xs
      = ((cs.zip xs).zipIdx n).flatMap fun x => criterionStateOctets (x.2 + 1) x.1.1 x.1.2 := by
  induction cs generalizing n xs with
  | nil => rfl
  | cons c cs ih =>
    cases xs with
    | nil => rfl
    | cons x xs => exact congrArg (criterionStateOctets (n + 1) c x ++ ·) (ih (n + 1) xs)

/-- The octets of a lift progress; the pulse and phase of one that is DONE are free (log 24). -/
theorem liftOctets_eq (free : Nat) (lift : LiftProgress) (timer : Timer) :
    liftOctets free lift timer = (match lift with
      | .active n pulse .lifted => [octet n, octet pulse, 0x00]
      | .active n pulse .closed => [octet n, octet pulse, 0x01]
      | .done => [0xFF, Config.liftDonePulse free, Config.liftDonePhase free]) ++ timerOctets timer := by
  cases lift with
  | done => rfl
  | active n pulse phase => cases phase <;> rfl

theorem windowOctets_eq (w : List Bool) : windowOctets w
    = [octet w.length, octet (w.count true)] ++ octets4 (bitsValue w) ++ octets4 (bitsValue w / 2 ^ 32) := by
  rw [windowOctets, countP_id_eq_count, show 2 ^ 32 = 4294967296 from rfl]

theorem criterionStateOctets_eq (n : Nat) (c : Criterion) (x : CriterionState) : criterionStateOctets n c x
    = [octet n, optOctet x.point, octet x.window.length, octet (x.window.count true), flagOctet (c.satisfied x)] := by
  rw [criterionStateOctets, countP_id_eq_count]

theorem readRound_named {slot : Octet} (named : slot.toNat = k.val) :
    readRound slot s = ({ s with freeCount := s.freeCount + 1 }, ⟨.ok, none, none, s.roundOctets k⟩) := by
  unfold readRound
  rw [slotAt_eq_some.2 named]
  rfl

theorem readRound_badIndex {slot : Octet} (out : 16 ≤ slot.toNat) :
    readRound slot s = (s, ⟨.badIndex, none, none, []⟩) := by
  unfold readRound
  rw [slotAt_eq_none_of_le out]
  rfl

end roundRead

/-- Settles O36: the octets of the record and its additions, part by part. -/
theorem roundRead : Obligations.RoundRead := by
  intro a slot s listens
  refine ⟨fun out => congrArg Host.Outcome.next (requestArrives_refused listens (readRound_badIndex out)),
    fun k named => ?_⟩
  have act := readRound_named (s := s.opened) named
  have arrives := requestArrives_taken listens a (readRound slot) (by rw [act]; exact listens.2.2)
  rw [act] at arrives
  refine (congrArg Host.Outcome.next arrives).trans (congrArg (fun octets => Host.Outcome.next
    (State.closing a ⟨.ok, none, none, octets⟩ { s.opened with freeCount := s.freeCount + 1 })) ?octets)
  show s.roundOctets k = _
  unfold State.roundOctets State.recordOctets State.roundAdditions State.waitsAt
  dsimp only
  generalize allStations.find? (fun st => (s.station st).queue.contains k) = waits
  simp only [criterionStates_eq, criterionStateOctets_eq, windowOctets_eq, liftOctets_eq, optOctet_eq,
    causeOctets, timerOctets, listOctets, List.map_eq_flatMap, flatMap_singleton_octets, List.append_assoc,
    List.cons_append, List.nil_append]
  cases waits <;> rfl

end Sys2Proof.Machine

/-! ## Every step keeps the bounds (R6, R17, R173, R193) -/

namespace Sys2Proof.Machine

open Sys2Proof

/-! ### What the bounds read -/

/-- The limits of a drive (R17). -/
def DriveEntry.limits (d : DriveEntry) : Nat × Nat := (d.minimum, d.maximum)

section bounds

variable {s t : State} {P : Slot → Prop} {Q : Prop}

/-- Where the miss counts, the limits of the drives and the configuration stay, the event queue alone is to be
bounded. -/
theorem bounded_of_events (events : t.events.length ≤ 64)
    (misses : Table.keys ValveEntry.misses t.valves = Table.keys ValveEntry.misses s.valves)
    (limits : Table.keys DriveEntry.limits t.drives = Table.keys DriveEntry.limits s.drives)
    (config : t.config = s.config) (bounded : s.bounded) : t.bounded := by
  obtain ⟨-, counted, ordered, configured⟩ := bounded
  have counts : ∀ y ∈ Table.keys ValveEntry.misses s.valves, y.2 ≤ 1 := List.forall_mem_map.2 counted
  have orders : ∀ y ∈ Table.keys DriveEntry.limits s.drives, y.2.1 ≤ y.2.2 := List.forall_mem_map.2 ordered
  exact ⟨events, List.forall_mem_map.1 (misses ▸ counts), List.forall_mem_map.1 (limits ▸ orders),
    config ▸ configured⟩

theorem bounded_foldl {β : Type} {f : State → β → State} (each : ∀ s x, s.bounded → (f s x).bounded) (l : List β) :
    ∀ s, s.bounded → (l.foldl f s).bounded := by
  induction l with
  | nil => exact fun _ => id
  | cons x l ih => exact fun s bounded => ih _ (each s x bounded)

theorem bounded_updValve (n : Nat) {f : ValveEntry → ValveEntry} (same : ∀ v, (f v).misses = v.misses)
    (bounded : s.bounded) : (s.updValve n f).bounded :=
  bounded_of_events (s := s) bounded.1 (Table.keys_adjust same _) rfl rfl bounded

theorem bounded_updDrive (n : Nat) {f : DriveEntry → DriveEntry} (same : ∀ d, (f d).limits = d.limits)
    (bounded : s.bounded) : (s.updDrive n f).bounded :=
  bounded_of_events (s := s) bounded.1 rfl (Table.keys_adjust same _) rfl bounded

theorem bounded_offer (e : Event) (bounded : s.bounded) : (s.offer e).bounded :=
  bounded_of_events (length_events_offer bounded.1) (by rw [State.offer_valves]) (by rw [State.offer_drives])
    (State.offer_config s e) bounded

/-- The work of the sequencer offers events; it writes no miss count, no limit and no configuration. -/
theorem bounded_of_work (w : Work P Q s t) (bounded : s.bounded) : t.bounded := by
  induction w with
  | refl => exact bounded
  | tail _ e ih =>
    cases e with
    | valve n f untouched =>
      have misses : ∀ v, (f v).misses = v.misses := fun v => (congrArg ValveEntry.misses (untouched v) :)
      exact bounded_updValve n misses ih
    | drive n f untouched =>
      have limits : ∀ d, (f d).limits = d.limits := fun d => (congrArg DriveEntry.limits (untouched d) :)
      exact bounded_updDrive n limits ih
    | offer e => exact bounded_offer e ih
    | round | station | header => exact ih

/-- Work whose rounds and quiet need no telling. -/
theorem bounded_of_anyWork (w : Work (fun _ => True) True s t) (bounded : s.bounded) : t.bounded :=
  bounded_of_work w bounded

theorem bounded_commandValve (n : Nat) (x : Position) (bounded : s.bounded) : (s.commandValve n x).bounded :=
  bounded_of_anyWork (.commandValve .rfl' n x) bounded

theorem bounded_commandDrive (n value : Nat) (bounded : s.bounded) : (s.commandDrive n value).bounded :=
  bounded_of_anyWork (.commandDrive .rfl' n value) bounded

theorem bounded_cascade (ts : List Task) (bounded : s.bounded) : (s.cascade ts).bounded :=
  bounded_of_work (.anyCascade .rfl' ts) bounded

theorem bounded_enter (k : Slot) (st : RoundState) (bounded : s.bounded) : (s.enter k st).bounded :=
  bounded_of_anyWork (.enter .rfl' trivial st) bounded

theorem bounded_pass (n : Nat) (bounded : s.bounded) : (s.pass n).bounded := by
  rw [State.pass_eq]
  exact bounded

theorem bounded_expire {effect : State → State} (keeps : ∀ u, u.bounded → (effect u).bounded) (x : Timer)
    (bounded : s.bounded) : (s.expire x effect).bounded := by
  unfold State.expire
  split
  · exact keeps _ (bounded_pass _ bounded)
  · exact bounded

/-- A state with no valve and no drive, and the default configuration (R6, R199, R202). -/
theorem bounded_of_empty (events : s.events.length ≤ 64) (valves : s.valves = []) (drives : s.drives = [])
    (config : s.config = defaultConfig) : s.bounded := by
  refine ⟨events, fun x mem => ?_, fun x mem => ?_, ?_⟩
  · simp [valves] at mem
  · simp [drives] at mem
  · rw [config]
    decide

end bounds

/-! ### Claims given and given up -/

section claims

variable {s : State} {k : Slot}

theorem bounded_setSegStates (l : List Nat) (st : SegmentState) (bounded : s.bounded) :
    (s.setSegStates l st).bounded :=
  bounded_foldl (f := fun s n => s.setSegState n st) (fun _ _ => id) l s bounded

theorem bounded_clearOwners (k : Slot) (bounded : s.bounded) : (s.clearOwners k).bounded := by
  refine bounded_of_events (s := s) bounded.1 ?_ rfl rfl bounded
  unfold State.clearOwners
  dsimp only
  refine Table.keys_each (fun _ v => ?_) s.valves
  split <;> rfl

theorem bounded_takeClaim (r : Route) (bounded : s.bounded) : (s.takeClaim k r).bounded := by
  have claimed : (State.setSegStates r.segments (.claimed k)
      { s with claimQueue := s.claimQueue.filter (· != k) }).bounded := bounded_setSegStates _ _ bounded
  exact bounded_foldl (f := fun s n => s.ownValve (some k) n) (fun _ n => bounded_updValve n fun _ => rfl) _ _ claimed

theorem bounded_grantClaim (bounded : s.bounded) : (s.grantClaim k).bounded := by
  unfold State.grantClaim
  split
  next => exact bounded
  next r _ =>
    have commanded : ((s.takeClaim k r).commandValves r.positions).bounded :=
      bounded_of_anyWork (.commandValves .rfl' _) (bounded_takeClaim r bounded)
    have switched : ∀ h, (((s.takeClaim k r).commandValves r.positions).switch h .drain).bounded := fun h =>
      bounded_of_anyWork (.switch .rfl' h _) commanded
    dsimp only
    split
    · exact bounded_cascade _ (bounded_enter _ _ commanded)
    · split
      · exact bounded_enter _ _ (switched _)
      · exact bounded_of_anyWork (.enterHolding .rfl' trivial _) (switched _)

theorem bounded_walkFrom (waiting : List Slot) : ∀ (older : List Slot) (s : State), s.bounded →
    (State.walkFrom waiting older s).bounded := by
  induction waiting with
  | nil => exact fun _ _ => id
  | cons k waiting ih =>
    intro older s bounded
    unfold State.walkFrom
    split
    · exact ih _ _ (bounded_grantClaim bounded)
    · exact ih _ _ bounded

theorem bounded_walk (bounded : s.bounded) : s.walk.bounded := bounded_walkFrom _ _ s bounded

theorem bounded_startRound (recipe route : Nat) (grade : RoundClass) (bounded : s.bounded) :
    (s.startRound k recipe route grade).bounded := by
  unfold State.startRound
  exact bounded_walk (bounded_enter k _ bounded)

theorem bounded_giveUpClaim (st : SegmentState) (bounded : s.bounded) : (s.giveUpClaim k st).bounded := by
  have released : ∀ h, (s.releaseHeader h).bounded := fun h => bounded_of_anyWork (.releaseHeader .rfl' h) bounded
  have given : ∀ u : State, u.bounded → (match u.routeOf k with
      | some r => u.setSegStates r.segments st
      | none => u).bounded := by
    intro u bounded
    split
    · exact bounded_setSegStates _ _ bounded
    · exact bounded
  unfold State.giveUpClaim
  cases (s.round k).header with
  | none => exact bounded_clearOwners k (given s bounded)
  | some h => exact bounded_clearOwners k (given _ (released h))

theorem bounded_enterDone (bounded : s.bounded) : (s.enterDone k).bounded := by
  unfold State.enterDone
  exact bounded_enter k .done bounded

theorem bounded_finishRound (bounded : s.bounded) : (s.finishRound k).bounded :=
  bounded_walk (bounded_enterDone (bounded_giveUpClaim _ bounded))

theorem bounded_releaseBreach (bounded : s.bounded) : (s.releaseBreach k).bounded :=
  bounded_enterDone (s := (s.giveUpClaim k (.suspect .breach)).updRound k _) (bounded_giveUpClaim _ bounded)

theorem bounded_abandonWait (bounded : s.bounded) : (s.abandonWait k).bounded :=
  bounded_enterDone (s := State.updRound k _ _)
    (bounded_walk (s := { s with claimQueue := s.claimQueue.filter (· != k) }) bounded)

end claims

/-! ### The frame path -/

section frames

variable {s : State}

theorem bounded_sendF (octets : List Octet) (bounded : s.bounded) : (s.sendF octets).bounded := bounded

theorem bounded_sendU (x : SentU) (bounded : s.bounded) : (s.sendU x).bounded := bounded

theorem bounded_override (k : Slot) (differs : Bool) (subject : Subject) (value : EventValue) (bounded : s.bounded) :
    (s.override k differs subject value).bounded := by
  unfold State.override
  split
  · exact bounded_offer _ bounded
  · exact bounded

theorem bounded_storeRequest (n : Nat) (p : Option Position) (bounded : s.bounded) :
    (s.storeRequest n p).bounded := by
  cases p with
  | none => exact bounded
  | some q => exact bounded_updValve n (fun _ => rfl) bounded

theorem bounded_settleOwned (n : Nat) (k : Slot) (out : Position) (p : Option Position) (bounded : s.bounded) :
    (s.settleOwned n k out p).bounded := by
  cases p with
  | none => exact bounded_commandValve n out bounded
  | some q => exact bounded_override _ _ _ _ (bounded_commandValve n out bounded)

theorem bounded_settleLocked (n : Nat) (v : ValveEntry) (out : Position) (p : Option Position) (bounded : s.bounded) :
    (s.settleLocked n v out p).bounded := by
  have commanded := bounded_commandValve n out bounded
  cases p with
  | none => exact commanded
  | some q =>
    show (State.block n v out q (s.commandValve n out)).bounded
    unfold State.block
    split
    · exact bounded_offer _ commanded
    · exact commanded

theorem bounded_settleValve (n : Nat) (p : Option Position) (bounded : s.bounded) : (s.settleValve n p).1.bounded := by
  have stored := bounded_storeRequest n p bounded
  unfold State.settleValve
  split
  · exact bounded
  · dsimp only
    split
    · exact bounded_settleOwned _ _ _ _ stored
    · split
      · exact bounded_settleLocked _ _ _ _ stored
      · cases p with
        | none => exact stored
        | some q => exact bounded_commandValve n q stored

theorem bounded_settleOwnedDrive (n : Nat) (k : Slot) (out value : Option Nat) (bounded : s.bounded) :
    (s.settleOwnedDrive n k out value).bounded := by
  have commanded : (match out with
      | some c => s.commandDrive n c
      | none => s).bounded := by
    cases out with
    | none => exact bounded
    | some c => exact bounded_commandDrive n c bounded
  cases value with
  | none => exact commanded
  | some v => exact bounded_override _ _ _ _ commanded

theorem bounded_settleDrive (n : Nat) (value : Option Nat) (bounded : s.bounded) :
    (s.settleDrive n value).1.bounded := by
  have stored : ∀ v, (s.updDrive n fun d => { d with requested := some v }).bounded := fun v =>
    bounded_updDrive n (fun _ => rfl) bounded
  unfold State.settleDrive
  split
  next => exact bounded
  next d _ =>
    cases value with
    | none =>
      dsimp only
      split
      · exact bounded_settleOwnedDrive _ _ _ _ bounded
      · exact bounded
    | some v =>
      dsimp only
      split
      · exact bounded_settleOwnedDrive _ _ _ _ (stored v)
      · dsimp only
        split
        · exact bounded_commandDrive _ _ (stored v)
        · exact bounded_offer _ (bounded_commandDrive _ _ (stored v))

/-- A frame's entries keep the bounds when each of them does. -/
theorem bounded_runSlots {α β : Type} {one : Nat → α → State → State × β}
    (each : ∀ t j y, t.bounded → (one j y t).1.bounded) (first : Nat) (l : List α) (bounded : s.bounded) :
    (runSlots one first l s).1.bounded :=
  runSlots_keeps (I := fun s t => s.bounded → t.bounded) (J := fun _ _ => True) (s := s) (fun _ => id)
    (fun _ _ _ before after => after ∘ before) (fun _ _ _ _ => trivial) l trivial
    (fun t j y _ _ _ => each t j y) bounded

theorem bounded_settleValves (a : Octet) (slot : Nat) (l : List (Option Position)) (bounded : s.bounded) :
    (s.settleValves a slot l).1.bounded := by
  rw [settleValves_eq]
  refine bounded_runSlots (fun t j p bounded => ?_) slot l bounded
  unfold State.settleSlot
  split
  · exact bounded_settleValve _ _ bounded
  · exact bounded

theorem bounded_settleDrives (a : Octet) (channel : Nat) (l : List (Option Nat)) (bounded : s.bounded) :
    (s.settleDrives a channel l).1.bounded := by
  rw [settleDrives_eq]
  refine bounded_runSlots (fun t j p bounded => ?_) channel l bounded
  unfold State.settleChannel
  split
  · exact bounded_settleDrive _ _ bounded
  · exact bounded

theorem bounded_rebuildValves (a : Octet) (count slot : Nat) (bounded : s.bounded) :
    (s.rebuildValves a count slot).1.bounded := by
  rw [rebuildValves_eq]
  refine bounded_runSlots (fun t j _ bounded => ?_) slot _ bounded
  unfold State.rebuildSlot State.rebuildValve
  split
  · exact bounded
  · split
    · exact bounded
    · exact bounded_commandValve _ _ bounded

theorem bounded_rebuildDrives (a : Octet) (count channel : Nat) (bounded : s.bounded) :
    (s.rebuildDrives a count channel).1.bounded := by
  rw [rebuildDrives_eq]
  refine bounded_runSlots (fun t j _ bounded => ?_) channel _ bounded
  unfold State.rebuildChannel State.rebuildDrive
  split
  · exact bounded
  · split
    · exact bounded_commandDrive _ _ bounded
    · exact bounded

theorem bounded_rebuild (a : Octet) (cause : RebuildCause) (bounded : s.bounded) : (s.rebuild a cause).bounded := by
  have drives := bounded_rebuildDrives a 4 0 bounded
  have valves := bounded_rebuildValves a 16 0 bounded
  unfold State.rebuild
  dsimp only
  split
  · dsimp only
    exact bounded_offer _ (bounded_sendF _ drives)
  · dsimp only
    exact bounded_offer _ (bounded_sendF _ valves)

theorem bounded_wrongForm (f : Frame) (octets : List Octet) (bounded : s.bounded) :
    (s.wrongForm f octets).bounded := by
  unfold State.wrongForm
  split
  · exact bounded_rebuild _ _ bounded
  · exact bounded

theorem bounded_relayGood (f : Frame) (octets : List Octet) (bounded : s.bounded) :
    (s.relayGood f octets).bounded := by
  unfold State.relayGood State.relayCommand
  split
  · split
    · split
      · exact bounded_sendF _ (bounded_settleValves f.dest 0 _ bounded)
      · exact bounded_wrongForm _ _ bounded
    · split
      · exact bounded_sendF _ (bounded_settleDrives f.dest 0 _ bounded)
      · exact bounded_wrongForm _ _ bounded
    · exact bounded
  · exact bounded

theorem bounded_relayBad (octets : List Octet) (bounded : s.bounded) : (s.relayBad octets).bounded := by
  unfold State.relayBad
  split
  · split
    · exact bounded_rebuild _ _ bounded
    · exact bounded
  · exact bounded

theorem bounded_linkHeard (bounded : s.bounded) : s.linkHeard.bounded := by
  by_cases silent : s.linkSilent = true
  · exact bounded_of_work (linkHeard_work s silent) bounded
  · unfold State.linkHeard
    rw [if_neg silent]
    exact bounded

theorem bounded_linkExpires (bounded : s.bounded) : s.linkExpires.bounded :=
  bounded_of_work (linkExpires_work s) bounded

/-- Silence blanks what is fed back (R162), and no limit and no count. -/
theorem bounded_nodeExpires (i : Nat) (a : Octet) (bounded : s.bounded) : (s.nodeExpires i a).bounded := by
  refine bounded_of_work (nodeExpires_work s i a) (bounded_of_events (s := s) bounded.1 ?valves ?drives rfl bounded)
  all_goals
    unfold State.blankNode
    dsimp only
    refine Table.keys_each (fun _ x => ?_) _
    split <;> rfl

theorem bounded_writeValves (a : Octet) (l : List Feedback) : ∀ (slot : Nat) (s : State), s.bounded →
    (s.writeValves a slot l).bounded := by
  induction l with
  | nil => exact fun _ _ => id
  | cons x l ih =>
    intro slot s bounded
    unfold State.writeValves
    refine ih _ _ ?_
    split
    · exact bounded_updValve _ (fun _ => rfl) bounded
    · exact bounded

theorem bounded_writeDrives (a : Octet) (l : List (DriveStatus × Nat)) : ∀ (channel : Nat) (s : State), s.bounded →
    (s.writeDrives a channel l).bounded := by
  induction l with
  | nil => exact fun _ _ => id
  | cons x l ih =>
    intro channel s bounded
    unfold State.writeDrives
    refine ih _ _ ?_
    split
    · exact bounded_updDrive _ (fun _ => rfl) bounded
    · exact bounded

theorem bounded_writePoints (a : Octet) (l : List (Nat × Quality × Nat)) : ∀ s : State, s.bounded →
    (s.writePoints a l).bounded := by
  induction l with
  | nil => exact fun _ => id
  | cons x l ih =>
    intro s bounded
    unfold State.writePoints
    refine ih _ ?_
    split <;> exact bounded

theorem bounded_writeReading (a : Octet) (r : Reading) (bounded : s.bounded) : (s.writeReading a r).bounded := by
  cases r with
  | valves l => exact bounded_writeValves a l 0 s bounded
  | drives l => exact bounded_writeDrives a l 0 s bounded
  | points l => exact bounded_writePoints a l s bounded

theorem bounded_arriveF (octets : List Octet) (bounded : s.bounded) : (s.arriveF octets).bounded := by
  unfold State.arriveF
  refine bounded_sendU _ ?_
  split
  next x _ =>
    obtain ⟨i, e, r⟩ := x
    have heard : (s.hearNode i e).bounded := bounded_of_work (hearNode_work s i e) bounded
    exact bounded_of_work (deliver_work (s.imaged i e r) e.address r) (bounded_writeReading _ _ heard)
  next => exact bounded

end frames

/-! ### The proof scan (R169 to R177) -/

section scan

variable {s : State}

theorem bounded_arrive (x : Handover) (bounded : s.bounded) : (s.arrive x).bounded := by
  cases x with
  | marking n =>
    unfold State.arrive State.markBreach
    dsimp only
    split
    · exact bounded_walk (s := s.setSegState n _) bounded
    · exact bounded
    · exact bounded
  | breach k n | mismatch k n => exact bounded_cascade _ bounded

theorem bounded_takeHanded (bounded : s.bounded) : s.takeHanded.bounded :=
  bounded_foldl (fun _ => bounded_arrive) s.handed { s with handed := [] } bounded

theorem bounded_handOver (waits : Bool) (l : List Handover) (bounded : s.bounded) :
    (s.handOver waits l).bounded := by
  cases waits with
  | true => exact bounded
  | false => exact bounded_takeHanded (s := { s with handed := s.handed ++ l, freeCount := s.freeCount + 1 }) bounded

theorem bounded_judgeValve (waits : Bool) (n : Nat) (v : ValveEntry) (want : Feedback) (bounded : s.bounded) :
    (s.judgeValve waits n v want).bounded := by
  unfold State.judgeValve
  split
  · exact bounded_handOver _ _ (bounded_offer _ bounded)
  · split
    · exact bounded_handOver _ _ bounded
    · exact bounded_offer _ bounded

/-- A miss count is written as 0 or 1 (R172, R173). -/
theorem bounded_setMisses (n : Nat) {count : Nat} (small : count ≤ 1) (bounded : s.bounded) :
    (s.setMisses n count).bounded := by
  obtain ⟨events, misses, limits, config⟩ := bounded
  refine ⟨events, fun x mem => ?_, limits, config⟩
  obtain ⟨y, old, rfl⟩ := List.mem_map.1 mem
  split
  · exact small
  · exact misses y old

theorem bounded_visit (waits : Bool) (n : Nat) (v : ValveEntry) (bounded : s.bounded) :
    (s.visit waits n v).bounded := by
  have cleared : (s.setMisses n 0).bounded := bounded_setMisses n (Nat.zero_le 1) bounded
  unfold State.visit
  split
  · exact cleared
  · split
    · exact cleared
    · split
      · exact bounded_setMisses n (Nat.le_refl 1) bounded
      · exact bounded_judgeValve _ _ _ _ cleared

theorem bounded_scan (bounded : s.bounded) : s.scan.bounded := by
  have cleared : (State.clearPassed { s with visitTimer := Timer.start s.config.visitPeriod.toNat }).bounded :=
    bounded_foldl (f := fun s n => s.setMisses n 0) (fun _ n => bounded_setMisses n (Nat.zero_le 1)) _
      { s with visitTimer := Timer.start s.config.visitPeriod.toNat } bounded
  unfold State.scan State.scanWith
  dsimp only
  split
  · exact bounded_visit _ _ _ cleared
  · exact cleared

end scan

/-! ### Taken table writes -/

section writes

variable {s : State}

/-- A valve as written starts at 0 misses, or keeps the count of the entry it rewrites in place (R15). -/
theorem misses_valveEntryOf (f : ValveFields) (old : Option ValveEntry) :
    (valveEntryOf f old).misses = 0 ∨ ∃ e, old = some e ∧ (valveEntryOf f old).misses = e.misses := by
  unfold valveEntryOf
  split
  next e =>
    dsimp only
    split
    · exact .inr ⟨e, rfl, rfl⟩
    · exact .inl rfl
  next => exact .inl rfl

theorem limits_driveEntryOf (f : DriveFields) (old : Option DriveEntry) :
    (driveEntryOf f old).limits = (f.minimum.toNat, f.maximum.toNat) := by
  unfold driveEntryOf
  split
  · dsimp only
    split
    · split <;> rfl
    · rfl
  · rfl

/-- A drive that passes its checks has its minimum not above its maximum (R17). -/
theorem bounded_putContent {n : Nat} {content : Content} (checks : firstFailure (s.contentChecks n content) = none)
    (bounded : s.bounded) : (s.putContent n content).bounded := by
  obtain ⟨events, misses, limits, config⟩ := id bounded
  cases content with
  | valve f =>
    refine ⟨events, fun x mem => ?_, limits, config⟩
    obtain rfl | old := Table.mem_put mem
    · obtain zero | ⟨e, found, kept⟩ := misses_valveEntryOf f (Table.entry s.valves n)
      · exact zero ▸ Nat.zero_le 1
      · exact kept ▸ misses _ (Table.mem_of_entry found)
    · exact misses x old
  | drive f =>
    obtain ⟨-, ordered, -⟩ := driveChecks_pass checks
    refine ⟨events, misses, fun x mem => ?_, config⟩
    obtain rfl | old := Table.mem_put mem
    · obtain ⟨minimum, maximum⟩ := Prod.mk.inj (limits_driveEntryOf f (Table.entry s.drives n))
      exact minimum ▸ maximum ▸ ordered
    · exact limits x old
  | station f | header f =>
    unfold State.putContent
    dsimp only
    split <;> exact bounded
  | nodeMap | segment | point | route | recipe => exact bounded

theorem bounded_removeEntry (table : TableId) (n : Nat) (bounded : s.bounded) : (s.removeEntry table n).bounded := by
  obtain ⟨events, misses, limits, config⟩ := id bounded
  cases table with
  | valve => exact ⟨events, fun x mem => misses x (List.mem_of_mem_filter mem), limits, config⟩
  | drive => exact ⟨events, misses, fun x mem => limits x (List.mem_of_mem_filter mem), config⟩
  | station | header =>
    unfold State.removeEntry
    dsimp only
    split <;> exact bounded
  | nodeMap | segment | point | route | recipe => exact bounded

theorem bounded_takeWrite {w : TableWrite} (taken : s.refuseWrite w = none) (bounded : s.bounded) :
    (s.takeWrite w).bounded := by
  have applied : (s.applyWrite w).bounded := by
    cases w with
    | unknown code => exact bounded
    | empty table index => exact bounded_removeEntry table _ bounded
    | full index content =>
      obtain ⟨-, -, checks⟩ := refuseWrite_full.1 taken
      exact bounded_putContent checks bounded
  unfold State.takeWrite
  dsimp only
  split
  · exact bounded_walk applied
  · exact applied

/-- A configuration record is taken past the judgement of R6 alone. -/
theorem configFailure_of_taken {c : ConfigRecord} (taken : s.refuseConfig c = none) : configFailure c = none := by
  cases failure : configFailure c with
  | none => rfl
  | some f => cases (refuseConfig_of_failure failure).symm.trans taken

theorem bounded_writeConfig {c : ConfigRecord} (taken : s.refuseConfig c = none) (bounded : s.bounded) :
    State.bounded { s with config := c } := by
  obtain ⟨events, misses, limits, -⟩ := bounded
  exact ⟨events, misses, limits, configFailure_of_taken taken⟩

end writes

end Sys2Proof.Machine

namespace Sys2Proof.Machine

open Sys2Proof

/-! ### Requests -/

section requests

variable {s t : State} {k : Slot}

/-- An action that keeps the bounds. -/
def Action.keepsBounds (act : Action) : Prop := ∀ s : State, s.bounded → (act s).1.bounded

theorem bounded_requestArrives {act : Action} (keeps : act.keepsBounds) (a : Ask) (bounded : s.bounded) :
    (s.requestArrives a act).bounded := by
  refine bounded_linkHeard ?_
  unfold State.takeRequest
  split
  · exact bounded
  · split
    · exact bounded
    · exact keeps { s with rxU := [], bufferHeld := true } bounded

theorem badRequest_keepsBounds : badRequest.keepsBounds := fun _ => id

theorem bounded_pauseRound (paused : pauseRound k s = some t) (bounded : s.bounded) : t.bounded := by
  have suspended : (s.suspend k).bounded := bounded_of_anyWork (suspend_work trivial) bounded
  unfold pauseRound at paused
  split at paused
  · exact Option.some.inj paused ▸ suspended
  · exact Option.some.inj paused ▸ suspended
  · cases paused

theorem bounded_resumeRound (resumed : resumeRound k s = some t) (bounded : s.bounded) : t.bounded := by
  unfold resumeRound at resumed
  split at resumed
  · exact Option.some.inj resumed ▸ bounded_cascade (s := s.updRound k _) _ bounded
  · cases resumed

theorem bounded_abortRound (aborted : abortRound k s = some t) (bounded : s.bounded) : t.bounded := by
  have ending : (s.cascade [.ending k .aborted]).bounded := bounded_cascade _ bounded
  have waiting : ((s.leaveQueues k).cascade [.ending k .aborted]).bounded :=
    bounded_of_work (.anyCascade (.leaveQueues .rfl' trivial) _) bounded
  unfold abortRound at aborted
  cases state : (s.round k).state <;> rw [state] at aborted <;> dsimp only at aborted
  case idle | done | faulted => cases aborted
  case waitRoute => exact Option.some.inj aborted ▸ bounded_abandonWait bounded
  case waitStation => exact Option.some.inj aborted ▸ waiting
  case setting | stepFill | stepTiming | paused => exact Option.some.inj aborted ▸ ending
  case ending => exact Option.some.inj aborted ▸ bounded
  case holding =>
    split at aborted
    · exact Option.some.inj aborted ▸ bounded
    · exact Option.some.inj aborted ▸ ending

theorem bounded_releaseRound (released : releaseRound k s = some t) (bounded : s.bounded) : t.bounded := by
  unfold releaseRound at released
  split at released
  · split at released
    · exact Option.some.inj released ▸ bounded_releaseBreach bounded
    · exact Option.some.inj released ▸ bounded_cascade (s := s.updRound k _) _ bounded
  · cases released

theorem bounded_clearRound (cleared : clearRound k s = some t) (bounded : s.bounded) : t.bounded := by
  unfold clearRound at cleared
  split at cleared
  · exact Option.some.inj cleared ▸ bounded_enter (s := s.updRound k _) k .idle bounded
  · cases cleared

theorem control_keepsBounds {act : Slot → State → Option State}
    (keeps : ∀ {k s t}, act k s = some t → s.bounded → t.bounded) (slot : Octet) :
    (control act slot).keepsBounds := by
  intro s bounded
  unfold control
  split
  · exact bounded
  · split
    next outcome => exact keeps outcome bounded
    next => exact bounded

theorem controlAction_keepsBounds (slot action : Octet) : (controlAction slot action).keepsBounds := by
  unfold controlAction
  split
  · exact control_keepsBounds bounded_pauseRound slot
  · exact control_keepsBounds bounded_resumeRound slot
  · exact control_keepsBounds bounded_abortRound slot
  · exact control_keepsBounds bounded_releaseRound slot
  · exact control_keepsBounds bounded_clearRound slot
  · intro s bounded
    dsimp only
    split <;> exact bounded

theorem startAction_keepsBounds (slot recipe route cls : Octet) :
    (startAction slot recipe route cls).keepsBounds := by
  intro s bounded
  unfold startAction
  split
  · exact bounded
  · split
    · exact bounded
    · split
      · exact bounded
      · split
        · exact bounded
        · split
          · exact bounded
          · exact bounded_startRound _ _ _ bounded

theorem onSegment_keepsBounds {act : Nat → SegmentState → Action} (keeps : ∀ n st, (act n st).keepsBounds)
    (segment : Octet) : (onSegment segment act).keepsBounds := by
  intro s bounded
  unfold onSegment
  split
  · split
    · exact keeps _ _ s bounded
    · exact bounded
  · exact bounded

/-- A segment that becomes FREE, and the walk that follows (R60, R62). -/
theorem bounded_setFree (n : Nat) (bounded : s.bounded) : (s.setSegState n .free).walk.bounded :=
  bounded_walk (s := s.setSegState n .free) bounded

theorem markAction_keepsBounds (segment mark : Octet) : (markAction segment mark).keepsBounds := by
  unfold markAction
  split
  · refine onSegment_keepsBounds (fun n st s bounded => ?_) segment
    unfold markFree
    split
    · exact bounded
    · exact bounded_setFree n bounded
    · exact bounded
  · refine onSegment_keepsBounds (fun n st s bounded => ?_) segment
    unfold markProduct
    split
    · split <;> exact bounded
    · exact bounded
    · exact bounded
  · exact onSegment_keepsBounds (fun _ _ => badRequest_keepsBounds) segment

theorem clearSuspect_keepsBounds (n : Nat) (st : SegmentState) : (clearSuspect n st).keepsBounds := by
  intro s bounded
  unfold clearSuspect
  split
  · exact bounded_setFree n bounded
  · exact bounded

/-- A fetch takes records from the queue and adds none (R195). -/
theorem fetchAction_keepsBounds (mode count : Octet) : (fetchAction mode count).keepsBounds := by
  unfold fetchAction
  split <;> intro s bounded
  · unfold fetchTake
    split
    · obtain ⟨events, rest⟩ := bounded
      exact ⟨(List.drop_sublist _ _).length_le.trans events, rest⟩
    · exact bounded
  · unfold fetchRepeat
    split
    · split <;> exact bounded
    · exact bounded
  · exact bounded

/-! RESTART (R204) writes segment states, records, owners, grant states and headers, and empties the queue. -/

theorem bounded_suspectRoute (bounded : s.bounded) : (s.suspectRoute k).bounded := by
  unfold State.suspectRoute
  split
  · exact bounded_setSegStates _ _ bounded
  · exact bounded

theorem bounded_dropRound (bounded : s.bounded) : (s.dropRound k).bounded := by
  unfold State.dropRound
  split <;> exact bounded

theorem bounded_dropOwners (bounded : s.bounded) : s.dropOwners.bounded :=
  have misses := Table.keys_each (f := fun _ v => { v with owner := none }) (key := ValveEntry.misses)
    (fun _ _ => rfl) s.valves
  have limits := Table.keys_each (f := fun _ d => { d with owner := none }) (key := DriveEntry.limits)
    (fun _ _ => rfl) s.drives
  bounded_of_events (s := s) bounded.1 misses limits rfl bounded

theorem bounded_freeAll (bounded : s.bounded) : s.freeAll.bounded :=
  bounded_foldl (f := fun s h => s.updHeader h fun x => { Header.empty with load := x.load }) (fun _ _ => id)
    allHeaders _ (bounded_foldl
      (f := fun s k => s.updStation k fun x => { x with granted := none, linked := false }) (fun _ _ => id)
      allStations s bounded)

theorem bounded_restarted (bounded : s.bounded) : s.restarted.bounded := by
  obtain ⟨-, rest⟩ := bounded
  exact bounded_offer (s := { s with staging := none, lastFetch := none, events := [], overflow := false }) _
    ⟨Nat.zero_le _, rest⟩

theorem bounded_restartAll (bounded : s.bounded) : s.restartAll.bounded := by
  have suspected := bounded_foldl (fun _ k => bounded_suspectRoute (k := k)) allSlots s bounded
  have dropped := bounded_foldl (fun _ k => bounded_dropRound (k := k)) allSlots _ suspected
  exact bounded_restarted (bounded_freeAll (bounded_dropOwners dropped))

/-- Every request of the table (R183). -/
theorem actionOf_keepsBounds (r : Request) : (actionOf r).keepsBounds := by
  intro s bounded
  cases r with
  | configRead => exact bounded
  | roundStart slot recipe route cls => exact startAction_keepsBounds slot recipe route cls s bounded
  | roundControl slot action => exact controlAction_keepsBounds slot action s bounded
  | segmentMark segment mark => exact markAction_keepsBounds segment mark s bounded
  | suspectClear segment => exact onSegment_keepsBounds clearSuspect_keepsBounds segment s bounded
  | eventFetch mode count => exact fetchAction_keepsBounds mode count s bounded
  | configWrite record =>
    unfold actionOf writeConfig
    dsimp only
    split
    next => exact bounded
    next taken => exact bounded_writeConfig taken bounded
  | tableWrite w =>
    unfold actionOf writeTable1
    dsimp only
    split
    next => exact bounded
    next taken =>
      rw [dropStaging_eq]
      refine bounded_takeWrite (s := { s with staging := stagingAfter w s.staging }) (Eq.trans ?_ taken) bounded
      cases w <;> rfl
  | recipeFirstPart index count steps =>
    unfold actionOf stageFirst
    dsimp only
    split <;> exact bounded
  | recipeSecondPart index steps =>
    unfold actionOf completeRecipe
    dsimp only
    split
    · exact bounded
    · split
      · exact bounded
      · split
        next => exact bounded
        next taken => exact bounded_takeWrite (s := { s with staging := none }) taken bounded
  | tableRead table index part =>
    unfold actionOf readTable
    dsimp only
    split
    · exact bounded
    · split
      · exact bounded
      · split <;> exact bounded
  | roundRead slot =>
    unfold actionOf readRound
    dsimp only
    split <;> exact bounded
  | restart =>
    unfold actionOf restartAction
    dsimp only
    split
    · exact bounded
    · exact bounded_restartAll bounded

theorem frameAction_keepsBounds (f : Frame) : (frameAction f).keepsBounds := by
  unfold frameAction
  split
  · split
    · exact actionOf_keepsBounds _
    · exact badRequest_keepsBounds
  · exact badRequest_keepsBounds

theorem bounded_arriveU (octets : List Octet) (bounded : s.bounded) : (s.arriveU octets).bounded := by
  unfold State.arriveU
  split
  · split
    · exact bounded_requestArrives (frameAction_keepsBounds _) _ bounded
    · exact bounded_linkHeard (bounded_relayGood _ _ bounded)
  · exact bounded_relayBad _ bounded

end requests

/-! ### The image -/

section image

variable {s t : State}

theorem bounded_imageBad (cause : ImageCause) (record : Option Nat) (bounded : s.bounded) :
    (s.imageBad cause record).bounded := bounded_offer (s := s) _ bounded

theorem bounded_imageLoaded (applied : Nat) (bounded : s.bounded) : (s.imageLoaded applied).bounded :=
  bounded_offer (s := s) _ bounded

theorem bounded_readHeader (octets : List Octet) (bounded : s.bounded) : (s.readHeader octets).bounded := by
  unfold State.readHeader
  split
  · split
    · exact bounded
    · split
      · exact bounded_offer (s := s) _ bounded
      · exact bounded_imageBad _ _ bounded
  · exact bounded_imageBad _ _ bounded

theorem bounded_endFirstPass (length : Nat) (check : Word16) (octets : List Octet) (bounded : s.bounded) :
    (s.endFirstPass length check octets).bounded := by
  unfold State.endFirstPass
  split
  · exact bounded_imageBad _ _ bounded
  · split
    · exact bounded_imageBad _ _ bounded
    · split
      · exact bounded_imageLoaded _ bounded
      · exact bounded

/-- A record that fails leaves empty tables and the default configuration (R202). -/
theorem bounded_failRecord (cause : ImageCause) (record : Nat) (bounded : s.bounded) :
    (s.failRecord cause record).bounded :=
  bounded_imageBad _ _ (bounded_of_empty (s := s.emptyTables) bounded.1 rfl rfl rfl)

theorem bounded_applyRecord {r : ImageRecord} (applied : s.applyRecord r = some t) (bounded : s.bounded) :
    t.bounded := by
  unfold State.applyRecord at applied
  split at applied
  · split at applied
    next => cases applied
    next taken => exact Option.some.inj applied ▸ bounded_writeConfig taken bounded
  · split at applied
    next => cases applied
    next taken => exact Option.some.inj applied ▸ bounded_takeWrite taken bounded

theorem bounded_takeRecord (length position applied n : Nat) (octets : List Octet) (bounded : s.bounded) :
    (s.takeRecord length position applied n octets).bounded := by
  unfold State.takeRecord
  split
  next => exact bounded_failRecord _ _ bounded
  next t taken =>
    obtain ⟨r, -, applies⟩ := Option.bind_eq_some_iff.1 taken
    have after := bounded_applyRecord applies bounded
    split
    · exact bounded_imageLoaded _ after
    · exact after

theorem bounded_readRecord (length position applied : Nat) (octets : List Octet) (bounded : s.bounded) :
    (s.readRecord length position applied octets).bounded := by
  unfold State.readRecord
  dsimp only
  split
  · exact bounded_failRecord _ _ bounded
  · split <;> exact bounded_failRecord _ _ bounded
  · split
    · exact bounded_failRecord _ _ bounded
    · split
      · exact bounded_failRecord _ _ bounded
      · exact bounded_takeRecord _ _ _ _ _ bounded

end image

/-! ### Timers and the step -/

section steps

variable {s t : State} {k : Slot}

theorem bounded_age (bounded : s.bounded) : (s.age k).bounded := by
  unfold State.age State.promote
  split
  · exact bounded_offer (s := s.updRound k _) _ bounded
  · exact bounded_offer (s := s.updRound k _) _ bounded
  · exact bounded

theorem bounded_liftElapses (bounded : s.bounded) : (s.liftElapses k).bounded := by
  have lifted : ∀ n p, (s.startLifted k n p).bounded := fun n p =>
    bounded_of_anyWork (.startLifted .rfl' trivial n p) bounded
  unfold State.liftElapses State.nextPulse
  split
  · exact bounded_of_anyWork (.startClosed .rfl' trivial _ _) bounded
  · split
    · exact lifted _ _
    · split
      · exact lifted _ _
      · exact bounded_cascade (s := s.updRound k _) _ bounded
  · exact bounded

theorem bounded_drainElapses (bounded : s.bounded) :
    (if (s.round k).state = .ending then s.finishRound k else s).bounded := by
  split
  · exact bounded_finishRound bounded
  · exact bounded

theorem bounded_tick (bounded : s.bounded) : s.tick.bounded := by
  unfold State.tick
  split
  · exact bounded_takeHanded bounded
  · exact bounded_pass 1 bounded
  · exact bounded

/-- A command that ends in a bounded state. -/
theorem bounded_of_next {u : State} (e : Host.Outcome.next (φ := Fault) (ρ := Refusal) u = .next t)
    (bounded : u.bounded) : t.bounded := by
  cases e
  exact bounded

theorem bounded_exec {i : Instr} (bounded : s.bounded) (e : exec i s = .next t) : t.bounded := by
  have timer : ∀ {effect : State → State} {x : Timer}, (∀ u, u.bounded → (effect u).bounded) →
      .next (s.expire x effect) = Host.Outcome.next (φ := Fault) (ρ := Refusal) t → t.bounded :=
    fun keeps e => bounded_of_next e (bounded_expire keeps _ bounded)
  cases request : i.request? with
  | some x =>
    obtain ⟨a, r⟩ := x
    obtain performed | bad := exec_of_request request s
    · exact bounded_of_next (performed.symm.trans e) (bounded_requestArrives (actionOf_keepsBounds r) a bounded)
    · exact bounded_of_next (bad.symm.trans e) (bounded_requestArrives badRequest_keepsBounds a bounded)
  | none =>
    cases i with
    | powerOn => exact bounded_of_next e (bounded_of_empty (Nat.zero_le _) rfl rfl rfl)
    | imageHeaderRead octets =>
      simp only [exec, execImageHeaderRead] at e
      split at e
      · exact bounded_of_next e (bounded_readHeader octets bounded)
      · exact bounded_of_next e bounded
    | imageFirstPassEnd octets =>
      simp only [exec, execImageFirstPassEnd] at e
      split at e
      · exact bounded_of_next e (bounded_endFirstPass _ _ octets bounded)
      · exact bounded_of_next e bounded
    | imageRecordApply octets =>
      simp only [exec, execImageRecordApply] at e
      split at e
      · exact bounded_of_next e (bounded_readRecord _ _ _ octets bounded)
      · exact bounded_of_next e bounded
    | frameArrivalU octets =>
      exact bounded_of_next e (bounded_arriveU (s := { s with rxU := [] }) (s.rxU ++ octets) bounded)
    | frameArrivalF octets =>
      exact bounded_of_next e (bounded_arriveF (s := { s with rxF := [] }) (s.rxF ++ octets) bounded)
    | linkSilenceExpiry => exact timer (fun _ => bounded_linkExpires) e
    | nodeSilenceExpiry node =>
      simp only [exec, execNodeSilenceExpiry] at e
      split at e
      · exact timer (fun _ => bounded_nodeExpires _ _) e
      · exact bounded_of_next e bounded
    | answerSent => exact bounded_of_next (u := s.answerLeaves) e bounded
    | ageingTimerExpiry k => exact timer (fun _ => bounded_age) e
    | travelTimerExpiry k | fillTimerExpiry k | wallTimerExpiry k | holdLimitExpiry k | drainMaximumExpiry k =>
      exact timer (fun _ => bounded_cascade _) e
    | liftTimerExpiry k => exact timer (fun _ => bounded_liftElapses) e
    | drainHoldElapse k => exact timer (fun _ => bounded_drainElapses) e
    | holdTimeReached k =>
      simp only [exec, execHoldTimeReached] at e
      split at e
      · exact bounded_of_next e (bounded_cascade _ (bounded_pass _ bounded))
      · exact bounded_of_next e (bounded_cascade _ bounded)
    | interfaceOutHoldElapse h =>
      simp only [exec, execInterfaceOutHoldElapse] at e
      split at e
      · exact timer (fun _ => bounded_of_anyWork (.takePending .rfl' h)) e
      · exact bounded_of_next e bounded
    | interfaceInHoldElapse h =>
      simp only [exec, execInterfaceInHoldElapse] at e
      split at e
      · exact timer (fun _ => bounded_of_anyWork (.finishIn .rfl' h)) e
      · exact bounded_of_next e bounded
    | interfaceMaximumExpiry h => exact timer (fun _ => bounded_of_anyWork (.interfaceLong .rfl' h)) e
    | visitTimerExpiry =>
      exact bounded_of_next e (bounded_expire (fun _ => bounded_scan) _ (bounded_takeHanded bounded))
    | configWrite | configRead | tableWrite | recipeFirstPart | recipeSecondPart | tableRead | roundStart | pause
    | resume | abort | release | clear | roundRead | segmentMarkProduct | segmentMarkFree | suspectClear
    | eventFetchTake | eventFetchRepeat | restart => cases request

end steps

/-- Settles O54: an offer keeps the queue within its capacity (R193), a visit writes a miss count of 0 or 1 (R173), a
drive and a configuration record are written past their checks alone (R6, R17), and nothing else writes any of them. -/
theorem stepKeepsBounds : Obligations.StepKeepsBounds := by
  intro s t bounded e
  unfold step at e
  split at e
  next i rest _ => exact bounded_exec (s := { s with pending := rest }) bounded e
  next => exact bounded_of_next e (bounded_tick bounded)

end Sys2Proof.Machine

/-! ## A step with a command waiting, and power-on (R199) -/

namespace Sys2Proof.Machine

open Sys2Proof

/-- Settles O1: the queue's front is the command a step takes. -/
theorem stepTakesFront : Obligations.StepTakesFront := by
  intro c rest s waiting
  unfold step
  rw [waiting]

/-- Settles O4: POWER_ON writes the reset state around the waiting commands and the counter. -/
theorem powerOnResets : Obligations.PowerOnResets := fun _ => rfl

/-- Settles O55: after reset the tables are empty, every header is idle and the configuration record is the default. -/
theorem invariantsAtReset : Obligations.InvariantsAtReset :=
  ⟨canonical_of_empty rfl rfl rfl rfl rfl rfl rfl, headersSound_of_empty rfl, productApart_of_nil rfl,
    bounded_of_empty (Nat.zero_le _) rfl rfl rfl⟩

end Sys2Proof.Machine

/-! ## The image header and the first pass (R200, R201) -/

namespace Sys2Proof.Machine

open Sys2Proof

section firstPass

variable {s : State} {octets : List Octet} {marker l0 l1 c0 c1 : Octet} {length : Nat} {check : Word16}

/-- The value of a word by its octets, the low one first (R206). -/
theorem word16_toNat (low high : Octet) : (word16 low high).toNat = low.toNat + 256 * high.toNat := by
  rw [word16, BitVec.toNat_append, ← Nat.shiftLeft_add_eq_or_of_lt low.isLt, Nat.shiftLeft_eq]
  omega

theorem exec_imageHeaderRead (waits : s.loader = .awaitHeader) :
    exec (.imageHeaderRead octets) s = .next (s.readHeader octets) := by
  simp only [exec, execImageHeaderRead, waits]

theorem exec_imageFirstPassEnd (reads : s.loader = .firstPass length check) :
    exec (.imageFirstPassEnd octets) s = .next (s.endFirstPass length check octets) := by
  simp only [exec, execImageFirstPassEnd, reads]

/-- A header that the memory has not acknowledged to its end. -/
theorem readHeader_of_short (short : octets.length < 5) : s.readHeader octets = s.imageBad .noAnswer none := by
  unfold State.readHeader
  split
  next => simp at short; omega
  next => rfl

theorem readHeader_image :
    s.readHeader [0xA5, l0, l1, c0, c1] = { s with loader := .firstPass (l0.toNat + 256 * l1.toNat) (c1 ++ c0) } := by
  rw [← word16_toNat]
  rfl

theorem readHeader_blank :
    s.readHeader [0xFF, l0, l1, c0, c1] = (s.offer (s.event .imageSkipped)).endLoad := rfl

theorem readHeader_badMarker (image : marker ≠ 0xA5) (blank : marker ≠ 0xFF) :
    s.readHeader [marker, l0, l1, c0, c1] = s.imageBad .badMarker none :=
  (if_neg image).trans (if_neg blank)

/-- With the default mask no event is masked (R192). -/
theorem masked_of_default (default : s.config.eventMask = 0) (k : EventKind) : s.masked k = false := by
  simp [State.masked, maskNames, default]

theorem endFirstPass_of_short (short : octets.length < length) :
    s.endFirstPass length check octets = s.imageBad .noAnswer none := if_pos short

/-- The record area has been read whole: its CRC decides, and then its length. -/
theorem endFirstPass_of_whole (whole : octets.length = length) : s.endFirstPass length check octets =
    if crc octets ≠ check then s.imageBad .badCrc none
    else if length = 0 then s.imageLoaded 0
    else { s with loader := .secondPass length 0 0 } := by
  unfold State.endFirstPass
  rw [if_neg (by omega), List.take_of_length_le (by omega)]

end firstPass

/-- Settles O9: a header by its octets and its marker, and a first pass by its octets, its CRC and its length. -/
theorem imageHeaderAndFirstPass : Obligations.ImageHeaderAndFirstPass := by
  refine ⟨fun s octets waits => ⟨fun short => ?shortHeader, fun marker l0 l1 c0 c1 whole => ?header,
    fun default => masked_of_default default _⟩, fun s octets length check reads => ?firstPass⟩
  case shortHeader =>
    rw [exec_imageHeaderRead waits, readHeader_of_short short]
    rfl
  case header =>
    subst whole
    rw [exec_imageHeaderRead waits]
    refine ⟨fun image => ?_, fun blank => ?_, fun notImage notBlank => ?_⟩
    · rw [image, readHeader_image]
    · rw [blank, readHeader_blank]
      rfl
    · rw [readHeader_badMarker notImage notBlank]
      rfl
  case firstPass =>
    rw [exec_imageFirstPassEnd reads]
    refine ⟨fun short => ?_, fun whole differs => ?_, fun whole same records => ?_, fun none empty nothing => ?_⟩
    · rw [endFirstPass_of_short short]
      rfl
    · rw [endFirstPass_of_whole whole, if_pos differs]
      rfl
    · rw [endFirstPass_of_whole whole, if_neg (not_not.2 same), if_neg records]
    · have passes : crc octets = check := by
        rw [nothing, empty]
        decide
      rw [endFirstPass_of_whole (by rw [nothing, none]; rfl), if_neg (not_not.2 passes), if_pos none]
      rfl

end Sys2Proof.Machine

/-! ## The records of the image (R202, R209) -/

namespace Sys2Proof.Machine

open Sys2Proof

/-! ### What the beginning of an entry or a record tells of its length -/

section lengths

variable {l t : List Octet} {n : Nat} {table : TableId}

/-- The four counts of a route entry stand where the lists before them end, and tell its length. -/
theorem routeLength_eq_exact : routeLength l = .exact n ↔ ∃ c1 c2 c3 c4 : Octet, l[0]? = some c1
    ∧ l[1 + c1.toNat]? = some c2 ∧ l[1 + c1.toNat + 1 + 2 * c2.toNat]? = some c3
    ∧ l[1 + c1.toNat + 1 + 2 * c2.toNat + 1 + 2 * c3.toNat]? = some c4
    ∧ n = 1 + c1.toNat + 1 + 2 * c2.toNat + 1 + 2 * c3.toNat + 1 + 3 * c4.toNat + 6 := by
  unfold routeLength
  dsimp only
  constructor
  · intro exact
    split at exact
    next => cases exact
    next c1 first =>
      split at exact
      next => cases exact
      next c2 second =>
        split at exact
        next => cases exact
        next c3 third =>
          split at exact
          next => cases exact
          next c4 fourth => exact ⟨c1, c2, c3, c4, first, second, third, fourth, (EntryLength.exact.inj exact).symm⟩
  · rintro ⟨c1, c2, c3, c4, first, second, third, fourth, rfl⟩
    simp only [first, second, third, fourth]

/-- An octet of a list stands in every list that the list begins. -/
theorem getElem?_append_of_some {i : Nat} {c : Octet} (here : l[i]? = some c) : (l ++ t)[i]? = some c := by
  obtain ⟨bound, -⟩ := List.getElem?_eq_some_iff.1 here
  rw [List.getElem?_append_left bound, here]

theorem routeLength_append (exact : routeLength l = .exact n) : routeLength (l ++ t) = .exact n := by
  obtain ⟨c1, c2, c3, c4, first, second, third, fourth, length⟩ := routeLength_eq_exact.1 exact
  exact routeLength_eq_exact.2 ⟨c1, c2, c3, c4, getElem?_append_of_some first, getElem?_append_of_some second,
    getElem?_append_of_some third, getElem?_append_of_some fourth, length⟩

/-- A length is told, or more octets are asked for than there are and no more than the entry has. -/
def EntryLength.foretells (x : EntryLength) (read n : Nat) : Prop :=
  x = .exact n ∨ ∃ m, x = .more m ∧ read < m ∧ m ≤ n

theorem routeLength_foretells (exact : routeLength (l ++ t) = .exact n) :
    (routeLength l).foretells l.length n := by
  obtain ⟨c1, c2, c3, c4, first, second, third, fourth, rfl⟩ := routeLength_eq_exact.1 exact
  have place : ∀ i c, (l ++ t)[i]? = some c → l[i]? = some c ∨ l[i]? = none ∧ l.length ≤ i := by
    intro i c here
    by_cases bound : i < l.length
    · exact .inl (List.getElem?_append_left bound ▸ here)
    · exact .inr ⟨List.getElem?_eq_none (not_lt.1 bound), not_lt.1 bound⟩
  unfold routeLength
  obtain first | ⟨first, short⟩ := place _ _ first
  · obtain second | ⟨second, short⟩ := place _ _ second
    · obtain third | ⟨third, short⟩ := place _ _ third
      · obtain fourth | ⟨fourth, short⟩ := place _ _ fourth
        · simp only [first, second, third, fourth]
          exact .inl rfl
        · simp only [first, second, third, fourth]
          exact .inr ⟨_, rfl, by omega, by omega⟩
      · simp only [first, second, third]
        exact .inr ⟨_, rfl, by omega, by omega⟩
    · simp only [first, second]
      exact .inr ⟨_, rfl, by omega, by omega⟩
  · simp only [first]
    exact .inr ⟨_, rfl, by omega, by omega⟩

theorem entryLength_append (exact : entryLength table l = .exact n) : entryLength table (l ++ t) = .exact n := by
  cases table with
  | nodeMap | segment | valve | drive | point | station | header => exact exact
  | route => exact routeLength_append exact
  | recipe =>
    match l, exact with
    | _ :: _ :: _, exact => exact exact

/-- A recipe entry holds its part and its count, whatever follows them. -/
theorem two_le_of_recipeLength (exact : entryLength .recipe l = .exact n) : 2 ≤ n := by
  match l, exact with
  | _ :: _ :: _, exact =>
    cases exact
    omega

theorem entryLength_foretells (exact : entryLength table (l ++ t) = .exact n) :
    (entryLength table l).foretells l.length n := by
  cases table with
  | nodeMap | segment | valve | drive | point | station | header => exact .inl exact
  | route => exact routeLength_foretells exact
  | recipe =>
    match l with
    | _ :: _ :: _ => exact .inl exact
    | [] | [_] => exact .inr ⟨2, rfl, by simp, two_le_of_recipeLength exact⟩

/-! ### The length of a record -/

variable {low high form : Octet} {body : List Octet}

theorem tableCode_ne_zero (table : TableId) : tableCode table ≠ 0x00 := by cases table <;> decide

/-- The head of a table record is four octets (R209). -/
theorem recordLength_of_short (short : l.length < 3) : recordLength (tableCode table :: l) = .more 4 := by
  unfold recordLength
  dsimp only
  rw [if_neg (tableCode_ne_zero table), tableOfCode_tableCode]
  match l, short with
  | [], _ | [_], _ | [_, _], _ => rfl

/-- What a table record of a form R209 gives holds behind its head: nothing, or an entry that tells its length. -/
def recordBody (table : TableId) (form : Octet) (body : List Octet) (n : Nat) : Prop :=
  form = 0x00 ∧ n = 4 ∨ form = 0x01 ∧ ∃ m, entryLength table body = .exact m ∧ n = 4 + m

theorem recordLength_of_body (fits : recordBody table form body n) :
    recordLength (tableCode table :: low :: high :: form :: body) = .exact n := by
  unfold recordLength
  dsimp only
  rw [if_neg (tableCode_ne_zero table), tableOfCode_tableCode]
  obtain ⟨rfl, rfl⟩ | ⟨rfl, m, entry, rfl⟩ := fits
  · rfl
  · simp [entry]

theorem recordLength_of_more {m : Nat} (entry : entryLength table body = .more m) :
    recordLength (tableCode table :: low :: high :: 0x01 :: body) = .more (4 + m) := by
  unfold recordLength
  dsimp only
  rw [if_neg (tableCode_ne_zero table), tableOfCode_tableCode]
  simp [entry]

theorem recordBody_append (fits : recordBody table form body n) : recordBody table form (body ++ t) n :=
  fits.imp_right fun ⟨full, m, entry, length⟩ => ⟨full, m, entryLength_append entry, length⟩

/-- As for an entry: a record's length is told, or more octets are asked for than there are and no more than it has. -/
def RecordLength.foretells (x : RecordLength) (read n : Nat) : Prop :=
  x = .exact n ∨ ∃ m, x = .more m ∧ read < m ∧ m ≤ n

theorem four_le_of_recordBody (fits : recordBody table form body n) : 4 ≤ n := by
  obtain ⟨-, rfl⟩ | ⟨-, m, -, rfl⟩ := fits <;> omega

/-- The beginning of a table record. -/
theorem recordLength_foretells_of_body (fits : recordBody table form body n)
    (split : tableCode table :: low :: high :: form :: body = l ++ t) : (recordLength l).foretells l.length n := by
  have least := four_le_of_recordBody fits
  have head : ∀ q : List Octet, q.length < 3 → (recordLength (tableCode table :: q)).foretells (q.length + 1) n :=
    fun q short => .inr ⟨4, recordLength_of_short short, by omega, least⟩
  match l, split with
  | [], _ => exact .inr ⟨1, rfl, Nat.zero_lt_one, by omega⟩
  | [c], split | [c, _], split | [c, _, _], split =>
    obtain ⟨rfl, -⟩ := List.cons.inj split
    exact head _ (by simp)
  | c :: a :: b :: f :: q, split =>
    simp only [List.cons_append, List.cons.injEq] at split
    obtain ⟨rfl, rfl, rfl, rfl, rfl⟩ := split
    obtain empty | ⟨rfl, m, entry, rfl⟩ := fits
    · exact .inl (recordLength_of_body (.inl empty))
    · obtain exact | ⟨k, more, beyond, within⟩ := entryLength_foretells entry
      · exact .inl (recordLength_of_body (.inr ⟨rfl, m, exact, rfl⟩))
      · exact .inr ⟨4 + k, recordLength_of_more more, by simp; omega, by omega⟩

end lengths

/-! ### A record is read back from its octets -/

section records

variable {s : State} {r : ImageRecord} {c : Content} {index : Word16} {l t octets more : List Octet}
  {length position applied : Nat}

/-- An entry of an image record is read back, and its octets tell its length (R209). -/
theorem contentOf_of_recordWf (wf : (ImageRecord.table (.full index c)).wf = true) :
    contentOf (Content.table c) (contentOctets c) = c
      ∧ entryLength (Content.table c) (contentOctets c) = .exact (contentOctets c).length := by
  cases c with
  | nodeMap | segment | valve | drive | point | station | header => exact contentOf_contentOctets rfl nofun
  | route f =>
    simp only [ImageRecord.wf, Bool.and_eq_true] at wf
    obtain ⟨⟨⟨segments, setting⟩, boundary⟩, stations⟩ := wf
    have counted : routeCounted f :=
      ⟨count_toNat segments, count_toNat setting, count_toNat boundary, count_toNat stations⟩
    rw [contentOctets_route, routeOctets_length]
    exact ⟨congrArg Content.route (routeFieldsOf_octets counted), routeLength_octets counted⟩
  | recipe steps =>
    have counted : (octet steps.length).toNat = steps.length := count_toNat wf
    refine ⟨?_, ?_⟩
    · show Content.recipe (stepsOf (octet steps.length).toNat (steps.flatMap stepOctets)) = _
      rw [counted, stepsOf_flatMap]
    · show EntryLength.exact (2 + 34 * (octet steps.length).toNat) = .exact ((steps.flatMap stepOctets).length + 1 + 1)
      rw [counted, flatMap_stepOctets_length, Nat.add_comm]

/-- A table record is a head and the body that its form octet announces. -/
theorem recordOctets_table {w : TableWrite} (wf : (ImageRecord.table w).wf = true) : ∃ table low high form body,
    recordOctets (.table w) = tableCode table :: low :: high :: form :: body
    ∧ recordBody table form body (recordOctets (.table w)).length := by
  cases w with
  | unknown => cases wf
  | empty table index => exact ⟨table, _, _, 0x00, [], rfl, .inl ⟨rfl, rfl⟩⟩
  | full index c =>
    refine ⟨Content.table c, _, _, 0x01, contentOctets c, rfl, .inr ⟨rfl, _, (contentOf_of_recordWf wf).2, ?_⟩⟩
    exact Nat.add_comm _ 4

theorem recordOctets_config_length (c : ConfigRecord) : (recordOctets (.config c)).length = 31 :=
  congrArg Nat.succ (configOctets_length c)

theorem recordLength_config (t : List Octet) : recordLength (0x00 :: t) = .exact 31 := rfl

theorem recordLength_recordOctets (wf : r.wf = true) (t : List Octet) :
    recordLength (recordOctets r ++ t) = .exact (recordOctets r).length := by
  cases r with
  | config c =>
    rw [recordOctets_config_length]
    exact recordLength_config _
  | table w =>
    obtain ⟨table, low, high, form, body, octets, fits⟩ := recordOctets_table wf
    rw [octets] at fits ⊢
    exact recordLength_of_body (recordBody_append fits)

theorem recordLength_foretells (wf : r.wf = true) (split : recordOctets r = l ++ t) :
    (recordLength l).foretells l.length (recordOctets r).length := by
  cases r with
  | config c =>
    rw [recordOctets_config_length]
    match l, split with
    | [], _ => exact .inr ⟨1, rfl, Nat.zero_lt_one, by decide⟩
    | code :: l, split =>
      obtain ⟨rfl, -⟩ := List.cons.inj split
      exact .inl (recordLength_config l)
  | table w =>
    obtain ⟨table, low, high, form, body, octets, fits⟩ := recordOctets_table wf
    exact recordLength_foretells_of_body fits (octets ▸ split)

theorem four_le_recordOctets (wf : r.wf = true) : 4 ≤ (recordOctets r).length := by
  cases r with
  | config c =>
    rw [recordOctets_config_length]
    decide
  | table w =>
    obtain ⟨_, _, _, _, _, -, fits⟩ := recordOctets_table wf
    exact four_le_of_recordBody fits

theorem imageRecordOf_table {table : TableId} {low high form : Octet} {body : List Octet} :
    imageRecordOf (tableCode table :: low :: high :: form :: body) =
      if form = 0x00 then some (.table (.empty table (word16 low high)))
      else if table = .recipe ∧ octetAt body 0 ≠ 0x00 then none
      else some (.table (.full (word16 low high) (contentOf table body))) := by
  unfold imageRecordOf
  dsimp only
  rw [if_neg (tableCode_ne_zero table), tableOfCode_tableCode]

theorem imageRecordOf_recordOctets (wf : r.wf = true) : imageRecordOf (recordOctets r) = some r := by
  cases r with
  | config c => exact congrArg (some ∘ ImageRecord.config) (configOf_configOctets c)
  | table w =>
    cases w with
    | unknown => cases wf
    | empty table index =>
      show imageRecordOf (tableCode table :: _ :: _ :: [0x00]) = _
      rw [imageRecordOf_table, if_pos rfl, word16_parts]
    | full index c =>
      have whole : ¬(Content.table c = .recipe ∧ octetAt (contentOctets c) 0 ≠ 0x00) := by
        rintro ⟨recipe, part⟩
        cases c with
        | recipe => exact part rfl
        | _ => cases recipe
      show imageRecordOf (tableCode (Content.table c) :: _ :: _ :: 0x01 :: contentOctets c) = _
      rw [imageRecordOf_table, if_neg (by decide), if_neg whole, word16_parts, (contentOf_of_recordWf wf).1]

/-! ### A record read, judged and applied -/

/-- The judgement that a record of the image is put to (R202). -/
def State.refusesRecord (s : State) : ImageRecord → Bool
  | .config c => (s.refuseConfig c).isSome
  | .table w => (s.refuseWrite w).isSome

/-- The state with a record of the image written. -/
def State.withRecord (s : State) : ImageRecord → State
  | .config c => { s with config := c }
  | .table w => s.takeWrite w

theorem applyRecord_eq : s.applyRecord r = if s.refusesRecord r then none else some (s.withRecord r) := by
  cases r with
  | config c =>
    cases judged : s.refuseConfig c <;> simp [State.applyRecord, State.refusesRecord, State.withRecord, judged]
  | table w =>
    cases judged : s.refuseWrite w <;> simp [State.applyRecord, State.refusesRecord, State.withRecord, judged]

theorem exec_imageRecordApply (reads : s.loader = .secondPass length position applied) :
    exec (.imageRecordApply octets) s = .next (s.readRecord length position applied octets) := by
  simp only [exec, execImageRecordApply, reads]

/-- A record whose end lies beyond the length. -/
theorem readRecord_of_overlong (wf : r.wf = true) (beyond : length < position + (recordOctets r).length) :
    s.readRecord length position applied (recordOctets r ++ more) = s.failRecord .badRecord (applied + 1) := by
  have least := four_le_recordOctets wf
  have short : length - position < (recordOctets r).length := by omega
  have cut : (recordOctets r ++ more).take (length - position) = (recordOctets r).take (length - position) :=
    List.take_append_of_le_length (by omega)
  have read : ((recordOctets r).take (length - position)).length = length - position := by simp; omega
  unfold State.readRecord
  dsimp only
  rw [cut]
  obtain exact | ⟨m, asks, unread, -⟩ := recordLength_foretells wf (List.take_append_drop _ _).symm
  · rw [exact]
    exact if_pos short
  · rw [asks]
    exact if_pos (read ▸ unread)

/-- A record of which a read has failed. -/
theorem readRecord_of_partial (wf : r.wf = true) (beginning : octets <+: recordOctets r)
    (short : octets.length < (recordOctets r).length) (fits : position + (recordOctets r).length ≤ length) :
    s.readRecord length position applied octets = s.failRecord .noAnswer (applied + 1) := by
  obtain ⟨t, split⟩ := beginning
  unfold State.readRecord
  dsimp only
  rw [List.take_of_length_le (by omega)]
  obtain exact | ⟨m, asks, -, within⟩ := recordLength_foretells wf split.symm
  · rw [exact]
    exact (if_neg (by omega)).trans (if_pos short)
  · rw [asks]
    exact if_neg (by omega)

/-- A record read whole is judged, and the load goes on or ends behind it. -/
theorem readRecord_of_whole (wf : r.wf = true) (fits : position + (recordOctets r).length ≤ length) :
    s.readRecord length position applied (recordOctets r ++ more) =
      if s.refusesRecord r then s.failRecord .badRecord (applied + 1)
      else if position + (recordOctets r).length = length then (s.withRecord r).imageLoaded (applied + 1)
      else { s.withRecord r with loader := .secondPass length (position + (recordOctets r).length) (applied + 1) } := by
  have whole : (recordOctets r ++ more).take (length - position)
      = recordOctets r ++ more.take (length - position - (recordOctets r).length) := by
    rw [List.take_append, List.take_of_length_le (by omega)]
  unfold State.readRecord
  dsimp only
  rw [whole, recordLength_recordOctets wf]
  dsimp only
  rw [if_neg (by omega), if_neg (by simp)]
  unfold State.takeRecord
  rw [List.take_left, imageRecordOf_recordOctets wf, Option.bind_some, applyRecord_eq]
  cases s.refusesRecord r <;> rfl

end records

/-- Settles O10: the octets tell the record and its length; what is read is whole, cut by the length, or cut by the
memory. -/
theorem imageRecordApply : Obligations.ImageRecordApply := by
  intro s r more octets length position applied reads wf
  dsimp only
  rw [exec_imageRecordApply reads]
  refine ⟨?goesOn, ?last, ?refused, ?overlong, ?unread⟩
  case goesOn =>
    rintro rfl before taken
    have taken : s.refusesRecord r = false := taken
    rw [readRecord_of_whole wf before.le, taken, if_neg before.ne]
    rfl
  case last =>
    rintro rfl ends taken
    have taken : s.refusesRecord r = false := taken
    rw [readRecord_of_whole wf ends.le, taken, if_pos ends]
    rfl
  case refused =>
    rintro rfl fits refused
    have refused : s.refusesRecord r = true := refused
    rw [readRecord_of_whole wf fits, refused]
    rfl
  case overlong =>
    rintro rfl beyond
    rw [readRecord_of_overlong wf beyond]
    rfl
  case unread =>
    intro beginning short fits
    rw [readRecord_of_partial wf beginning short fits]
    rfl

end Sys2Proof.Machine

/-! ## RESTART (R197, R204, R205) -/

namespace Sys2Proof.Machine

open Sys2Proof

/-! ### The rounds RESTART waits for -/

section busy

variable {s : State} {k : Slot}

/-- A round that RESTART waits for (R204). -/
def Round.busy (r : Round) : Prop := r.state ≠ .idle ∧ r.state ≠ .done ∧ r.state ≠ .faulted

theorem busy_iff : (s.active k && (s.round k).state != .faulted) = true ↔ (s.round k).busy := by
  simp [State.active, Round.busy, and_assoc]

theorem lowestBusy_eq_none (rest : ∀ k, ¬(s.round k).busy) : s.lowestBusy = none :=
  List.find?_eq_none.2 fun k _ => busy_iff.not.2 (rest k)

/-- The first slot of the ascending order that satisfies a condition is the lowest one. -/
theorem find?_allSlots {p : Slot → Bool} (here : p k = true) (lower : ∀ j, j < k → p j = false) :
    allSlots.find? p = some k := by
  obtain ⟨before, after, split⟩ := List.append_of_mem (mem_allSlots k)
  have below : ∀ j ∈ before, j < k := fun j mem =>
    (List.pairwise_append.1 (split ▸ allSlots_ascending)).2.2 j mem k List.mem_cons_self
  exact List.find?_eq_some_iff_append.2 ⟨here, before, after, split, fun j mem => by simp [lower j (below j mem)]⟩

theorem lowestBusy_eq_some (busy : (s.round k).busy) (lower : ∀ j, j < k → ¬(s.round j).busy) :
    s.lowestBusy = some k :=
  find?_allSlots (busy_iff.2 busy) fun j below => Bool.eq_false_iff.2 (busy_iff.not.2 (lower j below))

end busy

/-! ### Part 1: the segments of FAULTED rounds -/

section suspected

variable {s : State} {k : Slot} {n : Nat}

/-- The round of a slot is FAULTED, and its route lists a segment. -/
def State.faultedOn (s : State) (n : Nat) (k : Slot) : Bool :=
  (s.round k).state == .faulted && (s.routeOf k).any fun r => r.segments.contains n

theorem faultedOn_iff :
    s.faultedOn n k = true ↔ ∃ r, (s.round k).state = .faulted ∧ s.routeOf k = some r ∧ n ∈ r.segments := by
  cases route : s.routeOf k <;> simp [State.faultedOn, route]

theorem suspectRoute_eq : s.suspectRoute k = { s with segments := (s.suspectRoute k).segments } := by
  unfold State.suspectRoute
  split
  · exact setSegStates_eq _ _ s
  · rfl

theorem suspectRoutes_eq (l : List Slot) (s : State) : l.foldl (fun s k => s.suspectRoute k) s
    = { s with segments := (l.foldl (fun s k => s.suspectRoute k) s).segments } := by
  induction l generalizing s with
  | nil => rfl
  | cons k l ih => rw [List.foldl_cons, ih, suspectRoute_eq]

/-- The entry of a segment after the segments of a list have been written. -/
theorem entry_setSegStates (l : List Nat) (st : SegmentState) (s : State) :
    Table.entry (s.setSegStates l st).segments n
      = (Table.entry s.segments n).map fun e => { e with state := if n ∈ l then st else e.state } := by
  unfold State.setSegStates
  induction l generalizing s with
  | nil => simp
  | cons m l ih =>
    rw [List.foldl_cons, ih, State.setSegState_segments, Table.entry_adjust]
    cases Table.entry s.segments n with
    | none => simp
    | some e => by_cases here : n = m <;> by_cases later : n ∈ l <;> simp [here, later]

theorem entry_suspectRoute : Table.entry (s.suspectRoute k).segments n
    = (Table.entry s.segments n).map fun e =>
        { e with state := if s.faultedOn n k then .suspect .restart else e.state } := by
  unfold State.suspectRoute
  split
  next r faulted route => simp [entry_setSegStates, State.faultedOn, faulted, route]
  next other =>
    have spared : ¬s.faultedOn n k = true := fun on =>
      have ⟨r, faulted, route, _⟩ := faultedOn_iff.1 on
      other r faulted route
    simp [spared]

/-- The slots do not interfere: writing segment states keeps rounds and routes. -/
theorem entry_suspectRoutes (l : List Slot) (s : State) :
    Table.entry (l.foldl (fun s k => s.suspectRoute k) s).segments n
      = (Table.entry s.segments n).map fun e =>
          { e with state := if l.any (s.faultedOn n) then .suspect .restart else e.state } := by
  induction l generalizing s with
  | nil => simp
  | cons k l ih =>
    have same : (s.suspectRoute k).faultedOn n = s.faultedOn n := by
      rw [suspectRoute_eq]
      rfl
    rw [List.foldl_cons, ih, entry_suspectRoute, same]
    cases Table.entry s.segments n with
    | none => rfl
    | some e => by_cases here : s.faultedOn n k = true <;> by_cases later : l.any (s.faultedOn n) = true <;>
        simp [here, later]

end suspected

/-! ### Parts 2 to 5: records, owners, stations, headers and the queue -/

section parts

variable {s : State} {k : Slot} {st : StationId} {h : HeaderId}

/-- A part of the state made of cells, each edited once: every edit writes its own cell, by what that cell holds. -/
theorem cell_foldl {ι β : Type} {read : State → ι → β} {edit : State → ι → State} {f : β → β}
    (own : ∀ s i, read (edit s i) i = f (read s i)) (other : ∀ s i j, j ≠ i → read (edit s i) j = read s j) {i : ι}
    {l : List ι} (mem : i ∈ l) (once : l.Nodup) : read (l.foldl edit s) i = f (read s i) := by
  obtain ⟨t, before, after⟩ := foldl_split (s := s) (I := fun s t => read t i = read s i) (fun _ => rfl)
    (fun _ _ _ first second => second.trans first) mem once fun t j ne => other t j i ne.symm
  rw [after, own, before]

/-- What part 2 makes of a record. -/
def Round.restarted (r : Round) : Round := if r.state = .faulted ∨ r.state = .done then Round.idle else r

theorem restarted_of_idle {r : Round} (idle : r.state = .idle) : r.restarted = r :=
  if_neg (by rw [idle]; decide)

theorem restarted_of_ended {r : Round} (rest : ¬r.busy) (started : r.state ≠ .idle) : r.restarted = Round.idle := by
  refine if_pos (by_contra fun other => rest ?_)
  obtain ⟨notFaulted, notDone⟩ := not_or.1 other
  exact ⟨started, notDone, notFaulted⟩

theorem updRound_of_eq {f g : Round → Round} (same : f (s.round k) = g (s.round k)) :
    s.updRound k f = s.updRound k g :=
  congrArg (fun r => { s with rounds := s.rounds.set k r }) same

theorem dropRound_eq : s.dropRound k = s.updRound k Round.restarted := by
  unfold State.dropRound
  split
  next gone => exact updRound_of_eq (if_pos gone).symm
  next stays => exact (updRound_id s k).symm.trans (updRound_of_eq (if_neg stays).symm)

theorem dropRounds_eq (l : List Slot) (s : State) : l.foldl (fun s k => s.dropRound k) s
    = { s with rounds := (l.foldl (fun s k => s.dropRound k) s).rounds } := by
  induction l generalizing s with
  | nil => rfl
  | cons k l ih => rw [List.foldl_cons, ih, dropRound_eq]; rfl

theorem round_dropRounds : (allSlots.foldl (fun s k => s.dropRound k) s).round k = (s.round k).restarted := by
  refine cell_foldl (read := State.round) (f := Round.restarted) (fun s j => ?_) (fun s i j ne => ?_) (mem_allSlots k)
    (by decide)
  · rw [dropRound_eq, State.round_updRound]
  · rw [dropRound_eq, State.round_updRound_ne _ _ ne]

theorem station_freeAll : s.freeAll.station st = { s.station st with granted := none, linked := false } :=
  cell_foldl (s := s) (read := State.station) (f := fun x => { x with granted := none, linked := false })
    (fun s i => s.station_updStation i _) (fun s _ _ ne => s.station_updStation_ne _ ne) (mem_allStations st) (by decide)

theorem mem_allHeaders (h : HeaderId) : h ∈ allHeaders := by
  revert h
  decide

theorem header_freeAll : s.freeAll.header h = { Header.empty with load := (s.header h).load } :=
  cell_foldl (read := State.header) (f := fun x => { Header.empty with load := x.load })
    (fun s i => s.header_updHeader i _) (fun s _ _ ne => s.header_updHeader_ne _ ne) (mem_allHeaders h) (by decide)

theorem updStations_eq (f : Station → Station) (l : List StationId) (s : State) :
    l.foldl (fun s k => s.updStation k f) s
      = { s with stations := (l.foldl (fun s k => s.updStation k f) s).stations } := by
  induction l generalizing s with
  | nil => rfl
  | cons k l ih => exact ih (s.updStation k f)

theorem updHeaders_eq (f : Header → Header) (l : List HeaderId) (s : State) :
    l.foldl (fun s k => s.updHeader k f) s
      = { s with headers := (l.foldl (fun s k => s.updHeader k f) s).headers } := by
  induction l generalizing s with
  | nil => rfl
  | cons k l ih => exact ih (s.updHeader k f)

theorem freeAll_eq : s.freeAll = { s with stations := s.freeAll.stations, headers := s.freeAll.headers } := by
  unfold State.freeAll
  rw [updHeaders_eq, updStations_eq]

/-- The one record RESTART leaves in the queue (R197, R204). -/
def State.restartedEvent (s : State) : Event :=
  { bareEvent .restarted s.partTime with
    cause := if s.overflow then some .overflow else none
    value := some (.number s.events.length) }

theorem restarted_eq : s.restarted =
    { s with staging := none, lastFetch := none, events := [s.restartedEvent], overflow := false } :=
  (offer_of_unmasked rfl).trans (enqueue_of_room (Nat.zero_lt_succ _))

/-- Part 1 of R204. -/
def State.suspected (s : State) : State := allSlots.foldl (fun s k => s.suspectRoute k) s

/-- Part 2 of R204. -/
def State.dropped (s : State) : State := allSlots.foldl (fun s k => s.dropRound k) s

theorem suspected_eq : s.suspected = { s with segments := s.suspected.segments } := suspectRoutes_eq allSlots s

theorem dropped_eq : s.dropped = { s with rounds := s.dropped.rounds } := dropRounds_eq allSlots s

/-- The five parts write the fields they name. -/
theorem restarted_of_parts {a b d : State} (suspected : a = { s with segments := a.segments })
    (dropped : b = { a with rounds := b.rounds })
    (freed : d = { b.dropOwners with stations := d.stations, headers := d.headers }) : d.restarted = { s with
      segments := a.segments
      valves := Table.each (fun _ v => { v with owner := none }) s.valves
      drives := Table.each (fun _ x => { x with owner := none }) s.drives
      stations := d.stations, headers := d.headers, rounds := b.rounds, staging := none, lastFetch := none
      events := [s.restartedEvent], overflow := false } := by
  rw [restarted_eq, freed, dropped, suspected]
  rfl

theorem restartAll_eq : s.restartAll = { s with
    segments := s.suspected.segments
    valves := Table.each (fun _ v => { v with owner := none }) s.valves
    drives := Table.each (fun _ d => { d with owner := none }) s.drives
    stations := s.suspected.dropped.dropOwners.freeAll.stations
    headers := s.suspected.dropped.dropOwners.freeAll.headers
    rounds := s.suspected.dropped.rounds
    staging := none, lastFetch := none, events := [s.restartedEvent], overflow := false } :=
  restarted_of_parts suspected_eq dropped_eq freeAll_eq

end parts

/-! ### What RESTART leaves of each table and record -/

section reads

variable {s : State} {k : Slot} {st : StationId} {h : HeaderId} {n : Nat}

theorem entry_restartAll : Table.entry s.restartAll.segments n = (Table.entry s.segments n).map fun e =>
    { e with state := if allSlots.any (s.faultedOn n) then .suspect .restart else e.state } := by
  have written : s.restartAll.segments = s.suspected.segments := by rw [restartAll_eq]
  rw [written, State.suspected, entry_suspectRoutes]

theorem round_restartAll : s.restartAll.round k = (s.round k).restarted := by
  have written : s.restartAll.rounds = s.suspected.dropped.rounds := by rw [restartAll_eq]
  have kept : s.suspected.rounds = s.rounds := by rw [suspected_eq]
  calc s.restartAll.round k
    _ = s.suspected.dropped.round k := by rw [State.round, written, State.round]
    _ = (s.suspected.round k).restarted := round_dropRounds
    _ = (s.round k).restarted := by rw [State.round, kept, State.round]

theorem station_restartAll : s.restartAll.station st = { s.station st with granted := none, linked := false } := by
  have written : s.restartAll.stations = s.suspected.dropped.dropOwners.freeAll.stations := by rw [restartAll_eq]
  have kept : s.suspected.dropped.dropOwners.stations = s.stations := by
    rw [State.dropOwners, dropped_eq, suspected_eq]
  rw [State.station, written, ← State.station, station_freeAll, State.station, kept, State.station]

theorem header_restartAll : s.restartAll.header h = { Header.empty with load := (s.header h).load } := by
  have written : s.restartAll.headers = s.suspected.dropped.dropOwners.freeAll.headers := by rw [restartAll_eq]
  have kept : s.suspected.dropped.dropOwners.headers = s.headers := by
    rw [State.dropOwners, dropped_eq, suspected_eq]
  rw [State.header, written, ← State.header, header_freeAll, State.header, kept, State.header]

end reads

section answer

variable {s : State} {a : Ask} {k : Slot}

theorem exec_restart_refused (listens : s.listens) (busy : (s.round k).busy)
    (lower : ∀ j, j < k → ¬(s.round j).busy) :
    exec (.restart a) s = .next (s.opened.closing a ⟨.roundsActive, none, some k.val, []⟩) := by
  have lowest : s.opened.lowestBusy = some k := lowestBusy_eq_some busy lower
  refine congrArg Host.Outcome.next (requestArrives_refused listens ?_)
  unfold restartAction
  rw [lowest]

theorem exec_restart_taken (listens : s.listens) (rest : ∀ k, ¬(s.round k).busy) :
    exec (.restart a) s = .next (s.opened.restartAll.closing a ⟨.ok, none, none, []⟩) := by
  have none : s.opened.lowestBusy = none := lowestBusy_eq_none rest
  have act : restartAction s.opened = (s.opened.restartAll, Reply.ok) := by
    unfold restartAction
    rw [none]
  have heard : s.opened.restartAll.linkSilent = false := by
    rw [restartAll_eq]
    exact listens.2.2
  have arrives := requestArrives_taken listens a restartAction (by rw [act]; exact heard)
  rw [act] at arrives
  exact congrArg Host.Outcome.next arrives

end answer

/-- Settles O41: the lowest busy slot refuses RESTART, and with none its five parts are read field by field. -/
theorem restart : Obligations.Restart := by
  intro a s listens
  refine ⟨fun k busy lower => exec_restart_refused listens busy lower, fun rest => ?_⟩
  refine ⟨s.opened.restartAll, exec_restart_taken listens rest, ?frame, fun n e full => ?segment, ?valves, ?drives,
    fun st => station_restartAll, fun h => header_restartAll, fun k => ?record, ?events⟩
  case frame => rw [restartAll_eq]
  case segment =>
    refine ⟨_, (entry_restartAll (s := s.opened)).trans (congrArg (Option.map _) full), fun ⟨k, r, on⟩ => ?_,
      fun none => ?_⟩
    · exact if_pos (List.any_eq_true.2 ⟨k, mem_allSlots k, faultedOn_iff.2 ⟨r, on⟩⟩)
    · refine if_neg fun listed => ?_
      obtain ⟨k, -, on⟩ := List.any_eq_true.1 listed
      obtain ⟨r, faulted, route, mem⟩ := faultedOn_iff.1 on
      exact none k r faulted route mem
  case valves => rw [restartAll_eq]; rfl
  case drives => rw [restartAll_eq]; rfl
  case record =>
    rw [round_restartAll]
    exact ⟨restarted_of_idle, fun started => restarted_of_ended (rest k) started ▸ idle_asAtPowerOn⟩
  case events => rw [restartAll_eq]; rfl

end Sys2Proof.Machine
